-- ==== Sys2Proof/Word.lean ====
section
/-!
DEFINITION. The word types of the machine and the bit-field read that the decoder and the registers
share.
-/

namespace Sys2Proof

/-- A scalar register's value (R110). -/
abbrev Word := BitVec 64

/-- A byte of memory. -/
abbrev Byte := BitVec 8

/-- Bits [lo + len - 1 : lo] of a number. -/
def bits (w lo len : Nat) : Nat := w / 2 ^ lo % 2 ^ len

end Sys2Proof
end

