-- ==== Sys2Proof/Config.lean ====
section
/-!
DEFINITION. What the products fix (R11-R19) and the values that the spec leaves
to the device. Every opaque constant here has no body: nothing can evaluate it or prove a value of
it, so a claim about the model holds for every choice (log entry 3).
-/

namespace Sys2Proof

/-- The three core classes (R14, R17). -/
inductive Cls where
  | c | v | t
  deriving DecidableEq, Repr

/-- The products, by ordering code (00_scope.md, R11, R19). -/
inductive Blend where
  | tch8221 | tch6421 | tch4621 | tcm8221
  deriving DecidableEq, Repr

namespace Config

/-- R11: the class of the cores of ring position `die` in a product; the hub and the O-dies have none. -/
def dieClass (b : Blend) (die : Nat) : Option Cls :=
  if 12 ≤ die then none
  else if die = 5 ∨ die = 11 then some .c
  else
    let v : Bool := match b with
      | .tch8221 | .tcm8221 => die == 2 || die == 8
      | .tch6421 => die == 1 || die == 3 || die == 7 || die == 9
      | .tch4621 => die % 2 == 0
    some (if v then .v else .t)

/-- R14: cores of one die of a class. -/
def coresOn : Cls → Nat
  | .c => 16
  | .v => 256
  | .t => 1152

/-- R14: cores of one cluster of a class. -/
def clusterSize : Cls → Nat
  | .c => 8
  | .v => 16
  | .t => 64

/-- R279: scratchpad bytes of one core of a class. -/
def scratchSize : Cls → Nat
  | .c => 0x40000
  | .v => 0x100000
  | .t => 0x40000

/-- R279: bytes of one core's L1 data cache. -/
def l1Size : Cls → Nat
  | .c => 0x10000
  | .v => 0x20000
  | .t => 0x8000

/-- R279: bytes of one core's instruction cache. -/
def icacheSize : Cls → Nat
  | .c => 0x10000
  | .v => 0x8000
  | .t => 0x4000

/-- R14: slices of a die's L2, and of the hub. -/
def slices : Nat := 96

/-- R14, R16: lines of one L2 slice (512 KiB), and of one hub slice (2 MiB). -/
def l2Lines : Nat := 2048
def hubLines : Nat := 8192

/-- R16, R300: bytes of one flash part. -/
def flashPart : Nat := 0x800000000

/-- The executing package's own physical package number (R281). The spec gives no number: DESIGN
CHOICE 0, log entry 13. -/
def package : Nat := 0

/-- R478: the package at the other end of each of the 16 fabric links, which the cabling fixes (log entry 2). -/
opaque cabling : Nat → Nat

/-- R478: whether the cabling joins two other packages (log entry 2). -/
opaque cabled : Nat → Nat → Bool

/-- The value of the model's counter-th free choice (log entry 3). -/
opaque freeNat : Nat → Nat

/-- The margin plan of core `core` in flash as shipped: STEP and TOP (R430, R434), log entry 7. -/
opaque planOf : Nat → Nat

/-- The boot-time contents of an ageing counter (R437): core, counter index, log entry 7. -/
opaque ageingOf : Nat → Nat → BitVec 32

/-- The value of `devrev` (R252 gives none), log entry 8. -/
opaque devRev : BitVec 32

/-- The system arena that firmware sets up (R249): 0 its physical base, 1 its size, log entry 14. -/
opaque sysArena : Nat → Nat

/-- R429: the extra draw, in units, of a core's margin step so many above its plan's START; the spec gives none (log
entry 41). -/
opaque stepDraw : Nat → Nat

/-- R490: the argument of a black-box event of a code, from what the event carries; the spec gives the
argument no layout (log entry 3). -/
opaque eventArg : Nat → List Nat → Nat

/-- The version that a firmware image carries (R487), log entry 10. -/
opaque imageVersion : List Byte → BitVec 32

/-- The public half of the identity key (R489), log entry 10. -/
opaque identityKey : List Byte

/-- Whether a signature over a byte sequence verifies (R485, R487), log entry 10. -/
opaque signatureOk : List Byte → Bool

/-- The device's RSA-3072 signature over a report (R489), log entry 10. -/
opaque signReport : List Byte → BitVec 3072

end Config
end Sys2Proof
end

