-- ==== Sys2Proof/Syntax.lean ====
section
/-!
DEFINITION. The instruction set as an abstract syntax: one constructor for each row of the
opcode table. First come the encoded instructions with operand fields, in the order of their major
opcodes, one argument for each field of the word (R62-R64); then those without operands. BAR's four
levels (R38) and TZERO's four tiles (R233) are four constructors each. The last 77 are the device's events: steps that no word encodes
(migration, walks, links, power, service), with the choices that the outside world or another unit
makes as arguments (log entry 2).
-/

namespace Sys2Proof

/-- One instruction or one device event; the docstring of each constructor names its rule. -/
inductive Instr where
  /-- R82: Latches a predicate and an optional second destination for the single instruction
  that follows. -/
  | pfx (d : BitVec 5) (e k : BitVec 1) (n : BitVec 3) (i z : BitVec 1)
  /-- R161: Adds two scalar registers modulo 2^64. -/
  | add (d a b : BitVec 5)
  /-- R161: Subtracts B from A modulo 2^64. -/
  | sub (d a b : BitVec 5)
  /-- R161: Bitwise AND of two scalar registers. -/
  | and (d a b : BitVec 5)
  /-- R161: Bitwise OR of two scalar registers. -/
  | or (d a b : BitVec 5)
  /-- R161: Bitwise XOR of two scalar registers. -/
  | xor (d a b : BitVec 5)
  /-- R161: Computes A AND NOT B. -/
  | andcm (d a b : BitVec 5)
  /-- R161: Computes A OR NOT B. -/
  | orcm (d a b : BitVec 5)
  /-- R161: Computes NOT (A XOR B). -/
  | eqv (d a b : BitVec 5)
  /-- R161: Shifts A left by B[5:0] bits. -/
  | sll (d a b : BitVec 5)
  /-- R161: Shifts A right logically by B[5:0] bits. -/
  | srl (d a b : BitVec 5)
  /-- R161: Shifts A right arithmetically by B[5:0] bits. -/
  | sra (d a b : BitVec 5)
  /-- R161: Rotates A left by B[5:0] bits. -/
  | rol (d a b : BitVec 5)
  /-- R161: Rotates A right by B[5:0] bits. -/
  | ror (d a b : BitVec 5)
  /-- R161: Signed minimum of A and B. -/
  | min (d a b : BitVec 5)
  /-- R161: Signed maximum of A and B. -/
  | max (d a b : BitVec 5)
  /-- R161: Unsigned minimum of A and B. -/
  | minn (d a b : BitVec 5)
  /-- R161: Unsigned maximum of A and B. -/
  | maxn (d a b : BitVec 5)
  /-- R161: Computes A times 2 plus B. -/
  | ixadd1 (d a b : BitVec 5)
  /-- R161: Computes A times 4 plus B. -/
  | ixadd2 (d a b : BitVec 5)
  /-- R161: Computes A times 8 plus B. -/
  | ixadd3 (d a b : BitVec 5)
  /-- R161: Counts the leading zero bits of A. -/
  | clz (d a : BitVec 5)
  /-- R161: Counts the trailing zero bits of A. -/
  | ctz (d a : BitVec 5)
  /-- R161: Counts the one bits of A. -/
  | popc (d a : BitVec 5)
  /-- R161: Reverses the eight bytes of A. -/
  | byterev (d a : BitVec 5)
  /-- R162: Adds a sign-extended 16-bit immediate to A. -/
  | addi (d a : BitVec 5) (i : BitVec 16)
  /-- R162: ANDs A with a zero-extended 16-bit immediate. -/
  | andi (d a : BitVec 5) (i : BitVec 16)
  /-- R162: ORs A with a zero-extended 16-bit immediate. -/
  | ori (d a : BitVec 5) (i : BitVec 16)
  /-- R162: XORs A with a zero-extended 16-bit immediate. -/
  | xori (d a : BitVec 5) (i : BitVec 16)
  /-- R164: Shifts A left by an immediate amount. -/
  | slli (d a : BitVec 5) (p : BitVec 6)
  /-- R164: Shifts A right logically by an immediate amount. -/
  | srli (d a : BitVec 5) (p : BitVec 6)
  /-- R164: Shifts A right arithmetically by an immediate amount. -/
  | srai (d a : BitVec 5) (p : BitVec 6)
  /-- R164: Rotates A right by an immediate amount. -/
  | rori (d a : BitVec 5) (p : BitVec 6)
  /-- R164: Extracts a bit field of A, zero-extended. -/
  | bext (d a : BitVec 5) (p l : BitVec 6)
  /-- R164: Extracts a bit field of A, sign-extended. -/
  | bexts (d a : BitVec 5) (p l : BitVec 6)
  /-- R164: Inserts the low bits of A into a field of d. -/
  | bins (d a : BitVec 5) (p l : BitVec 6)
  /-- R164: Clears a bit field of A. -/
  | bclrf (d a : BitVec 5) (p l : BitVec 6)
  /-- R164: Sets a bit field of A. -/
  | bsetf (d a : BitVec 5) (p l : BitVec 6)
  /-- R165: Low 64 bits of A times B. -/
  | mullo (d a b : BitVec 5)
  /-- R165: High 64 bits of the unsigned product. -/
  | mulhnn (d a b : BitVec 5)
  /-- R165: High 64 bits of the signed product. -/
  | mulhii (d a b : BitVec 5)
  /-- R165: High 64 bits of signed A times unsigned B. -/
  | mulhin (d a b : BitVec 5)
  /-- R165: Unsigned quotient of A by B. -/
  | quon (d a b : BitVec 5)
  /-- R165: Signed quotient of A by B. -/
  | quoi (d a b : BitVec 5)
  /-- R165: Unsigned remainder of A by B. -/
  | remn (d a b : BitVec 5)
  /-- R165: Signed remainder of A by B. -/
  | remi (d a b : BitVec 5)
  /-- R163: Loads a sign-extended immediate times 65,536. -/
  | ldhi (d : BitVec 5) (i : BitVec 21)
  /-- R163: Forms a PC-relative arena offset. -/
  | addpc (d : BitVec 5) (i : BitVec 21)
  /-- R166: Compares A = B into a predicate. -/
  | cmpeq (p : BitVec 3) (c : BitVec 2) (a b : BitVec 5)
  /-- R166: Compares A not equal to B into a predicate. -/
  | cmpne (p : BitVec 3) (c : BitVec 2) (a b : BitVec 5)
  /-- R166: Signed A < B into a predicate. -/
  | cmplt (p : BitVec 3) (c : BitVec 2) (a b : BitVec 5)
  /-- R166: Signed A >= B into a predicate. -/
  | cmpge (p : BitVec 3) (c : BitVec 2) (a b : BitVec 5)
  /-- R166: Unsigned A < B into a predicate. -/
  | cmpltu (p : BitVec 3) (c : BitVec 2) (a b : BitVec 5)
  /-- R166: Unsigned A >= B into a predicate. -/
  | cmpgeu (p : BitVec 3) (c : BitVec 2) (a b : BitVec 5)
  /-- R166: Floating equality compare into a predicate. -/
  | fcmpeq (p : BitVec 3) (c : BitVec 2) (a b : BitVec 5) (f : BitVec 2)
  /-- R166: Floating less-than compare into a predicate. -/
  | fcmplt (p : BitVec 3) (c : BitVec 2) (a b : BitVec 5) (f : BitVec 2)
  /-- R166: Floating less-or-equal compare into a predicate. -/
  | fcmple (p : BitVec 3) (c : BitVec 2) (a b : BitVec 5) (f : BitVec 2)
  /-- R166: Floating unordered compare into a predicate. -/
  | fcmpun (p : BitVec 3) (c : BitVec 2) (a b : BitVec 5) (f : BitVec 2)
  /-- R167: Compares A with an immediate for equality. -/
  | cmpeqi (p : BitVec 3) (c : BitVec 2) (a : BitVec 5) (i : BitVec 11)
  /-- R167: Compares A with an immediate for inequality. -/
  | cmpnei (p : BitVec 3) (c : BitVec 2) (a : BitVec 5) (i : BitVec 11)
  /-- R167: Signed A < immediate into a predicate. -/
  | cmplti (p : BitVec 3) (c : BitVec 2) (a : BitVec 5) (i : BitVec 11)
  /-- R167: Signed A >= immediate into a predicate. -/
  | cmpgei (p : BitVec 3) (c : BitVec 2) (a : BitVec 5) (i : BitVec 11)
  /-- R167: Unsigned A < immediate into a predicate. -/
  | cmpltui (p : BitVec 3) (c : BitVec 2) (a : BitVec 5) (i : BitVec 11)
  /-- R167: Unsigned A >= immediate into a predicate. -/
  | cmpgeui (p : BitVec 3) (c : BitVec 2) (a : BitVec 5) (i : BitVec 11)
  /-- R168: Combines two predicates by a truth table. -/
  | plog (p : BitVec 3) (c : BitVec 2) (a b : BitVec 3) (t : BitVec 4)
  /-- R169: Selects A or B by a predicate. -/
  | sel (d a b : BitVec 5) (c : BitVec 3)
  /-- R170: Scalar floating-point add. -/
  | fadd (d a b : BitVec 5) (r : BitVec 3) (f : BitVec 2)
  /-- R170: Scalar floating-point subtract. -/
  | fsub (d a b : BitVec 5) (r : BitVec 3) (f : BitVec 2)
  /-- R170: Scalar floating-point multiply. -/
  | fmul (d a b : BitVec 5) (r : BitVec 3) (f : BitVec 2)
  /-- R170: Scalar floating-point divide. -/
  | fdiv (d a b : BitVec 5) (r : BitVec 3) (f : BitVec 2)
  /-- R170: Scalar floating-point square root. -/
  | fsqrt (d a : BitVec 5) (r : BitVec 3) (f : BitVec 2)
  /-- R170: Scalar floating-point minimum. -/
  | fmin (d a b : BitVec 5) (f : BitVec 2)
  /-- R170: Scalar floating-point maximum. -/
  | fmax (d a b : BitVec 5) (f : BitVec 2)
  /-- R170: Inverts the sign bit of A. -/
  | fneg (d a : BitVec 5) (f : BitVec 2)
  /-- R170: Clears the sign bit of A. -/
  | fabs (d a : BitVec 5) (f : BitVec 2)
  /-- R170: Copies B's sign onto A's magnitude. -/
  | fcpys (d a b : BitVec 5) (f : BitVec 2)
  /-- R170: Writes the kind code and sign of A. -/
  | fkind (d a : BitVec 5) (f : BitVec 2)
  /-- R170: Converts between floating formats. -/
  | fcvt (d a : BitVec 5) (g : BitVec 2) (r : BitVec 3) (f : BitVec 2)
  /-- R170: Converts a floating value to an integer tag. -/
  | fcvti (d a t : BitVec 5) (r : BitVec 3) (f : BitVec 2)
  /-- R170: Converts an integer tag to a floating format. -/
  | fcvtf (d a t : BitVec 5) (r : BitVec 3) (f : BitVec 2)
  /-- R171: Fused multiply-add with one rounding. -/
  | fmadd (d a b c : BitVec 5) (f : BitVec 2) (r : BitVec 3)
  /-- R171: Fused negated multiply-add with one rounding. -/
  | fnmadd (d a b c : BitVec 5) (f : BitVec 2) (r : BitVec 3)
  /-- R172: Branches PC-relative when a predicate holds. -/
  | br (p : BitVec 3) (n : BitVec 1) (o : BitVec 22)
  /-- R173: PC-relative call writing the return offset. -/
  | call (d : BitVec 5) (i : BitVec 21)
  /-- R174: Calls or jumps through a register. -/
  | callr (d a : BitVec 5)
  /-- R175: Reads a control and status register. -/
  | rdcsr (d : BitVec 5) (c : BitVec 12)
  /-- R175: Writes a control and status register. -/
  | wrcsr (a : BitVec 5) (c : BitVec 12)
  /-- R175: Exchanges a control and status register with A. -/
  | xchcsr (d a : BitVec 5) (c : BitVec 12)
  /-- R175: Sets RW fields of a CSR where A holds ones. -/
  | setcsr (a : BitVec 5) (c : BitVec 12)
  /-- R175: Clears RW fields and RW1C bits of a CSR where A holds ones. -/
  | clrcsr (a : BitVec 5) (c : BitVec 12)
  /-- R185: Grants a vector length, serving pre-emption, scheduler migration and yield first. -/
  | setvl (d a t : BitVec 5)
  /-- R186: Sets the tag of a vector register. -/
  | vcfg (v t : BitVec 5)
  /-- R187: Marks a range of vector registers dead. -/
  | vkill (a b : BitVec 5)
  /-- R189: Vector add. -/
  | vadd (d a b : BitVec 5) (k : BitVec 2) (r : BitVec 3)
  /-- R189: Vector subtract. -/
  | vsub (d a b : BitVec 5) (k : BitVec 2) (r : BitVec 3)
  /-- R189: Vector reverse subtract. -/
  | vrsub (d a b : BitVec 5) (k : BitVec 2) (r : BitVec 3)
  /-- R189: Vector multiply. -/
  | vmul (d a b : BitVec 5) (k : BitVec 2) (r : BitVec 3)
  /-- R189: Vector high multiply. -/
  | vmulh (d a b : BitVec 5) (k : BitVec 2)
  /-- R189: Vector minimum. -/
  | vmin (d a b : BitVec 5) (k : BitVec 2)
  /-- R189: Vector maximum. -/
  | vmax (d a b : BitVec 5) (k : BitVec 2)
  /-- R189: Vector saturating add. -/
  | vadds (d a b : BitVec 5) (k : BitVec 2) (r : BitVec 3)
  /-- R189: Vector saturating subtract. -/
  | vsubs (d a b : BitVec 5) (k : BitVec 2) (r : BitVec 3)
  /-- R189: Vector bitwise AND. -/
  | vand (d a b : BitVec 5) (k : BitVec 2)
  /-- R189: Vector bitwise OR. -/
  | vor (d a b : BitVec 5) (k : BitVec 2)
  /-- R189: Vector bitwise XOR. -/
  | vxor (d a b : BitVec 5) (k : BitVec 2)
  /-- R189: Vector shift left logical. -/
  | vsll (d a b : BitVec 5) (k : BitVec 2)
  /-- R189: Vector shift right logical. -/
  | vsrl (d a b : BitVec 5) (k : BitVec 2)
  /-- R189: Vector shift right arithmetic. -/
  | vsra (d a b : BitVec 5) (k : BitVec 2)
  /-- R190: Copies a vector register's bits and stored tag. -/
  | vmovVv (d a : BitVec 5)
  /-- R190: Broadcasts a scalar under a named tag. -/
  | vmovVs (d t b : BitVec 5)
  /-- R190: Broadcasts an immediate under a named tag. -/
  | vmovVi (d t i : BitVec 5)
  /-- R191: Vector floating-point add. -/
  | vfadd (d a b : BitVec 5) (k : BitVec 2) (r : BitVec 3)
  /-- R191: Vector floating-point subtract. -/
  | vfsub (d a b : BitVec 5) (k : BitVec 2) (r : BitVec 3)
  /-- R191: Vector floating-point multiply. -/
  | vfmul (d a b : BitVec 5) (k : BitVec 2) (r : BitVec 3)
  /-- R191: Vector floating-point divide. -/
  | vfdiv (d a b : BitVec 5) (k : BitVec 2) (r : BitVec 3)
  /-- R191: Vector floating-point square root. -/
  | vfsqrt (d a : BitVec 5) (r : BitVec 3)
  /-- R191: Vector floating-point minimum. -/
  | vfmin (d a b : BitVec 5) (k : BitVec 2)
  /-- R191: Vector floating-point maximum. -/
  | vfmax (d a b : BitVec 5) (k : BitVec 2)
  /-- R191: Vector sign inversion. -/
  | vfneg (d a : BitVec 5)
  /-- R191: Vector absolute value. -/
  | vfabs (d a : BitVec 5)
  /-- R191: Vector copy-sign. -/
  | vfcpys (d a b : BitVec 5) (k : BitVec 2)
  /-- R191: Vector kind code, tagged n16. -/
  | vfkind (d a : BitVec 5)
  /-- R192: Vector multiply-add. -/
  | vmadd (d a b c : BitVec 5) (k : BitVec 2)
  /-- R192: Vector multiply-subtract. -/
  | vmsub (d a b c : BitVec 5) (k : BitVec 2)
  /-- R192: Vector negated multiply-add. -/
  | vnmadd (d a b c : BitVec 5) (k : BitVec 2)
  /-- R193: Vector equality compare into a mask. -/
  | vcmpeq (m : BitVec 3) (a b : BitVec 5) (k : BitVec 2)
  /-- R193: Vector inequality compare into a mask. -/
  | vcmpne (m : BitVec 3) (a b : BitVec 5) (k : BitVec 2)
  /-- R193: Vector less-than compare into a mask. -/
  | vcmplt (m : BitVec 3) (a b : BitVec 5) (k : BitVec 2)
  /-- R193: Vector less-or-equal compare into a mask. -/
  | vcmple (m : BitVec 3) (a b : BitVec 5) (k : BitVec 2)
  /-- R193: Vector greater-than compare into a mask. -/
  | vcmpgt (m : BitVec 3) (a b : BitVec 5) (k : BitVec 2)
  /-- R193: Vector greater-or-equal compare into a mask. -/
  | vcmpge (m : BitVec 3) (a b : BitVec 5) (k : BitVec 2)
  /-- R193: Vector unordered compare into a mask. -/
  | vcmpun (m : BitVec 3) (a b : BitVec 5) (k : BitVec 2)
  /-- R195: Converts a vector into a named tag, wrapping integers. -/
  | vcvt (d a : BitVec 5) (r : BitVec 3) (t : BitVec 5)
  /-- R195: Converts a vector into a named tag, saturating. -/
  | vcvts (d a : BitVec 5) (r : BitVec 3) (t : BitVec 5)
  /-- R196: Quantises a vector into a block-scaled tag with per-block scales. -/
  | vquant (d a : BitVec 5) (r : BitVec 3) (t : BitVec 2)
  /-- R198: Approximate reciprocal from an exact table. -/
  | vrcp (d a : BitVec 5)
  /-- R199: Approximate reciprocal square root from an exact table. -/
  | vrsqrt (d a : BitVec 5)
  /-- R200: Approximate power of two from an exact table. -/
  | vexp2 (d a : BitVec 5)
  /-- R208: Writes an arithmetic index sequence. -/
  | vidx (d : BitVec 5) (s t : BitVec 8) (g : BitVec 2)
  /-- R209: Register gather by index. -/
  | vgather (d a b : BitVec 5) (k : BitVec 2)
  /-- R210: Slides elements up by n. -/
  | vslideup (d a b : BitVec 5) (k : BitVec 2)
  /-- R210: Slides elements down by n. -/
  | vslidedn (d a b : BitVec 5) (k : BitVec 2)
  /-- R210: Slides up by one inserting a scalar. -/
  | vslide1up (d a b : BitVec 5)
  /-- R210: Slides down by one inserting a scalar. -/
  | vslide1dn (d a b : BitVec 5)
  /-- R211: Packs the mask-selected elements. -/
  | vcompress (d a : BitVec 5) (m : BitVec 3)
  /-- R211: Expands elements into mask-selected positions. -/
  | vexpand (d a : BitVec 5) (m : BitVec 3)
  /-- R213: Tree sum reduction into a scalar. -/
  | vredsum (d a b : BitVec 5) (r : BitVec 3)
  /-- R213: Maximum reduction into a scalar. -/
  | vredmax (d a b : BitVec 5)
  /-- R213: Minimum reduction into a scalar. -/
  | vredmin (d a b : BitVec 5)
  /-- R213: Bitwise AND reduction into a scalar. -/
  | vredand (d a b : BitVec 5)
  /-- R213: Bitwise OR reduction into a scalar. -/
  | vredor (d a b : BitVec 5)
  /-- R214: Inclusive sum scan. -/
  | vscansum (d a b : BitVec 5) (r : BitVec 3)
  /-- R214: Inclusive maximum scan. -/
  | vscanmax (d a b : BitVec 5)
  /-- R214: Inclusive minimum scan. -/
  | vscanmin (d a b : BitVec 5)
  /-- R214: Exclusive sum scan. -/
  | vxscansum (d a b : BitVec 5) (r : BitVec 3)
  /-- R214: Exclusive maximum scan. -/
  | vxscanmax (d a b : BitVec 5)
  /-- R214: Exclusive minimum scan. -/
  | vxscanmin (d a b : BitVec 5)
  /-- R215: Counts earlier equal elements for conflict detection. -/
  | vconf (d a : BitVec 5)
  /-- R216: Counts enabled set mask bits below vl. -/
  | mpopc (d : BitVec 5) (m : BitVec 3)
  /-- R216: Finds the lowest enabled set mask bit. -/
  | mfirst (d : BitVec 5) (m : BitVec 3)
  /-- R218: Combines two masks by a truth table. -/
  | mlog (d a b : BitVec 3) (t : BitVec 4)
  /-- R218: Sets mask bits before the first set bit. -/
  | msbf (d a : BitVec 3)
  /-- R218: Sets mask bits up to and including the first set bit. -/
  | msif (d a : BitVec 3)
  /-- R218: Sets only the first set bit. -/
  | msof (d a : BitVec 3)
  /-- R231: Requests the core's tile grant with a shape. -/
  | tshape (d a : BitVec 5)
  /-- R234: Loads a B tile into the CIM macros. -/
  | tldb (a b : BitVec 5) (s o : BitVec 1) (f : BitVec 3)
  /-- R235: Multiplies an A block from LOCAL into a tile. -/
  | tmma (j : BitVec 2) (a b : BitVec 5) (o : BitVec 1) (f : BitVec 3)
  /-- R237: Stores part of a tile row with conversion. -/
  | tdrain (j : BitVec 2) (a b : BitVec 5) (s : BitVec 1) (r t : BitVec 3)
  /-- R238: Loads f32 bits into part of a tile row. -/
  | taccld (j : BitVec 2) (a b : BitVec 5) (s : BitVec 1)
  /-- R239: Reads one accumulator element into a scalar. -/
  | trdacc (d : BitVec 5) (j : BitVec 2) (b : BitVec 5)
  /-- R335: Scalar load from any space with displacement. -/
  | ld (d a : BitVec 5) (z : BitVec 3) (p : BitVec 2) (o : BitVec 11)
  /-- R336: Scalar group reduction load returning a status word. -/
  | ldGrp (d a : BitVec 5) (o : BitVec 3) (t : BitVec 5)
  /-- R335: Scalar store with displacement. -/
  | st (d a : BitVec 5) (z p : BitVec 2) (o : BitVec 11)
  /-- R337: Scalar load with acquire or release semantics. -/
  | ldSem (d a : BitVec 5) (c : BitVec 3) (e : BitVec 2) (w p : BitVec 1)
  /-- R337: Full-empty load that waits for a full granule. -/
  | ldFe (d a : BitVec 5) (c : BitVec 3) (e : BitVec 2) (w p : BitVec 1)
  /-- R337: Full-empty load that clears the bit. -/
  | ldFc (d a : BitVec 5) (c : BitVec 3) (e : BitVec 2) (w p : BitVec 1)
  /-- R337: Scalar store with semantics. -/
  | stSem (d a : BitVec 5) (c : BitVec 3) (e : BitVec 2) (w p : BitVec 1)
  /-- R337: Store that sets the granule full. -/
  | stFe (d a : BitVec 5) (c : BitVec 3) (e : BitVec 2) (w p : BitVec 1)
  /-- R338: Atomic add at the line's home. -/
  | atadd (d a b : BitVec 5) (c : BitVec 3) (e : BitVec 2) (w p : BitVec 1)
  /-- R338: Atomic AND. -/
  | atand (d a b : BitVec 5) (c : BitVec 3) (e : BitVec 2) (w p : BitVec 1)
  /-- R338: Atomic OR. -/
  | ator (d a b : BitVec 5) (c : BitVec 3) (e : BitVec 2) (w p : BitVec 1)
  /-- R338: Atomic XOR. -/
  | atxor (d a b : BitVec 5) (c : BitVec 3) (e : BitVec 2) (w p : BitVec 1)
  /-- R338: Atomic signed minimum. -/
  | atmin (d a b : BitVec 5) (c : BitVec 3) (e : BitVec 2) (w p : BitVec 1)
  /-- R338: Atomic signed maximum. -/
  | atmax (d a b : BitVec 5) (c : BitVec 3) (e : BitVec 2) (w p : BitVec 1)
  /-- R338: Atomic unsigned minimum. -/
  | atminn (d a b : BitVec 5) (c : BitVec 3) (e : BitVec 2) (w p : BitVec 1)
  /-- R338: Atomic unsigned maximum. -/
  | atmaxn (d a b : BitVec 5) (c : BitVec 3) (e : BitVec 2) (w p : BitVec 1)
  /-- R338: Atomic exchange. -/
  | atxch (d a b : BitVec 5) (c : BitVec 3) (e : BitVec 2) (w p : BitVec 1)
  /-- R338: Atomic compare and exchange. -/
  | atcmpx (d a b : BitVec 5) (c : BitVec 3) (e : BitVec 2) (w p : BitVec 1)
  /-- R341: Vector load of 8-bit elements. -/
  | vld8 (d a b : BitVec 5) (m : BitVec 2) (o : BitVec 1) (e : BitVec 2) (c : BitVec 3)
  /-- R341: Vector load of 16-bit elements. -/
  | vld16 (d a b : BitVec 5) (m : BitVec 2) (o : BitVec 1) (e : BitVec 2) (c : BitVec 3)
  /-- R341: Vector load of 32-bit elements. -/
  | vld32 (d a b : BitVec 5) (m : BitVec 2) (o : BitVec 1) (e : BitVec 2) (c : BitVec 3)
  /-- R341: Vector load of 64-bit elements. -/
  | vld64 (d a b : BitVec 5) (m : BitVec 2) (o : BitVec 1) (e : BitVec 2) (c : BitVec 3)
  /-- R341: Unit-stride vector load of 4-bit elements. -/
  | vld4 (d a : BitVec 5) (b : BitVec 3) (o : BitVec 1) (e : BitVec 2) (c : BitVec 3)
  /-- R341: Block-scaled mx4 vector load with scales into the companion. -/
  | vldmx4 (d a : BitVec 5) (b : BitVec 3) (o : BitVec 1) (e : BitVec 2) (c : BitVec 3)
  /-- R341: Block-scaled mx8 vector load. -/
  | vldmx8 (d a : BitVec 5) (b : BitVec 3) (o : BitVec 1) (e : BitVec 2) (c : BitVec 3)
  /-- R341: Block-scaled mxi8 vector load. -/
  | vldmxi8 (d a : BitVec 5) (b : BitVec 3) (o : BitVec 1) (e : BitVec 2) (c : BitVec 3)
  /-- R342: Vector store of 8-bit elements. -/
  | vst8 (d a b : BitVec 5) (m : BitVec 2) (o : BitVec 1) (e : BitVec 2) (c : BitVec 3)
  /-- R342: Vector store of 16-bit elements. -/
  | vst16 (d a b : BitVec 5) (m : BitVec 2) (o : BitVec 1) (e : BitVec 2) (c : BitVec 3)
  /-- R342: Vector store of 32-bit elements. -/
  | vst32 (d a b : BitVec 5) (m : BitVec 2) (o : BitVec 1) (e : BitVec 2) (c : BitVec 3)
  /-- R342: Vector store of 64-bit elements. -/
  | vst64 (d a b : BitVec 5) (m : BitVec 2) (o : BitVec 1) (e : BitVec 2) (c : BitVec 3)
  /-- R342: Unit-stride vector store of 4-bit elements. -/
  | vst4 (d a : BitVec 5) (o : BitVec 1) (e : BitVec 2) (c : BitVec 3)
  /-- R342: Block-scaled mx4 vector store with scale bytes. -/
  | vstmx4 (d a : BitVec 5) (o : BitVec 1) (e : BitVec 2) (c : BitVec 3)
  /-- R342: Block-scaled mx8 vector store. -/
  | vstmx8 (d a : BitVec 5) (o : BitVec 1) (e : BitVec 2) (c : BitVec 3)
  /-- R342: Block-scaled mxi8 vector store. -/
  | vstmxi8 (d a : BitVec 5) (o : BitVec 1) (e : BitVec 2) (c : BitVec 3)
  /-- R343: Vector atomic add per element. -/
  | vatadd (d a b : BitVec 5) (m : BitVec 2) (o : BitVec 1) (e : BitVec 2) (c : BitVec 3)
  /-- R343: Vector atomic AND per element. -/
  | vatand (d a b : BitVec 5) (m : BitVec 2) (o : BitVec 1) (e : BitVec 2) (c : BitVec 3)
  /-- R343: Vector atomic OR per element. -/
  | vator (d a b : BitVec 5) (m : BitVec 2) (o : BitVec 1) (e : BitVec 2) (c : BitVec 3)
  /-- R343: Vector atomic XOR per element. -/
  | vatxor (d a b : BitVec 5) (m : BitVec 2) (o : BitVec 1) (e : BitVec 2) (c : BitVec 3)
  /-- R343: Vector atomic minimum per element. -/
  | vatmin (d a b : BitVec 5) (m : BitVec 2) (o : BitVec 1) (e : BitVec 2) (c : BitVec 3)
  /-- R343: Vector atomic maximum per element. -/
  | vatmax (d a b : BitVec 5) (m : BitVec 2) (o : BitVec 1) (e : BitVec 2) (c : BitVec 3)
  /-- R343: Vector atomic exchange per element. -/
  | vatxch (d a b : BitVec 5) (m : BitVec 2) (o : BitVec 1) (e : BitVec 2) (c : BitVec 3)
  /-- R348: Orders the thread's accesses at a scope. -/
  | fence (c : BitVec 3) (e : BitVec 2)
  /-- R349: Arms a monitor and waits while a memory value equals B. -/
  | waita (d a b : BitVec 5) (c : BitVec 3) (e w p : BitVec 1)
  /-- R352: Writes back die-private dirty bytes of a range. -/
  | rwb (a b : BitVec 5) (p : BitVec 1)
  /-- R352: Writes back and drops die-private lines of a range. -/
  | rinv (a b : BitVec 5) (p : BitVec 1)
  /-- R353: Maps a stash range onto GLOBAL memory. -/
  | stmap (d a b : BitVec 5)
  /-- R354: Removes a stash mapping after writing back its dirty sectors. -/
  | stunmap (d b : BitVec 5)
  /-- R380: Starts a memory-to-memory stream transfer. -/
  | strm (a : BitVec 5) (j : BitVec 3) (s : BitVec 1)
  /-- R381: Starts a stream gather of records into vector registers. -/
  | strmv (d a b : BitVec 5) (p : BitVec 1) (n j : BitVec 3) (s : BitVec 1)
  /-- R385: Waits until a stream counter reaches a target. -/
  | strmw (b : BitVec 5) (j : BitVec 3)
  /-- R391: Stages a message on a channel. -/
  | send (d a h : BitVec 5) (l : BitVec 7) (s : BitVec 1)
  /-- R392: Takes a message from a channel ring, waiting if empty. -/
  | recv (d a h : BitVec 5) (l : BitVec 7) (s : BitVec 1)
  /-- R392: Takes a message if present, else reports empty. -/
  | recvt (d a h : BitVec 5) (l : BitVec 7) (s : BitVec 1)
  /-- R393: Writes a 64-byte work token to a token window. -/
  | tokw (a b : BitVec 5) (s : BitVec 1)
  /-- R397: Passes a launch block to a launch unit and receives the launch number. -/
  | launch (d a : BitVec 5) (s : BitVec 1)
  /-- R400: Leaves the domains of the masked levels. -/
  | dleave (m : BitVec 4)
  /-- R402: Starts a collective on a stream counter. -/
  | coll (a : BitVec 5) (s : BitVec 1) (j : BitVec 3)
  /-- R274: Moves the thread to the core owning a scratchpad window. -/
  | migrate (a : BitVec 5)
  /-- R272: Raises the system-call trap. -/
  | sysc (a : BitVec 5)
  /-- R276: Pre-empts and saves another context into an image. -/
  | ctxsave (d a b : BitVec 5)
  /-- R277: Restores a context from an image. -/
  | ctxload (d a b : BitVec 5)
  /-- R419: Writes a table entry word, incrementing GEN. -/
  | tblw (d a b : BitVec 5)
  /-- R419: Reads a table entry word into memory. -/
  | tblr (d a b : BitVec 5)
  /-- R421: Invalidates cached translations of a range. -/
  | tinv (d a b : BitVec 5)
  /-- R440: Reads an ageing counter of the executing core. -/
  | agrd (d a : BitVec 5)
  /-- R440: Reads an ageing counter of a named core. -/
  | agrdx (d a b : BitVec 5)
  /-- R441: Requests step-up, quarantine, core reset or re-plan of a core. -/
  | mgnreq (d a b : BitVec 5)
  /-- R454: Reads a counter register of a named core. -/
  | ctrdx (d a b : BitVec 5)
  /-- R454: Clears the event counters of a named core. -/
  | ctzero (d b : BitVec 5)
  /-- R355: Prefetch hint filling the die L2 for reading. -/
  | pfL2r (a : BitVec 5) (i : BitVec 16)
  /-- R355: Prefetch hint filling the die L2 with write permission. -/
  | pfL2w (a : BitVec 5) (i : BitVec 16)
  /-- R355: Prefetch hint filling the die L2 and the core L1. -/
  | pfL1 (a : BitVec 5) (i : BitVec 16)
  /-- R371: Priority hint setting the thread's service priority. -/
  | pri (n : BitVec 4)
  /-- R78: Any other hint word, with no effect beyond an issue slot. -/
  | hint (h : BitVec 1) (a k : BitVec 5) (i : BitVec 16)
  /-- R232: Releases the tile grant. -/
  | trel
  /-- R233: Zeroes an accumulator tile (tile a0). -/
  | tzero0
  /-- R233: Zeroes an accumulator tile (tile a1). -/
  | tzero1
  /-- R233: Zeroes an accumulator tile (tile a2). -/
  | tzero2
  /-- R233: Zeroes an accumulator tile (tile a3). -/
  | tzero3
  /-- R386: Returns from a user-level interrupt handler. -/
  | uiret
  /-- R56: Retires the thread and updates the completion word. -/
  | endT
  /-- R38: Registers arrival at a level-k domain barrier and waits for the phase to close (level
  0). -/
  | bar0
  /-- R38: Registers arrival at a level-k domain barrier and waits for the phase to close (level
  1). -/
  | bar1
  /-- R38: Registers arrival at a level-k domain barrier and waits for the phase to close (level
  2). -/
  | bar2
  /-- R38: Registers arrival at a level-k domain barrier and waits for the phase to close (level
  3). -/
  | bar3
  /-- R269: Returns from a trap handler abandoning any convoy. -/
  | tret
  /-- R273: Returns from a trap handler restarting the convoy. -/
  | vresume
  /-- R272: Raises the breakpoint trap. -/
  | brk
  /-- R46: Injects the migration packet once prior accesses and saves are done. -/
  | migrationInject (c t : Nat)
  /-- R47: Accepts, forwards or discards an arriving migration packet. -/
  | migrationArrival (c t : Nat)
  /-- R367: Gives a freed run-queue entry to the oldest waiting packet. -/
  | arrivalBufferAdmit (core : Nat)
  /-- R49: Completes the load of a non-resident vector register from the save area. -/
  | vectorLazyLoad (c t : Nat) (v : BitVec 5)
  /-- R366: Binds the head of the ready order to a free holder. -/
  | threadBind (core : Nat)
  /-- R30: Frees a gated holder when a READY thread enters the run queue. -/
  | waitbToWaitu (c t : Nat)
  /-- R54: Marks a thread for yield after 20 µs on a holder with others ready. -/
  | yieldMark (c t : Nat)
  /-- R54: Forces out a thread when the pre-emption deadline expires. -/
  | preemptionDeadline (c t : Nat)
  /-- R45: Ends a 4,096-instruction window and sets a pending target class. -/
  | schedulerWindowEnd (c t : Nat)
  /-- R369: Grants one element-group slot per cycle among eligible harts. -/
  | elementGroupGrant (core : Nat)
  /-- R184: Completes a vector instruction L cycles after its last slot. -/
  | vectorComplete (c t : Nat)
  /-- R251: Reports an uncorrectable error on a store when its acknowledgement returns. -/
  | storeErrorAck (c t : Nat) (addr : BitVec 64)
  /-- R32: A command-processor command starts a launch. -/
  | commandProcessorLaunch (u ctx : Nat) (block : BitVec 512)
  /-- R261: A command-processor request pre-empts a context. -/
  | commandProcessorPreempt (ctx deadline : Nat) (pa : Nat)
  /-- R267: A command-processor command restores a context image. -/
  | commandProcessorRestore (ctx pa : Nat)
  /-- R263: Completes a context image once all threads, transfers and messages have settled. -/
  | contextImageComplete (ctx : Nat)
  /-- R359: Accepts or refuses a token written into a token window. -/
  | workToken (u : Nat) (src : BitVec 16) (whole : Bool) (tok : BitVec 512)
  /-- R359: Reads the handler entry for the token at the queue head and starts a launch or kills
  the token. -/
  | tokenDispatch (u : Nat)
  /-- R33: Performs the head launch: checks, placement and thread creation. -/
  | launchPerform (u : Nat)
  /-- R33: Inserts waiting threads of a launch as run-queue entries free. -/
  | launchQueueInsert (u : Nat)
  /-- R360: Reading the record window removes and latches the oldest dead-token record. -/
  | deadTokenRecordRead (u : Nat)
  /-- R370: Starts the next queued stream transfer. -/
  | streamTransferStart (core : Nat)
  /-- R383: Lands one element of a transfer and updates its counter. -/
  | streamElementLanding (core e : Nat)
  /-- R123: Takes a pending user-level interrupt at an instruction boundary. -/
  | userInterruptEntry (c t : Nat)
  /-- R387: Loads sc0–sc7 from the save block when the last SCBUSY bit clears. -/
  | countersReturn (c t : Nat)
  /-- R402: Polls an unseen READY word every 1 µs. -/
  | collReadyPoll (core q : Nat)
  /-- R402: Copies a ready rank's shard and sets its flag. -/
  | collShardCopy (core q : Nat)
  /-- R373: Accepts or refuses a message at its destination ring. -/
  | messageDelivery (core cls k : Nat)
  /-- R373: Offers a refused message or token again once room frees. -/
  | retryOffer (core cls : Nat)
  /-- R345: A group-load request reaches a member and reads its bytes or finds it absent. -/
  | groupMemberRequest (c t j : Nat)
  /-- R295: Completes a page walk and fills the translation caches. -/
  | pageWalkComplete (die ctx page : Nat)
  /-- R293: Evicts a line, writing back its dirty bytes. -/
  | cacheEviction (die line : Nat)
  /-- R425: A shadow latch detects a late transition and the unit replays its work. -/
  | lateTransitionReplay (hits : Nat × Nat)
  /-- R428: Starts a 65,536-cycle window and clears WIN. -/
  | replayWindowStart (core : Nat)
  /-- R433: Closes a guarded-margin window after 8 cycles. -/
  | guardWindowExpire (core : Nat)
  /-- R435: Measures the ring oscillator every 1 ms and may compute a new plan. -/
  | ageingMeasure (core : Nat) (rodly : BitVec 32) (flashOk : Bool)
  /-- R437: Writes lifetime ageing counters back to flash each hour. -/
  | ageingWriteback (core : Nat)
  /-- R436: Resets a core and applies its pending or current margin plan. -/
  | coreReset (core : Nat)
  /-- R485: Boots the package through the ROM, verifying firmware and manifest. -/
  | packagePowerUp
  /-- R491: Warm-resets the package, clearing dumped frozen rings. -/
  | warmReset
  /-- R445: Sets thermal and current caps and each cluster's clock every 10 µs. -/
  | powerControlInterval (die cluster thermal activity level : Nat)
  /-- R444: A die receives a budget request and lends its surplus. -/
  | loanRequest (lender borrower units interval : Nat) (sustained : Bool)
  /-- R444: A die receives a granted budget loan. -/
  | loanGrant (loan : Nat)
  /-- R444: A lender receives a renewal request and accepts or declines it. -/
  | loanRenewal (loan : Nat) (accept : Bool)
  /-- R444: The borrower stops counting an unrenewed loan 10 µs before expiry. -/
  | loanStopCount (loan : Nat)
  /-- R444: A loan expires 1 ms after its grant. -/
  | loanExpiry (loan : Nat)
  /-- R447: An alarm drops every cluster to 450 MHz within 500 ns. -/
  | fastThrottleAlarm (src : BitVec 2)
  /-- R447: Releases throttle after 1 ms with every alarm clear. -/
  | fastThrottleRelease
  /-- R446: Ends the 2 µs settle after throttle release. -/
  | throttleSettleEnd
  /-- R450: Powers down an idle lane group after 1 µs. -/
  | laneGroupPowerDown (core lg : Nat)
  /-- R372: Ends a 200 ns break-even hold, queueing any waiting wake. -/
  | breakEvenHoldEnd (core lg : Nat)
  /-- R372: Requests a wake of a powered-down lane group. -/
  | laneGroupWake (core lg : Nat)
  /-- R372: Serves up to four wake requests at each 100 ns boundary. -/
  | inrushService (die : Nat)
  /-- R478: Receives a link frame, accepting it or returning a negative acknowledgement. -/
  | linkFrameReceive (link : Nat) (chan : BitVec 2) (seq : Nat) (crcOk room : Bool) (msg : BitVec 2304)
  /-- R478: On a negative acknowledgement resends the frame and later frames of its channel. -/
  | linkNak (link : Nat) (chan : BitVec 2) (seq : Nat)
  /-- R479: Declares a link failed and reroutes its packets on the escape channel. -/
  | linkFailure (link : Nat)
  /-- R478: Declares a link failed after 10 µs without acknowledgement. -/
  | linkAckTimeout (link : Nat)
  /-- R482: Gives up a fabric access, message or token after 100 µs without a path. -/
  | fabricGiveUp (kind c t : Nat) (addr : BitVec 64)
  /-- R474: Performs a host access through BAR0 or BAR2. -/
  | hostAccess (u : Nat) (bar2 : Bool) (off len : Nat) (data : Option (BitVec 512))
  /-- R475: Fails a CXL memory access after a 10 ms completion timeout. -/
  | cxlCompletionTimeout (c t : Nat) (addr : BitVec 64)
  /-- R475: Serves a CXL back-invalidation for a shared line. -/
  | cxlBackInvalidate (line : Nat)
  /-- R477: Service command 1 raises the service alarm. -/
  | svcRaiseAlarm (u : Nat)
  /-- R477: Service command 2 clears the service alarm. -/
  | svcClearAlarm (u : Nat)
  /-- R487: Service command 3 verifies and writes a firmware image. -/
  | svcFirmwareUpdate (u len : Nat)
  /-- R489: Service command 4 writes a signed attestation report. -/
  | svcAttest (u : Nat)
  /-- R491: Service command 5 freezes and dumps every die's ring. -/
  | svcBlackboxDump (u : Nat)
  /-- R477: Service command 6 copies the manifest in force into the buffer. -/
  | svcManifestCopy (u : Nat)
  /-- R477: An unassigned service command sets LAST to 0xFF. -/
  | svcInvalidCmd (u : Nat)
  /-- R491: Completes a frozen ring's dump to flash and sets DUMPED. -/
  | blackboxDumpComplete (die : Nat)
  /-- R7: Writes a device register that has no behaviour of its own. -/
  | registerWrite (pa : Nat) (v : BitVec 64)
  /-- R68: A word that is not an assigned encoding executes and meets its major's fate: poison
  of s(d) or v(vd), the illegal-instruction fault, or the no-suitable-class fault. -/
  | unassignedEncoding (w : BitVec 32)
  /-- R298: A fetch at PC at or beyond the arena size raises the arena fault before any word is
  decoded. -/
  | arenaFault
  /-- R279: Loss of package power zeroes the black-box rings and loses the ageing counts made
  since the last write-back, while flash keeps its contents. -/
  | powerLoss
  /-- R447: A junction-sensor, package-current or external alarm input goes clear and starts the
  1 ms before throttle release. -/
  | fastThrottleAlarmClear (src : BitVec 2)
  /-- R484: A packet arrives at an Ultra Ethernet port carrying a peer's RUD or ROD access to
  local SENDBUF, READY or flag memory. -/
  | ultraEthernetReceive (port pa len : Nat) (data : Option (BitVec 512))
  /-- R280: Another host of a CXL pool writes the pooled memory and so changes the CXL tier. -/
  | cxlPoolHostWrite (pa : Nat) (data : BitVec 8)
  /-- R491: A fault in firmware is recorded as a fatal event, and the die's black-box ring
  freezes and is dumped. -/
  | firmwareFault (die : Nat)
  deriving DecidableEq, Repr

end Sys2Proof
end

