-- ==== Sys2Proof/Machine/State.lean ====
section
/-!
DEFINITION. The state of a whole package as plain data: the threads with every register of R108, the
cores, dies and clusters with the units the spec gives them, memory, the device tables, the launch
units, links, flash and service registers, and what the outside will do next. State.reset is the
package at power-up (R279, R485).
-/

namespace Sys2Proof.Machine

/-- The name of a thread: its context and its identifier within the context (R25). -/
structure TRef where
  ctx : Nat
  tid : Nat
  deriving DecidableEq, Repr

/-- R29: the states of a thread. -/
inductive RunState where
  | ready | run | waitb | waitu | transit | saved | done
  deriving DecidableEq, Repr

/-- One vector register of a thread: its slice padded with zeros to 8,192 bits (R108, R113), its tag
(R112), whether the holder has its contents (R49), whether its save-area image is valid (R131), and the bits of that
image below the smallest slice that the thread has moved to since it was written (R113). -/
structure VReg where
  bits : BitVec 8192
  tag : BitVec 5
  resident : Bool
  saved : Bool
  bound : Nat := 8192
  deriving DecidableEq, Repr

/-- A stream completion that asked for a user-level interrupt (R123, R383). -/
structure Pending where
  id : BitVec 32
  ctr : BitVec 3
  handler : Word
  deriving DecidableEq, Repr

/-- One entry of a convoy record (R255). -/
structure ConvoyEntry where
  iaddr : BitVec 32
  start : BitVec 12
  vl : BitVec 12
  pp : Bool
  pfxl : BitVec 12
  deriving DecidableEq, Repr

/-- The convoy record of a thread (R255), up to four entries, oldest first. -/
structure Convoy where
  valid : Bool
  resume : Word
  entries : List ConvoyEntry
  deriving DecidableEq, Repr

/-- The entries that VRESUME has still to reissue (R273): those behind the one at PC, where the thread
goes on afterwards, and the architectural `vl`. -/
structure Reissue where
  rest : List ConvoyEntry
  resume : Word
  vl : Word
  deriving DecidableEq, Repr

/-- A physical place with the attribute of the page that reached it (R291). -/
structure Place where
  pa : Nat
  attr : BitVec 2
  deriving DecidableEq, Repr

/-- What a thread in WAITB or WAITU waits for (R30). The instruction stays at PC until it is served. -/
inductive Wait where
  /-- R349: WAITA on the 4 or 8 bytes at a physical address; `priv`: on a die-private page; `loc`: of a LOCAL
  address. -/
  | waita (va : Word) (pa : Nat) (priv wide : Bool) (cmp : Word) (d : BitVec 5) (loc : Bool)
  /-- R392: RECV on channel `chan`, with the checked places of its buffer, 16 bytes each; `core` holds
  the ring. -/
  | recv (chan : Nat) (buf : List Place) (core : Nat) (d : BitVec 5)
  /-- R38: BAR at a level. -/
  | bar (level : Nat)
  /-- R288: a .fe or .fc load of the granule that holds physical address `pa`, on a device-class page or not, with its prefix
  (R31, R83). -/
  | fullEmpty (va : Word) (pa : Nat) (clear wide dev : Bool) (d : BitVec 5) (latch : Option (BitVec 12))
  /-- R385: STRMW on counter j until COUNT reaches the target. -/
  | stream (j : BitVec 3) (target : BitVec 32)
  deriving DecidableEq, Repr

/-- What one member of a group load has answered (R345, R346). -/
inductive MemberReply where
  | pending | absent | failed
  | value (v : BitVec 64)
  deriving DecidableEq, Repr

/-- An instruction that keeps its holder in RUN until other units answer (R276, R345). -/
inductive Stall where
  /-- A scalar group load: operator, tag, offset, and for each member its logical core with the physical core that
  its core entry named at issue (none where no entry did, R423) and its reply. -/
  | group (d : BitVec 5) (op : BitVec 3) (tag : BitVec 5) (offset : Nat)
      (members : List (Option (Nat × Nat) × MemberReply))
  /-- A CTXSAVE waiting for the image of a context, to be written at a virtual address. -/
  | ctxsave (d : BitVec 5) (ctx : Nat) (base : Word)
  deriving DecidableEq, Repr

/-- A migration under way (R44, R47). `sys`: to a system handler; `fixed`: never forwarded (R274);
`sched`: a scheduler migration (R45). -/
structure Mig where
  dest : Nat
  src : Nat
  cause : Nat
  fwd : Nat
  sys : Bool
  fixed : Bool
  sched : Bool
  injected : Bool
  deriving DecidableEq, Repr

/-- How many element-group slots the groups of a vector instruction take (R184, R206, R356). -/
inductive SlotUse where
  /-- k slots for each group. -/
  | each (k : Nat)
  /-- VCONF: g + 1 slots for group g. -/
  | rising
  /-- MPOPC, MFIRST and major 0x1F: one slot in total. -/
  | once
  /-- Strided and indexed accesses and atomics: the group's elements at the address rate (R356, R449). -/
  | addresses
  deriving DecidableEq, Repr

/-- A vector instruction issued and not yet completed (R253): its flags, `vl`, the element it began at, the elements
that have not yet taken their slots, the slots that the group in progress has taken, and W of R180; the slots of its
groups; the registers it writes, those it reads with the distance of the element read, and those it reads whole
(R206; v0 to v31 are 0 to 31, m0 to m7 are 32 to 39). `place` is false for major 0x1F, which takes none of the four
places (R357, R368); `requests`: its elements are requests to memory (R356). -/
structure VEntry where
  flags : BitVec 6
  vl : Nat
  start : Nat
  left : Nat
  taken : Nat
  width : Nat
  slots : SlotUse
  dst : List Nat
  src : List (Nat × Int)
  whole : List Nat
  place : Bool
  requests : Bool
  deriving DecidableEq, Repr

/-- An instruction of major 0x20 issued and not yet completed (R240): its flags, whether the drain store unit executes
it, whether it is one of the at most four TDRAIN and TACCLD of R253, its accumulator tile, and whether it accesses memory (R348). -/
structure MEntry where
  flags : BitVec 6
  drains : Bool
  divided : Bool
  tile : Option (BitVec 2)
  requests : Bool := false
  deriving DecidableEq, Repr

/-- A thread with all its registers (R108). -/
structure Thread where
  ctx : Nat
  tid : Nat
  launch : BitVec 32
  index : Nat
  core : Nat
  slot : Nat
  run : RunState
  pc : Word
  s : Vector Word 32
  poison : BitVec 32
  pw : BitVec 8
  v : Vector VReg 32
  m : Vector (BitVec 2048) 8
  vl : Word
  vspace : Word
  vfill : Word
  vesr : Word
  tshape : Word
  tstat : Word
  trpc : Word
  trcause : Word
  trval : Word
  trelem : Word
  trvec : Word
  xferid : Word
  ulipc : Word
  dom : Vector (BitVec 16) 4
  sc : Vector Word 8
  latch : Option (BitVec 12)
  pending : List Pending
  scbusy : BitVec 8
  /-- sc0 to sc7 live in the save block until COUNTERS_RETURN (R387). -/
  scAway : Bool
  convoy : Convoy
  reissue : Option Reissue
  /-- The vector instructions issued and not yet completed, oldest first (R253, R120). -/
  vq : List VEntry
  /-- The matrix queue of the slot, oldest first (R240, R357). -/
  mq : List MEntry
  wait : Option Wait
  stall : Option Stall
  mig : Option Mig
  /-- FWD of the packet of the thread's latest migration for a tile grant (R236); 0 after any other. -/
  grantFwd : Nat
  saveArea : Word
  winInstr : Nat
  winVec : Nat
  winMat : Nat
  target : Option Cls
  hold : Nat
  bindTime : Nat
  deadline : Option Nat
  before : Option RunState
  restoredRun : Bool
  priority : BitVec 4
  /-- Addresses of stores whose error is still to be reported, in the order of their acknowledgements (R251). -/
  storeErrors : List Word
  /-- It leaves its quarantined or fenced core at the next instruction boundary (R44). -/
  leaving : Bool
  /-- A fatal fault that waits for the thread's transfers to complete (R56, R59). -/
  dying : Bool
  deriving DecidableEq, Repr

/-- A cached translation of a context (R295): virtual and physical page bases, the page's size as a
power of two, its permissions and attribute (R291). -/
structure TlbEntry where
  ctx : Nat
  vbase : Nat
  pbase : Nat
  sizeLog : Nat
  read : Bool
  write : Bool
  attr : BitVec 2
  deriving DecidableEq, Repr

/-- A line that a core's instruction cache holds (R279, R299): its context, PC / 256, valid sectors and words. -/
structure ICLine where
  ctx : Nat
  line : Nat
  valid : BitVec 8
  data : BitVec 2048
  deriving DecidableEq, Repr

/-- A coherent line in an L1, an L2 or a hub slice (R16, R289): PA / 256, valid and dirty sectors, and whether a
die holds it with write permission. The bytes themselves are those of State.mem, which every copy of a
coherent line agrees with. -/
structure CacheLine where
  line : Nat
  valid : BitVec 8
  dirty : BitVec 8
  own : Bool
  deriving DecidableEq, Repr

/-- A request for a translation (R295): context and 64 KiB virtual page, the cores that wait for it, and whether
the access needs R and W. -/
structure WalkReq where
  ctx : Nat
  page : Nat
  core : Nat
  read : Bool
  write : Bool
  deriving DecidableEq, Repr

/-- A present sector of a stash (R285): its stash offset / 32, the physical address and permissions of its fill,
and whether it is dirty. -/
structure StashSector where
  ctx : Nat
  sector : Nat
  pa : Nat
  read : Bool
  write : Bool
  dirty : Bool
  deriving DecidableEq, Repr

/-- A stash mapping (R285, R353): stash offset, length, and the context and virtual base of the GLOBAL
range it binds. -/
structure StashMap where
  off : Nat
  len : Nat
  ctx : Nat
  vbase : Word
  deriving DecidableEq, Repr

/-- What a transfer does with its elements (R380, R381, R402). -/
inductive XferKind where
  /-- STRM: element by element from source to destination. -/
  | copy (src dst : List Place)
  /-- STRMV: records of nf fields into registers from v(d) on. -/
  | gather (d : BitVec 5) (nf : Nat) (src : List (List Place))
  /-- COLL: operation, tag, reduction, n, P, r, the rank table, RECVBUF, FLAGS and SEQ; and which
  ranks have been seen ready and copied. -/
  | coll (op : Nat) (tag : BitVec 5) (red : BitVec 3) (n p r : Nat) (send ready : List Place)
      (recv : List Place) (flags : List Place) (seq : Word) (seen copied : List Nat)
  deriving DecidableEq, Repr

/-- A stream command or the transfer in progress (R370, R379, R383). -/
structure Xfer where
  ref : TRef
  ctr : BitVec 3
  kind : XferKind
  bytes : Nat
  count : Nat
  landed : List Nat
  id : BitVec 32
  irq : Bool
  handler : Word
  passed : Nat
  flags : BitVec 6
  srcAddr : List Word
  checked : List (Nat × Nat)
  deriving DecidableEq, Repr

/-- A message in a retry buffer (R373, R390): class 0 ORDERED, 1 BULK, 2 CONTROL, 3 TOKEN. -/
structure Msg where
  cls : Nat
  sender : TRef
  dstPkg : Nat
  dstCore : Nat
  dstCtx : Nat
  chan : Nat
  len : Nat
  data : BitVec 2048
  srcCore : Nat
  srcPkg : Nat
  seq : Word
  time : Word
  pa : Nat
  refused : Bool
  /-- Sent before the latest save of its sender (R375). -/
  old : Bool := false
  /-- How many of its paths through a third package have failed (R479). -/
  tried : Nat := 0
  deriving DecidableEq, Repr

/-- The tile unit of a T-core (R115, R220, R221): who holds the grant, the accumulators, the CIM
codes in 16-bit places, the block scales, the format loaded, and the TLDB that loaded it (R245). -/
structure Tile where
  holder : Option TRef
  acc : BitVec 524288
  codes : BitVec 524288
  scales : BitVec 8192
  fmt : BitVec 3
  loaded : Option (Word × Word × BitVec 32)
  deriving DecidableEq, Repr

/-- A margin plan, with RODLY at the time it was computed (R435, R437). -/
structure Plan where
  start : BitVec 4
  top : BitVec 4
  retire : Bool
  rodly : BitVec 32
  deriving DecidableEq, Repr

/-- The ageing counters of a core and its plans (R435-R438, R494). -/
structure Ageing where
  rodly : BitVec 32
  rodref : BitVec 32
  rplLife : Word
  winmax : BitVec 16
  /-- POH at a device time in ns; it grows from then on (R438). -/
  poh : Word
  pohSince : Nat
  plan : Plan
  rev : BitVec 16
  pend : Option Plan
  quar : Bool
  cec : BitVec 32
  lastrp : Word
  /-- No plan could be read at core reset, and none has been computed since (R494). -/
  unread : Bool
  /-- No plan could be read at the latest core reset: RODREF reads 0 (R494). -/
  refHidden : Bool
  deriving DecidableEq, Repr

/-- A lane group's rail (R372, R450). -/
inductive LaneGroup where
  | active
  /-- Powered down at a device time, still in its break-even hold; whether a wake waits. -/
  | hold (since : Nat) (wake : Bool)
  | down
  /-- In the in-rush queue. -/
  | queued
  /-- Served; ready at a device time. -/
  | waking (ready : Nat)
  deriving DecidableEq, Repr

/-- The state of one core (R14, R279, R357, R437, R451). -/
structure CoreSt where
  harts : Nat
  stash : BitVec 2
  ready : List TRef
  arrivals : List TRef
  streamQ : List Xfer
  xfer : Option Xfer
  retry : List Msg
  seqs : List ((Nat × Nat × Nat) × Word)
  /-- Packets that a full arrival buffer refused, in the order of their first refusal (R367). -/
  refusals : List TRef
  tlb : List TlbEntry
  /-- The miss buffer: pages in translation (R295). -/
  misses : List WalkReq
  icache : List ICLine
  l1 : List CacheLine
  stashMaps : List StashMap
  sectors : List StashSector
  tile : Tile
  step : BitVec 4
  top : BitVec 4
  guard : Bool
  rplTotal : BitVec 32
  rplWin : BitVec 16
  acted : Bool
  age : Ageing
  /-- The copy of the lifetime values and plans in flash (R437). -/
  stored : Ageing
  quarantined : Bool
  counters : Vector Word 18
  cycBase : Nat
  lanes : Vector LaneGroup 4
  /-- The device time at which an element group last used each lane group (R450). -/
  laneUsed : Vector Nat 4
  passedOver : Vector Nat 8
  deriving DecidableEq, Repr

/-- A die-private copy of a line (R293): valid sectors, data, and the dirty-byte mask. -/
structure PrivLine where
  line : Nat
  valid : BitVec 8
  data : BitVec 2048
  dirty : BitVec 256
  deriving DecidableEq, Repr

/-- Budget of one kind on one die (R443, R451). -/
structure Budget where
  own : BitVec 16
  lent : BitVec 16
  borr : BitVec 16
  deriving DecidableEq, Repr

/-- From a device time on, a draw and a holding, both in the units of Power.lean (R443, R445). -/
structure Sample where
  since : Nat
  draw : Nat
  hold : Nat
  deriving DecidableEq, Repr

/-- The state of one die: its translation cache and walker queue (R295), coherent lines of its L2 (R289),
die-private copies (R293), black-box ring (R490), budgets (R443), the activity of its HBM4E stack or optics, the
samples of the last 10 s, newest first (R445), the last request of each kind served in a control interval (R444), in-rush
queue (R372), and whether it is cut off (R481). -/
structure DieSt where
  tcache : List TlbEntry
  /-- The pages that wait for a walker, by context, each once (R295). -/
  walks : List (Nat × Nat)
  l2 : List CacheLine
  lines : List PrivLine
  ring : List (Nat × BitVec 128)
  next : BitVec 12
  frozen : Bool
  dumped : Bool
  dumps : BitVec 16
  peak : Budget
  sust : Budget
  activity : Nat
  samples : List Sample
  served : List (Bool × Nat × Nat)
  inrush : List (Nat × Nat)
  cut : Bool
  /-- When the die was cut off, in ns (R482). -/
  cutSince : Nat
  deriving DecidableEq, Repr

/-- The clock of one cluster (R446, R451); cycles are counted from a base (R428). -/
structure Cluster where
  mhz : Nat
  thc : Bool
  cuc : Bool
  bst : Bool
  lvl : BitVec 2
  boost : Option Nat
  cycBase : Nat
  nsBase : Nat
  /-- The measured activity of the last interval, in thousandths of full rate (R22, R445). -/
  activity : Nat
  /-- The draws of the last 100 µs, newest first (R362). -/
  samples : List Sample
  /-- Device time and cycles at the latest control interval boundary, and the draw of the interval before it (R443,
  R444). -/
  mark : Nat × Nat
  drew : Nat
  deriving DecidableEq, Repr

/-- A barrier boost grant (R42): the domain phase it serves, the cluster, and its power units. -/
structure BoostGrant where
  ctx : Nat
  launch : BitVec 32
  level : Nat
  num : Nat
  phase : BitVec 32
  cluster : Nat × Nat
  units : Nat
  deriving DecidableEq, Repr

/-- A loan of budget between dies (R444). -/
structure Loan where
  id : Nat
  lender : Nat
  borrower : Nat
  sustained : Bool
  units : Nat
  granted : Bool
  expiry : Nat
  renewed : Bool
  counted : Bool
  deriving DecidableEq, Repr

/-- An accepted token, or a refused one with the core whose retry buffer keeps it (R359). -/
structure Token where
  tok : BitVec 512
  time : Word
  src : BitVec 16
  whole : Bool
  core : Option Nat := none
  deriving DecidableEq, Repr

/-- Which party starts a launch (R32). -/
inductive Source where
  /-- A LAUNCH instruction. -/
  | thread
  /-- A command of the command processor. -/
  | command
  /-- A work token with its acceptance time and source, the generation of its handler entry, and the
  kernel slot it names (R360, R412). -/
  | token (tok : Token) (gen kslot : Nat)
  deriving DecidableEq, Repr

/-- A launch with the parameters of R32. -/
structure Launch where
  ctx : Nat
  num : BitVec 32
  n : Nat
  l : Nat
  widths : List Nat
  entry : Word
  arg : Word
  compVa : Word
  comp : Nat
  save : Word
  placeSet : BitVec 16
  placement : Nat
  deriving DecidableEq, Repr

/-- A launch in a launch queue (R361): how far R33 has gone, and the cores and threads per core of the
placement chosen. -/
structure LaunchReq where
  launch : Launch
  source : Source
  started : Bool
  inserted : Nat
  cores : List Nat
  tpc : Nat
  deriving DecidableEq, Repr

/-- A launch unit with the service registers of its C-die (R357-R361, R476). -/
structure LaunchUnit where
  tokens : List Token
  refused : List Token
  dead : List (BitVec 1024)
  latched : BitVec 1024
  count : BitVec 32
  lost : BitVec 16
  queue : List LaunchReq
  /-- The handler entry read for the token at the head (R359, R423). -/
  entry : Option (BitVec 256)
  /-- The host port of this C-die is enabled (R485, R488). -/
  hostPort : Bool
  last : BitVec 8
  busy : Option (BitVec 64)
  salm : Bool
  fenced : Bool
  recov : Bool
  svcbuf : Word
  /-- The completion status of the latest command-processor command (R34, R277). -/
  cmdStatus : Word
  deriving DecidableEq, Repr

/-- One domain of a launch (R38). -/
structure Domain where
  ctx : Nat
  launch : BitVec 32
  level : Nat
  num : Nat
  phase : BitVec 32
  arrivals : Nat
  expected : Nat
  deriving DecidableEq, Repr

/-- A save of a context under way (R261-R263): the deadline in ns, and where the image goes, through
the translations of a context or, for the command processor, physically. -/
structure Saving where
  deadline : Nat
  base : Nat
  via : Option Nat
  deriving DecidableEq, Repr

/-- What the device counts and remembers for a context (R25, R261). -/
structure CtxSt where
  nextLaunch : BitVec 32
  nextTid : Nat
  saving : Option Saving
  isSaved : Bool
  /-- The status of the latest save (R277). -/
  saveStatus : Nat
  deriving DecidableEq, Repr

/-- The occupancy of a channel ring (R390, R411). -/
structure Ring where
  ctx : Nat
  chan : Nat
  first : Nat
  held : Nat
  deriving DecidableEq, Repr

/-- A WAITA monitor record (R349). -/
structure Monitor where
  ref : TRef
  /-- The die whose L2 slice is the home of a die-private line (R290). -/
  die : Option Nat
  pa : Nat
  wide : Bool
  cmp : Word
  deriving DecidableEq, Repr

/-- One leg of a path (R479): a link, the virtual channel taken on it, and the die it leads to; 17 stands for another
package. -/
structure Hop where
  link : Nat
  chan : BitVec 2
  dest : Nat
  deriving DecidableEq, Repr

/-- A frame sent on one of a link's four virtual channels and not yet acknowledged (R13, R478): 0 request, 1
response, 2 message, 3 escape. -/
structure Frame where
  link : Nat
  chan : BitVec 2
  seq : Nat
  resends : Nat
  sent : Nat
  core : Nat
  msg : Option Msg
  /-- The die at the link's other end. -/
  dest : Nat := 17
  /-- The later legs of the packet's path. -/
  rest : List Hop := []
  deriving DecidableEq, Repr

/-- The links (R478-R482): failed links, frames outstanding, next sequence numbers received and sent,
and negative acknowledgements returned. -/
structure Links where
  failed : List Nat
  /-- When each failed link was declared failed, in ns (R482). -/
  failedAt : List (Nat × Nat)
  frames : List Frame
  rxNext : List ((Nat × Nat) × Nat)
  txNext : List ((Nat × Nat) × Nat)
  naks : List (Nat × Nat × Nat)
  /-- R480: source, destination core, class and sequence number of the packets accepted. -/
  accepted : List (Nat × Nat × Nat × Word)
  /-- R479: the packets of other packages that have gone back to their sources. -/
  returned : List (Nat × Nat × Nat × Word)
  /-- When a frame of a link was last acknowledged, in ns. -/
  acked : List (Nat × Nat)
  deriving DecidableEq, Repr

/-- Fast throttle (R446, R447): the alarm inputs (0 sensor, 1 current, 2 external, 3 service), whether
it is active, since when all alarms are clear, and the end of the settle. -/
structure Throttle where
  alarms : BitVec 4
  active : Bool
  clearSince : Nat
  settle : Option Nat
  deriving DecidableEq, Repr

/-- The manifest in force (R486), with its text for service command 6. -/
structure Manifest where
  text : List Byte
  blend : Blend
  package : Nat
  peak : List Nat
  sust : List Nat
  budget : Nat
  boost : Option Nat
  limit : Nat
  minfw : BitVec 32
  /-- CXL ranges decoded: first address and length (R475). -/
  cxl : List (Nat × Nat)
  /-- Ultra Ethernet segments: number and entry (R484). -/
  segments : List (Nat × BitVec 256)
  deriving DecidableEq, Repr

/-- The flash store (R300): the bytes of placed images in its two parts, firmware image and version, manifest, and
dump slots. The directory is table 9, and the margin plans are CoreSt.stored. -/
structure Flash where
  part0 : List Host.Cell
  part1 : List Host.Cell
  fw : List Byte
  fwVersion : BitVec 32
  manifest : Manifest
  dumpNext : List (Nat × Nat)
  dumpSlots : List ((Nat × Nat) × List (Nat × BitVec 128))
  deriving DecidableEq, Repr

/-- A word of a device table: table, context (0 for tables 0 and 9), index and word (R405). -/
structure TableKey where
  tbl : Nat
  ctx : Nat
  index : Nat
  word : Nat
  deriving DecidableEq, Repr

/-- What acts in the package beside the instruction in hand (log entry 2): a thread's own units, another thread in RUN,
and the units of cores, dies, launch units and contexts. -/
inductive Agent where
  | thread (r : TRef)
  | runner (r : TRef)
  | engine (core : Nat)
  | messages (core : Nat)
  | runQueue (core : Nat)
  | lanes (core : Nat)
  | loans
  | walkers (die : Nat)
  | inrush (die : Nat)
  | launches (u : Nat)
  | image (ctx : Nat)
  deriving DecidableEq, Repr

/-- What the outside does next (log entry 2). -/
inductive Input where
  /-- A device event happens. -/
  | event (i : Instr)
  /-- Device time passes, in ns (R452). -/
  | elapse (ns : Nat)
  /-- Another thread takes the next turn. -/
  | focus (ctx tid : Nat)
  /-- A byte of memory gets, or loses, an uncorrectable error (R442). -/
  | softError (pa : Nat) (bad : Bool)
  /-- A soft error in a core's scratchpad is corrected (R438, R442). -/
  | corrected (core : Nat)
  /-- What timing adds to event counter 0x200 + k of a core (R453, log entry 1). -/
  | cycles (core k n : Nat)
  /-- A core's instruction cache fills the sector of a context's code at an offset ahead of its fetch (R292,
  R299). -/
  | fetchAhead (core ctx off : Nat)
  /-- A migration packet that no device of the package sent reaches a core (R47). -/
  | packet (core : Nat) (p : BitVec 2304)
  /-- The hub directory meets an uncorrectable error (R491). -/
  | directoryError
  /-- Another package writes a byte of its own memory, of its scratchpads (perhaps the last byte of a granule, R288) or of
  its device windows. -/
  | peerWrite (pa : Nat) (data : BitVec 8) (full : Bool)
  /-- A peer in another load-store domain writes a byte of its memory (R484). -/
  | remoteWrite (peer : BitVec 128) (job : BitVec 32) (addr : Word) (data : BitVec 8)
  /-- Capacity of a CXL device is added or released (R475). -/
  | capacity (base len : Nat) (present : Bool)
  /-- Message k of a class in a core's retry buffer goes one leg further (R478, R479). -/
  | hop (core cls k : Nat)
  /-- The packet of a frame sent through a third package comes back (R479). -/
  | packetReturned (link seq : Nat)
  deriving DecidableEq, Repr

/-- The whole package. -/
structure State where
  /-- The product (R11, R19). -/
  blend : Blend
  /-- The thread whose turn it is (log entry 2). -/
  cur : Thread
  /-- Every other thread that is not DONE. -/
  threads : List Thread
  mem : List Host.Cell
  /-- Full granules, by physical address / 16, rising (R288). -/
  full : List Nat
  /-- Physical bytes with an uncorrectable error (R442). -/
  bad : List Nat
  /-- Coherent lines in the hub slices (R289). -/
  hub : List CacheLine
  /-- Bytes of the CXL tier that a dirty cached sector is ahead of: what the pool itself still holds (R280,
  R289). -/
  behind : List Host.Cell
  cores : List (Nat × CoreSt)
  dies : List (Nat × DieSt)
  clusters : List ((Nat × Nat) × Cluster)
  loans : List Loan
  boosts : List BoostGrant
  launches : List Launch
  domains : List Domain
  ctxs : List (Nat × CtxSt)
  rings : List Ring
  tables : List (TableKey × BitVec 256)
  monitors : List Monitor
  /-- Loads waiting on empty granules, in order of arrival (R288). -/
  feWaiters : List TRef
  /-- Threads waiting in RECV, in order of registration (R392). -/
  recvWaiters : List TRef
  unit0 : LaunchUnit
  unit1 : LaunchUnit
  systvec : Word
  devfeat : Word
  devrev : Word
  pdefault : Word
  /-- Physical base and size of the system arena, which firmware sets up (R249). -/
  sysArb : Nat
  sysArs : Nat
  dtime : Nat
  /-- The device time of the latest power-up or warm reset. -/
  bootTime : Nat
  throttle : Throttle
  links : Links
  manifest : Manifest
  flash : Flash
  /-- Capacity of CXL devices that came or went, the latest first: first address, length, and whether it is there
  (R475). -/
  capacity : List (Nat × Nat × Bool)
  /-- What peers in other load-store domains hold, by peer, job and remote address (R484). -/
  peers : List Host.Cell
  /-- The physical byte at which the next access of a thread fails (R475, R482). -/
  failing : Option (TRef × Nat)
  /-- The latest instruction has not completed; other units act before it is tried again (log entry 2). -/
  held : Bool
  /-- The agents, the one that acted last at the end (R330, log entry 2). -/
  agenda : List Agent
  /-- Instructions fetched since other units last took a turn (R330, log entry 2). -/
  streak : Nat
  inputs : List Input
  free : Nat
  deriving DecidableEq, Repr

/-- Why a run stops. No rule of the spec stops the machine; the one fault is the model's own. -/
inductive Fault where
  /-- Raised by margin, power-manager and service events when an argument names a unit that the package
  does not have: the spec gives such a step no meaning. Safe: no state follows. -/
  | noSuchUnit
  deriving DecidableEq, Repr

/-- Why a step is refused. -/
inductive Refusal where
  /-- Raised by exec's arm of an instruction that has no meaning yet. Safe: no state follows. -/
  | notModelled (mnemonic : String)
  deriving DecidableEq, Repr

/-- A vector register of a new thread: dead and zero (R35, R108). -/
def VReg.zero : VReg := { bits := 0, tag := 0, resident := true, saved := false }

/-- The registers of a new thread before the launch writes its own (R35, R108). Its identity and
its state are those of no thread: DONE, in no run queue (log entry 5). -/
def Thread.null : Thread where
  ctx := 0
  tid := 0
  launch := 0
  index := 0
  core := 0
  slot := 0
  run := .done
  pc := 0
  s := Vector.replicate 32 0
  poison := 0
  pw := 1
  v := Vector.replicate 32 VReg.zero
  m := (Vector.replicate 8 0).set 0 (BitVec.allOnes 2048)
  vl := 0
  vspace := 0
  vfill := 0
  vesr := 0
  tshape := 0
  tstat := 0x400
  trpc := 0
  trcause := 0
  trval := 0
  trelem := 0
  trvec := 0
  xferid := 0
  ulipc := 0
  dom := Vector.replicate 4 0
  sc := Vector.replicate 8 0
  latch := none
  pending := []
  scbusy := 0
  scAway := false
  convoy := { valid := false, resume := 0, entries := [] }
  reissue := none
  vq := []
  mq := []
  wait := none
  stall := none
  mig := none
  grantFwd := 0
  saveArea := 0
  winInstr := 0
  winVec := 0
  winMat := 0
  target := none
  hold := 0
  bindTime := 0
  deadline := none
  before := none
  restoredRun := false
  priority := 8
  storeErrors := []
  leaving := false
  dying := false

/-- The tile unit at core reset: no grant, accumulators +0.0, no tile loaded (R115, R222). -/
def Tile.reset : Tile :=
  { holder := none, acc := 0, codes := 0, scales := BitVec.ofNat 8192 ((2 ^ 8192 - 1) / 255 * 0x7F),
    fmt := 0, loaded := none }

/-- Whether the plan that flash holds for a core as shipped cannot be read (R494, log entry 7). -/
def unreadable (core : Nat) : Bool := Config.planOf core % 2 == 1

/-- The plan that a core takes from flash as shipped, within START ≤ TOP ≤ 15 (R435, log entry 7); 15
and 15 where it cannot be read (R494). -/
def Plan.shipped (core : Nat) : Plan :=
  let top : Nat := if unreadable core then 15 else Config.planOf core / 2 % 16
  let start : Nat := if unreadable core then 15 else Config.planOf core / 32 % (top + 1)
  { start := BitVec.ofNat 4 start, top := BitVec.ofNat 4 top, retire := false,
    rodly := Config.ageingOf core 0 }

/-- The ageing counters of a core as shipped, at the device time of a boot (R437, R494, log entry 7). -/
def Ageing.shipped (core boot : Nat) : Ageing where
  rodly := Config.ageingOf core 0
  rodref := Config.ageingOf core 1
  rplLife := (Config.ageingOf core 2).setWidth 64
  winmax := 0
  poh := (Config.ageingOf core 4).setWidth 64
  pohSince := boot
  plan := Plan.shipped core
  rev := if unreadable core then 0 else (Config.ageingOf core 5).setWidth 16
  pend := none
  quar := false
  cec := 0
  lastrp := (Config.ageingOf core 7).setWidth 64
  unread := unreadable core
  refHidden := unreadable core

/-- A core after its first reset, at the device time of the boot (R279, R357, R430, R437, R453). Hart partition 1 and stash size 0 are
DESIGN CHOICE, log entry 6. -/
def CoreSt.reset (core boot : Nat) : CoreSt where
  harts := 1
  stash := 0
  ready := []
  arrivals := []
  streamQ := []
  xfer := none
  retry := []
  seqs := []
  refusals := []
  tlb := []
  misses := []
  icache := []
  l1 := []
  stashMaps := []
  sectors := []
  tile := Tile.reset
  step := (Plan.shipped core).start
  top := (Plan.shipped core).top
  guard := false
  rplTotal := 0
  rplWin := 0
  acted := false
  age := Ageing.shipped core boot
  stored := Ageing.shipped core boot
  quarantined := false
  counters := Vector.replicate 18 0
  cycBase := 0
  lanes := Vector.replicate 4 .active
  laneUsed := Vector.replicate 4 0
  passedOver := Vector.replicate 8 0

/-- Equal shares of a package total over dies 0 to 16 (R486). -/
def equalShare (total : Nat) : BitVec 16 := BitVec.ofNat 16 (total / 17)

/-- A die at power-up (R279, R443, R490). -/
def DieSt.reset : DieSt where
  tcache := []
  walks := []
  l2 := []
  lines := []
  ring := []
  next := 0
  frozen := false
  dumped := false
  dumps := 0
  peak := { own := equalShare 7200, lent := 0, borr := 0 }
  sust := { own := equalShare 6000, lent := 0, borr := 0 }
  activity := 0
  samples := []
  served := []
  inrush := []
  cut := false
  cutSince := 0

/-- A cluster at the device time of a boot: 1,800 MHz (R451). -/
def Cluster.reset (boot : Nat) : Cluster :=
  { mhz := 1800, thc := false, cuc := false, bst := false, lvl := 0, boost := none, cycBase := 0,
    nsBase := boot, activity := 0, samples := [], mark := (boot, 0), drew := 0 }

/-- A launch unit at power-up (R357, R360, R476). -/
def LaunchUnit.reset : LaunchUnit where
  tokens := []
  refused := []
  dead := []
  latched := 0
  count := 0
  lost := 0
  queue := []
  entry := none
  hostPort := true
  last := 0
  busy := none
  salm := false
  fenced := false
  recov := false
  svcbuf := 0
  cmdStatus := 0

/-- A context for which nothing has happened yet. R25 says that launch numbers increase and wrap, and not
where they begin: the first launch and the first thread identity are 0 (DESIGN CHOICE, log entry 27). -/
def CtxSt.reset : CtxSt := { nextLaunch := 0, nextTid := 0, saving := none, isSaved := false, saveStatus := 0 }

/-- The manifest as shipped: every field at its default (R486, log entry 9). -/
def Manifest.default : Manifest where
  text := []
  blend := .tch8221
  package := Config.package
  peak := List.replicate 17 (7200 / 17)
  sust := List.replicate 17 (6000 / 17)
  budget := 6000
  boost := none
  limit := 4200
  minfw := 0
  cxl := []
  segments := []

/-- The flash store as shipped (R300, log entry 7). -/
def Flash.shipped : Flash where
  part0 := []
  part1 := []
  fw := []
  fwVersion := 0
  manifest := Manifest.default
  dumpNext := []
  dumpSlots := []

/-- The package at power-up, before any context exists. -/
def State.reset : State where
  blend := .tch8221
  cur := Thread.null
  threads := []
  mem := []
  full := []
  bad := []
  hub := []
  behind := []
  cores := []
  dies := []
  clusters := []
  loans := []
  boosts := []
  launches := []
  domains := []
  ctxs := []
  rings := []
  tables := []
  monitors := []
  feWaiters := []
  recvWaiters := []
  unit0 := LaunchUnit.reset
  unit1 := LaunchUnit.reset
  systvec := 0
  devfeat := 0x7F
  devrev := Config.devRev.setWidth 64
  pdefault := 50
  sysArb := Config.sysArena 0
  sysArs := Config.sysArena 1
  dtime := 0
  bootTime := 0
  throttle := { alarms := 0, active := false, clearSince := 0, settle := none }
  links := { failed := [], failedAt := [], frames := [], rxNext := [], txNext := [], naks := [], accepted := [], returned := [], acked := [] }
  manifest := Manifest.default
  flash := Flash.shipped
  capacity := []
  peers := []
  failing := none
  held := false
  agenda := []
  streak := 0
  inputs := []
  free := 0

end Sys2Proof.Machine
end

