-- ==== Sys2Proof/Machine/Mem.lean ====
section
/-!
DEFINITION. Memory: bytes by physical address in one canonical list (R279, R281), the physical map,
the cores' and dies' records, device tables, translation (R295, R418), the caches of coherent lines (R289), and
die-private copies (R293).
-/

namespace Sys2Proof.Machine

/-! ### Bytes -/

/-- The byte at a physical address; an unlisted address reads as zero (R279, log entry 4). -/
def readByte : List Host.Cell → Nat → Byte
  | [], _ => 0
  | (k, b) :: t, a => if a = k then b else if a < k then 0 else readByte t a

/-- Write one byte, keeping the list rising and free of zero entries. -/
def writeByte : List Host.Cell → Nat → Byte → List Host.Cell
  | [], a, b => if b = 0 then [] else [(a, b)]
  | (k, c) :: t, a, b =>
    if a < k then (if b = 0 then (k, c) :: t else (a, b) :: (k, c) :: t)
    else if a = k then (if b = 0 then t else (k, b) :: t)
    else (k, c) :: writeByte t a b

/-- Addresses above a bound, strictly rising, and no entry equal to zero. -/
def wfFrom : Nat → List Host.Cell → Bool
  | _, [] => true
  | lo, (k, b) :: t => decide (lo ≤ k) && b != 0 && wfFrom (k + 1) t

/-- The canonical form of memory. -/
def Memory.wf (m : List Host.Cell) : Bool := wfFrom 0 m

/-- The n bytes from an address as a little-endian number (R6). -/
def readNat (m : List Host.Cell) (a : Nat) : Nat → Nat
  | 0 => 0
  | n + 1 => (readByte m a).toNat + 256 * readNat m (a + 1) n

/-- Write the low n bytes of a number, least significant first (R6). -/
def writeNat (m : List Host.Cell) (a : Nat) : Nat → Nat → List Host.Cell
  | 0, _ => m
  | n + 1, v => writeNat (writeByte m a (BitVec.ofNat 8 v)) (a + 1) n (v / 256)

/-! ### Lists by key -/

/-- The value of a key. -/
def lookup {κ α : Type} [DecidableEq κ] : List (κ × α) → κ → Option α
  | [], _ => none
  | (j, x) :: t, k => if j = k then some x else lookup t k

/-- Give a key a value, in place or at the end. -/
def assign {κ α : Type} [DecidableEq κ] : List (κ × α) → κ → α → List (κ × α)
  | [], k, x => [(k, x)]
  | (j, y) :: t, k, x => if j = k then (j, x) :: t else (j, y) :: assign t k x

/-- Insert a number into a rising list. -/
def insertNat : List Nat → Nat → List Nat
  | [], a => [a]
  | k :: t, a => if a < k then a :: k :: t else if a = k then k :: t else k :: insertNat t a

/-- Remove a number from a list. -/
def removeNat (l : List Nat) (a : Nat) : List Nat := l.filter (· != a)

/-- A bit vector with one bit given a value. -/
def putBit {n : Nat} (w : BitVec n) (i : Nat) (b : Bool) : BitVec n :=
  if b then w ||| BitVec.twoPow n i else w &&& ~~~(BitVec.twoPow n i)

/-! ### Cores, dies, clusters -/

/-- The die of a physical core number (R47). -/
def dieOf (core : Nat) : Nat := core / 4096

/-- The class of a physical core number, if a product has that core (R11, R14, R47). -/
def coreCls (b : Blend) (core : Nat) : Option Cls :=
  match Config.dieClass b (core / 4096) with
  | some k => if core % 4096 < Config.coresOn k then some k else none
  | none => none

/-- The class of a core of the package. -/
abbrev State.cls (s : State) (core : Nat) : Option Cls := coreCls s.blend core

/-- The cluster of a core: its die and its index there (R14). -/
def clusterOf (b : Blend) (core : Nat) : Nat × Nat :=
  match coreCls b core with
  | some k => (core / 4096, core % 4096 / Config.clusterSize k)
  | none => (core / 4096, 0)

/-- The core's record; a core nothing has touched is as after its reset. -/
def State.core (s : State) (n : Nat) : CoreSt := (lookup s.cores n).getD (CoreSt.reset n s.bootTime)

def State.setCore (s : State) (n : Nat) (c : CoreSt) : State := { s with cores := assign s.cores n c }

def State.die (s : State) (n : Nat) : DieSt := (lookup s.dies n).getD DieSt.reset

def State.setDie (s : State) (n : Nat) (d : DieSt) : State := { s with dies := assign s.dies n d }

def State.cluster (s : State) (n : Nat × Nat) : Cluster := (lookup s.clusters n).getD (Cluster.reset s.bootTime)

def State.setCluster (s : State) (n : Nat × Nat) (c : Cluster) : State :=
  { s with clusters := assign s.clusters n c }

def State.ctxSt (s : State) (n : Nat) : CtxSt := (lookup s.ctxs n).getD CtxSt.reset

def State.setCtx (s : State) (n : Nat) (c : CtxSt) : State := { s with ctxs := assign s.ctxs n c }

/-- The next free choice (log entry 3). -/
def State.fresh (s : State) : Nat × State := (Config.freeNat s.free, { s with free := s.free + 1 })

/-- R428: a cluster's arithmetic-clock cycles since power-up. -/
def Cluster.cycles (c : Cluster) (now : Nat) : Nat := c.cycBase + (now - c.nsBase) * c.mhz / 1000

/-- `ccyc` of a core: cycles since its reset (R451). -/
def State.ccyc (s : State) (core : Nat) : Nat :=
  (s.cluster (clusterOf s.blend core)).cycles s.dtime - (s.core core).cycBase

/-- Add to event counter 0x200 + k of a core (R453). -/
def State.count (s : State) (core k : Nat) : State :=
  let c := s.core core
  s.setCore core { c with counters := c.counters.setIfInBounds k (c.counters[k]?.getD 0 + 1) }

/-- R433: a guarded-margin window opens on a core. -/
def State.openGuard (s : State) (core : Nat) : State :=
  let c := s.core core
  if c.guard then s else s.setCore core { c with guard := true }

/-- R490: record an event in a die's black-box ring; a frozen ring records nothing. -/
def State.record (s : State) (die code core : Nat) (arg : Nat) : State :=
  let d := s.die die
  if d.frozen then s
  else
    let e : BitVec 128 := BitVec.ofNat 128
      (s.dtime % 2 ^ 48 + code * 2 ^ 48 + die * 2 ^ 56 + core * 2 ^ 64 + arg % 2 ^ 48 * 2 ^ 80)
    s.setDie die { d with ring := assign d.ring d.next.toNat e, next := d.next + 1 }

/-- Bytes of LOCAL space on a core (R284): the scratchpad without the stash. -/
def State.stashBytes (s : State) (core : Nat) : Nat :=
  match s.cls core with
  | some .v => match (s.core core).stash.toNat with
    | 0 => 0
    | 1 => 0x20000
    | 2 => 0x40000
    | _ => 0x80000
  | _ => 0

def State.localBytes (s : State) (core : Nat) : Nat :=
  match s.cls core with
  | some k => Config.scratchSize k - s.stashBytes core
  | none => 0

/-- The physical address of byte 0 of a core's scratchpad window (R281). -/
def windowBase (core : Nat) : Nat :=
  0x010000000000 + core / 4096 * 0x100000000 + core % 4096 * 0x100000

/-! ### The physical map (R281) -/

/-- What an offset of another package's local map names (R281, R282). -/
inductive Far where
  | hbm
  | window
  | device
  deriving DecidableEq, Repr

inductive Region where
  | hbm
  | scratch (core off : Nat)
  | device
  | cxl
  | fabric (package : Nat) (far : Far)
  | nowhere
  deriving DecidableEq, Repr

/-- R281, R282: the scratchpad byte that a window address names, for a product. -/
def windowByte (b : Blend) (pa : Nat) : Option (Nat × Nat) :=
  let off := pa - 0x010000000000
  let core := off / 0x100000000 * 4096 + off / 0x100000 % 4096
  match coreCls b core with
  | some k => if off % 0x100000 < Config.scratchSize k then some (core, off % 0x100000) else none
  | none => none

/-- R281: a fabric address that names the executing package is the equal local address. -/
def State.canon (s : State) (pa : Nat) : Nat :=
  if 2 ^ 56 ≤ pa ∧ bits pa 42 14 = s.manifest.package then pa % 2 ^ 42 else pa

/-- The region of a canonical physical address. The local map of another package is read as that of the same
product, since a fabric address does not say which (log entry 39). -/
def State.region (s : State) (pa : Nat) : Region :=
  if 2 ^ 56 ≤ pa then
    let package := bits pa 42 14
    let off := pa % 2 ^ 42
    if off < 0x00C000000000 then .fabric package .hbm
    else if 0x010000000000 ≤ off ∧ off < 0x020000000000 then
      (if (windowByte s.blend off).isSome then .fabric package .window else .nowhere)
    else if 0x020000000000 ≤ off ∧ off < 0x020100000000 then .fabric package .device
    else .nowhere
  else if pa < 0x00C000000000 then .hbm
  else if 0x010000000000 ≤ pa ∧ pa < 0x020000000000 then
    match windowByte s.blend pa with
    | some (core, off) => .scratch core off
    | none => .nowhere
  else if 0x020000000000 ≤ pa ∧ pa < 0x020100000000 then .device
  else if 0x0001000000000000 ≤ pa ∧ pa < 0x0010000000000000 then
    if s.manifest.cxl.any (fun r => decide (r.1 ≤ pa) && decide (pa < r.1 + r.2)) then .cxl else .nowhere
  else .nowhere

/-- R434: a core opens a guarded window before an access to device-class memory. -/
def State.guardDevice (s : State) (core : Nat) (p : Place) : State :=
  if p.attr = 2 ∨ s.region p.pa = .device then s.openGuard core else s

/-- R434: a core opens a guarded window before an atomic whose home is not its own scratchpad. -/
def State.guardAtomic (s : State) (core : Nat) (p : Place) : State :=
  match s.region p.pa with
  | .scratch home _ => if home = core then s else s.openGuard core
  | _ => s.openGuard core

/-- R279: the die whose stack holds an HBM4E byte. -/
def stackOf (pa : Nat) : Nat := pa / 4096 % 12

/-- R475: the C-die whose memory port decodes a CXL address. -/
def cxlDie (pa : Nat) : Nat := if pa < 0x0008000000000000 then 5 else 11

/-- Whether the memory of a region lies on, or behind the port of, a die that is cut off (R409, R481). -/
def State.cutRegion (s : State) (pa : Nat) : Region → Bool
  | .hbm => (s.die (stackOf pa)).cut
  | .scratch core _ => (s.die (dieOf core)).cut
  | .cxl => (s.die (cxlDie pa)).cut
  | _ => false

/-- R475: the CXL capacity at an address has been released. -/
def State.released (s : State) (pa : Nat) : Bool :=
  match s.capacity.find? fun r => decide (r.1 ≤ pa) && decide (pa < r.1 + r.2.1) with
  | some r => !r.2.2
  | none => false

/-- Whether no access reaches a byte: its die is cut off (R481), its capacity has been released, or the current thread's
access to it fails (R475, R482). -/
def State.lostByte (s : State) (pa : Nat) : Bool :=
  s.cutRegion pa (s.region pa) || (s.region pa == .cxl && s.released pa) ||
    s.failing == some ({ ctx := s.cur.ctx, tid := s.cur.tid }, pa)

/-- Whether a store to n bytes is lost, which R251 reports. -/
def State.storeLost (s : State) (pa : Nat) : Nat → Bool
  | 0 => false
  | n + 1 => s.lostByte pa || s.storeLost (pa + 1) n

/-- Whether reading a byte meets an uncorrectable error: the byte is bad (R442), or no access reaches it. -/
def State.badByte (s : State) (pa : Nat) : Bool := s.bad.contains pa || s.lostByte pa

def State.badRange (s : State) (pa : Nat) : Nat → Bool
  | 0 => false
  | n + 1 => s.badByte pa || s.badRange (pa + 1) n

/-! ### Device tables (R405) -/

/-- A table word; a word never written is all zero. -/
def State.table (s : State) (tbl ctx index word : Nat) : BitVec 256 :=
  (lookup s.tables { tbl := tbl, ctx := ctx, index := index, word := word }).getD 0

def State.setTable (s : State) (tbl ctx index word : Nat) (v : BitVec 256) : State :=
  { s with tables := assign s.tables { tbl := tbl, ctx := ctx, index := index, word := word } v }

/-- Bytes [off, off + len) of a table word. -/
def tfield (w : BitVec 256) (off len : Nat) : Nat := bits w.toNat (8 * off) (8 * len)

/-- Bit 0 of FLAGS (R405). -/
def tvalid (w : BitVec 256) : Bool := w.getLsbD 0

/-- The descriptor of a context (R407). -/
def State.descr (s : State) (ctx : Nat) : BitVec 256 := s.table 0 0 ctx 0

/-- The core-table word of a logical core (R408). -/
def State.coreEntry (s : State) (ctx lcore : Nat) : BitVec 256 := s.table 1 ctx lcore 0

/-- R408: the class code of a core entry. -/
def clsOfCode : Nat → Option Cls
  | 0 => some .c
  | 1 => some .v
  | 2 => some .t
  | _ => none

/-- R408: the physical core of a logical core that is available, with the entry valid and STATE 0. -/
def State.available (s : State) (ctx lcore : Nat) : Option Nat :=
  let w := s.coreEntry ctx lcore
  if tvalid w ∧ tfield w 1 1 = 0 ∧ lcore < tfield (s.descr ctx) 0x1A 2 then some (tfield w 4 2) else none

/-- R408: the physical core that a valid core-table entry of a context names, whatever its STATE. -/
def State.coreNamed (s : State) (ctx lcore : Nat) : Option Nat :=
  let w := s.coreEntry ctx lcore
  if tvalid w ∧ lcore < tfield (s.descr ctx) 0x1A 2 then some (tfield w 4 2) else none

/-- The valid core-table entries of a context: logical core and word, in table order. -/
def State.coreEntries (s : State) (ctx : Nat) : List (Nat × BitVec 256) :=
  s.tables.filterMap fun e =>
    if e.1.tbl = 1 ∧ e.1.ctx = ctx ∧ e.1.word = 0 ∧ tvalid e.2 then some (e.1.index, e.2) else none

/-! ### Translation (R295, R297, R418) -/

/-- The five levels of a walk: lowest index bit, index bits, and whether a leaf may stand there. -/
def walkLevels : List (Nat × Nat × Bool) :=
  [(48, 9, false), (39, 9, false), (30, 9, true), (21, 9, true), (16, 5, true)]

/-- R418: walk the remaining levels from a table; the result is a translation or the code of the
fault: 0x0A page fault, 0x0C an uncorrectable error in an entry. -/
def State.walk (s : State) (ctx va : Nat) : List (Nat × Nat × Bool) → Nat → Except Nat TlbEntry
  | [], _ => .error 0x0A
  | (lo, len, leafOk) :: rest, table =>
    let at' := s.canon (table + 8 * bits va lo len)
    if s.region at' = .nowhere then .error 0x0A
    else if s.badRange at' 8 then .error 0x0C
    else
      let e := readNat s.mem at' 8
      let addr := bits e 8 49 * 256
      if bits e 0 2 = 3 ∨ bits e 5 3 ≠ 0 ∨ bits e 57 7 ≠ 0 then .error 0x0A
      else if bits e 4 1 = 1 then
        if leafOk = false ∨ addr % 2 ^ lo ≠ 0 then .error 0x0A
        else .ok { ctx := ctx, vbase := va / 2 ^ lo * 2 ^ lo, pbase := addr, sizeLog := lo,
                   read := e.testBit 2, write := e.testBit 3, attr := BitVec.ofNat 2 e }
      else match rest with
        | [] => .error 0x0A
        | (_, nlen, _) :: _ =>
          if addr % (8 * 2 ^ nlen) ≠ 0 then .error 0x0A else s.walk ctx va rest addr

/-- The physical addresses of the entries that a walk reads, in order. -/
def State.walkReads (s : State) (va : Nat) : List (Nat × Nat × Bool) → Nat → List Nat
  | [], _ => []
  | (lo, len, _) :: rest, table =>
    let at' := s.canon (table + 8 * bits va lo len)
    if s.region at' = .nowhere ∨ s.badRange at' 8 then [at']
    else
      let e := readNat s.mem at' 8
      at' :: (if bits e 0 2 = 3 ∨ bits e 4 1 = 1 then [] else s.walkReads va rest (bits e 8 49 * 256))

/-- Whether a cached translation covers a virtual address of a context. -/
def TlbEntry.covers (e : TlbEntry) (ctx va : Nat) : Bool :=
  e.ctx == ctx && decide (e.vbase ≤ va) && decide (va < e.vbase + 2 ^ e.sizeLog)

/-- The set of a translation-cache entry; the spec gives no index function (log entry 12). -/
def TlbEntry.set (e : TlbEntry) : Nat := e.vbase / 0x10000 % 2048

/-- R295: the newest first; the oldest beyond 64 leaves. -/
def tlbInsert (l : List TlbEntry) (e : TlbEntry) : List TlbEntry :=
  (e :: l.filter (· != e)).take 64

/-- Keep the first 8 entries of one set. -/
def keepSet (set : Nat) : Nat → List TlbEntry → List TlbEntry
  | _, [] => []
  | n, e :: t =>
    if e.set = set then (match n with | 0 => keepSet set 0 t | m + 1 => e :: keepSet set m t)
    else e :: keepSet set n t

/-- R295: the newest first; the oldest beyond 8 of its set leaves. -/
def tcacheInsert (l : List TlbEntry) (e : TlbEntry) : List TlbEntry :=
  keepSet e.set 8 (e :: l.filter (· != e))

/-- R295: bits [63:57] of a virtual address equal bit 56. -/
def canonicalVa (va : Nat) : Bool :=
  bits va 57 7 == if va.testBit 56 then 0x7F else 0

/-! ### Coherent lines (R16, R279, R280, R289)

Every copy of a coherent line agrees with State.mem; the caches hold which sectors are present, which are dirty,
and which die may write. -/

/-- The sectors of a line that n bytes from an address meet. -/
def sectorsOf (pa n : Nat) : BitVec 8 :=
  (List.range 8).foldl (init := 0) fun m k =>
    if pa % 256 < 32 * k + 32 ∧ 32 * k < pa % 256 + n then putBit m k true else m

def lineIn (l : List CacheLine) (line : Nat) : Option CacheLine := l.find? (·.line == line)

/-- Drop a line. -/
def lineOut (l : List CacheLine) (line : Nat) : List CacheLine := l.filter (·.line != line)

/-- Give a line its sectors, beside those it has; a cache whose part for the line is full has lost one of its lines,
a free choice, before. -/
def lineAdd (l : List CacheLine) (line : Nat) (valid dirty : BitVec 8) (own : Bool) : List CacheLine :=
  let old := (lineIn l line).getD { line := line, valid := 0, dirty := 0, own := false }
  { old with valid := old.valid ||| valid, dirty := old.dirty ||| dirty, own := own } :: lineOut l line

/-- The lines of the slice of a line. -/
def sliceOf (l : List CacheLine) (line : Nat) : List CacheLine :=
  l.filter fun x => x.line % Config.slices == line % Config.slices

/-- R289: what the CXL tier still holds is overtaken where the sectors of a line reach it. -/
def State.settleLine (s : State) (line : Nat) (dirty : BitVec 8) : State :=
  { s with behind := s.behind.filter fun e => !(e.1 / 256 == line && dirty.getLsbD (e.1 % 256 / 32)) }

/-- A hub slice evicts a line: its dirty sectors go to memory (R280). -/
def State.evictHub (s : State) (line : Nat) : State :=
  match lineIn s.hub line with
  | none => s
  | some x => { s with hub := lineOut s.hub line }.settleLine line x.dirty

/-- A line gets sectors in its hub slice. -/
def State.hubFill (s : State) (line : Nat) (valid dirty : BitVec 8) : State :=
  let part := sliceOf s.hub line
  let s := if (lineIn s.hub line).isSome ∨ part.length < Config.hubLines then s
    else
      let (n, s) := s.fresh
      match part[n % part.length]? with
      | some x => s.evictHub x.line
      | none => s
  { s with hub := lineAdd s.hub line valid dirty false }

/-- The cores of a die lose a line from their L1 (R289); one core may keep it. -/
def State.dropL1 (s : State) (die line : Nat) (keep : Option Nat) : State :=
  { s with cores := s.cores.map fun e =>
      if dieOf e.1 = die ∧ some e.1 ≠ keep ∧ (lineIn e.2.l1 line).isSome then
        (e.1, { e.2 with l1 := lineOut e.2.l1 line })
      else e }

/-- A die's L2 gives up a line, or only its write permission: its dirty sectors go to the hub slice, and with the
line its copies in L1s go. -/
def State.recallL2 (s : State) (die line : Nat) (drop : Bool) : State :=
  let d := s.die die
  match lineIn d.l2 line with
  | none => s
  | some x =>
    let rest := lineOut d.l2 line
    let s := s.setDie die { d with l2 := if drop then rest else { x with dirty := 0, own := false } :: rest }
    let s := if x.dirty = 0 then s else s.hubFill line x.dirty x.dirty
    if drop then s.dropL1 die line none else s

/-- R289: the hub directory of a line: the dies whose L2 holds it, and the cores whose stash does. -/
def State.directory (s : State) (line : Nat) : List Nat × List Nat :=
  ((s.dies.filter fun e => (lineIn e.2.l2 line).isSome).map (·.1),
    (s.cores.filter fun e => e.2.sectors.any fun x => x.pa / 256 == line).map (·.1))

/-- The die that holds a line with write permission. -/
def State.writer (s : State) (line : Nat) : Option Nat :=
  (s.dies.find? fun e => match lineIn e.2.l2 line with
    | some x => x.own
    | none => false).map (·.1)

/-- Recall a line from every die but one. -/
def State.recallAll (s : State) (line : Nat) (keep : Option Nat) : List Nat → State
  | [] => s
  | d :: rest => (if some d = keep then s else s.recallL2 d line true).recallAll line keep rest

/-- Whether a stash sector is one of a line. -/
def StashSector.on (x : StashSector) (line : Nat) : Bool := x.pa / 256 == line

/-- A sector of a core's stash, by which a store reaches memory. -/
structure StashId where
  core : Nat
  ctx : Nat
  sector : Nat
  deriving DecidableEq, Repr

/-- Whether a store through one sector of a core's stash leaves a sector of the line there: one that maps the stored
32 bytes a second time loses them (R285, R353). -/
def StashSector.stays (x : StashSector) (core sect : Nat) (keep : Option StashId) : Bool :=
  keep.any fun k => k.core == core && (x.pa / 32 != sect || (x.ctx == k.ctx && x.sector == k.sector))

/-- R285: the stashes of the cores lose the sectors of a line, or, where only recalled, their dirt, which goes to the
hub slice; a store through a stash, of bytes in a sector of memory, leaves that core's other sectors. -/
def State.recallStash (s : State) (line : Nat) (drop : Bool) (sect : Nat) (keep : Option StashId) : State :=
  let gone (core : Nat) (x : StashSector) : Bool := x.on line && !x.stays core sect keep
  let hit (e : Nat × CoreSt) : Bool := e.2.sectors.any (gone e.1)
  let dirty := s.cores.foldl (init := (0 : BitVec 8)) fun m e =>
    e.2.sectors.foldl (fun m x => if gone e.1 x && x.dirty then putBit m (x.pa % 256 / 32) true else m) m
  let less (core : Nat) (l : List StashSector) : List StashSector :=
    if drop then l.filter (!gone core ·) else l.map fun x => if gone core x then { x with dirty := false } else x
  let cores := s.cores.map fun e => if hit e then (e.1, { e.2 with sectors := less e.1 e.2.sectors }) else e
  let s := { s with cores := cores }
  if dirty = 0 then s else s.hubFill line dirty dirty

/-- A line gets sectors in a die's L2. -/
def State.l2Fill (s : State) (die line : Nat) (valid dirty : BitVec 8) (own : Bool) : State :=
  let part := sliceOf (s.die die).l2 line
  let s := if (lineIn (s.die die).l2 line).isSome ∨ part.length < Config.l2Lines then s
    else
      let (n, s) := s.fresh
      match part[n % part.length]? with
      | some x => s.recallL2 die x.line true
      | none => s
  let d := s.die die
  let own := own || (match lineIn d.l2 line with
    | some x => x.own
    | none => false)
  s.setDie die { d with l2 := lineAdd d.l2 line valid dirty own }

/-- A die that may write a line, other than one, gives its dirty sectors and its write permission up. -/
def State.recallWriter (s : State) (die line : Nat) : State :=
  match s.writer line with
  | some d => if d = die then s else s.recallL2 d line false
  | none => s

/-- R289: a load of n bytes of coherent memory by a die, or by the hub itself: a die that may write the line is recalled, the
sectors are filled from the hub slice, and the die's L2 has them. -/
def State.cohLoad (s : State) (die pa n : Nat) : State :=
  let line := pa / 256
  let sect := sectorsOf pa n
  let present : Bool := match lineIn (s.die die).l2 line with
    | some x => x.valid &&& sect == sect
    | none => false
  if present then s
  else
    let s := ((s.recallStash line false 0 none).recallWriter die line).hubFill line sect 0
    if die < 12 then s.l2Fill die line sect 0 false else s

/-- What the CXL tier holds of bytes about to be overwritten in a cache. -/
def State.keepBehind (s : State) (pa : Nat) : Nat → State
  | 0 => s
  | n + 1 =>
    let s := if s.region pa = .cxl ∧ (lookup s.behind pa).isNone then
      { s with behind := s.behind ++ [(pa, readByte s.mem pa)] } else s
    s.keepBehind (pa + 1) n

/-- R289: a store of n bytes of coherent memory by a core of a die: every other die and stash gives the line up, and
the die's L2 holds it dirty with write permission. A store through the stash of a core leaves it dirty there alone,
and an agent at the hub writes the hub slice (R285, R290). -/
def State.cohStore (s : State) (die pa n : Nat) (core : Option Nat) (stash : Option StashId) : State :=
  let line := pa / 256
  let sect := sectorsOf pa n
  let s := (s.keepBehind pa n).recallStash line true (pa / 32) stash
  if stash.isSome then s.recallAll line none (s.dies.map (·.1))
  else if die < 12 then
    let s := (s.recallAll line (some die) (s.dies.map (·.1))).dropL1 die line core
    s.l2Fill die line sect sect true
  else (s.recallAll line none (s.dies.map (·.1))).hubFill line sect sect

/-- R285: the sectors of a core's stash that leave it; the dirty ones are written back. -/
def State.stashOut (s : State) (core : Nat) (gone : StashSector → Bool) : State :=
  let c := s.core core
  let out := c.sectors.filter fun x => gone x && x.dirty
  let s := s.setCore core { c with sectors := c.sectors.filter (!gone ·) }
  out.foldl (fun s x => s.hubFill (x.pa / 256) (sectorsOf x.pa 32) (sectorsOf x.pa 32)) s

/-- Do something for the part of n bytes from an address in each of k lines. -/
def State.eachLine (f : State → Nat → Nat → State) (s : State) (pa n : Nat) : Nat → State
  | 0 => s
  | k + 1 =>
    let m := min n (256 - pa % 256)
    State.eachLine f (f s pa m) (pa + m) (n - m) k

/-- The lines that n bytes from an address meet. -/
def linesOf (pa n : Nat) : Nat := (pa % 256 + n + 255) / 256

/-- R279, R289: a core's L1 fills the sectors of a load. -/
def State.l1Fill (s : State) (core pa n : Nat) : State :=
  let c := s.core core
  let line := pa / 256
  let sect := sectorsOf pa n
  let lines := (match s.cls core with
    | some k => Config.l1Size k
    | none => 0) / 256
  match lineIn c.l1 line with
  | some x => if x.valid &&& sect = sect then s else s.setCore core { c with l1 := lineAdd c.l1 line sect 0 false }
  | none =>
    if c.l1.length < lines then s.setCore core { c with l1 := lineAdd c.l1 line sect 0 false }
    else
      let (k, s) := s.fresh
      s.setCore core { c with l1 := lineAdd (c.l1.eraseIdx (k % max 1 c.l1.length)) line sect 0 false }

/-! ### Die-private copies (R293, R294) -/

/-- The copy of a line on a die, if the die holds one. -/
def State.priv (s : State) (die line : Nat) : Option PrivLine :=
  (s.die die).lines.find? (·.line == line)

def State.setPriv (s : State) (die : Nat) (p : PrivLine) : State :=
  let d := s.die die
  s.setDie die { d with lines := p :: d.lines.filter (·.line != p.line) }

/-- Whether a byte of a copy holds the die's own value: dirty, or in a valid sector. -/
def PrivLine.holds (p : PrivLine) (o : Nat) : Bool := p.dirty.getLsbD o || p.valid.getLsbD (o / 32)

/-- Byte o of a copy's data. -/
def PrivLine.byte (p : PrivLine) (o : Nat) : Byte := BitVec.ofNat 8 (bits p.data.toNat (8 * o) 8)

/-- Replace byte o of the data of a copy. -/
def PrivLine.setByte (p : PrivLine) (o : Nat) (b : Byte) : PrivLine :=
  { p with data := (p.data &&& ~~~(BitVec.ofNat 2048 0xFF <<< (8 * o))) |||
      (b.setWidth 2048 <<< (8 * o)) }

/-- The 32 bytes of a sector from memory, except where the copy is dirty. -/
def fillBytes (m : List Host.Cell) (base : Nat) (p : PrivLine) (o : Nat) : Nat → PrivLine
  | 0 => p
  | n + 1 =>
    let p' := if p.dirty.getLsbD o then p else p.setByte o (readByte m (base + o))
    fillBytes m base p' (o + 1) n

/-- R293: a load through a die's copy makes the sector valid first. -/
def State.fillSector (s : State) (die pa : Nat) : State :=
  let line := pa / 256
  let o := pa % 256
  let p := (s.priv die line).getD { line := line, valid := 0, data := 0, dirty := 0 }
  if p.valid.getLsbD (o / 32) then s
  else
    let q := fillBytes s.mem (line * 256) p (o / 32 * 32) 32
    s.setPriv die { q with valid := q.valid ||| (BitVec.ofNat 8 1 <<< (o / 32)) }

/-- Write the dirty bytes of a copy to memory, from byte o on. -/
def drainBytes (m : List Host.Cell) (p : PrivLine) (o : Nat) : Nat → List Host.Cell
  | 0 => m
  | n + 1 =>
    let m' := if p.dirty.getLsbD o then writeByte m (p.line * 256 + o) (p.byte o) else m
    drainBytes m' p (o + 1) n

/-- R293: write back the dirty bytes of a line's copy; keep the line clean, or drop it. -/
def State.writeBack (s : State) (die line : Nat) (drop : Bool) : State :=
  match s.priv die line with
  | none => s
  | some p =>
    let s := { s with mem := drainBytes s.mem p 0 256 }
    let d := s.die die
    let rest := d.lines.filter (·.line != line)
    s.setDie die { d with lines := if drop then rest else { p with dirty := 0 } :: rest }

/-! ### The capacity of L2 slices (R14, R291) -/

/-- A die whose L2 has a slice that holds more lines, coherent and die-private together, than it has room for, with
those lines. -/
def State.overfull (s : State) : Option (Nat × List Nat) :=
  s.dies.findSome? fun e =>
    let all := e.2.l2.map (·.line) ++ e.2.lines.map (·.line)
    if all.length ≤ Config.l2Lines then none
    else (List.range Config.slices).findSome? fun k =>
      let here := all.filter (· % Config.slices == k)
      if Config.l2Lines < here.length then some (e.1, here) else none

/-! ### Translation in TLBs and translation caches (R295, R297) -/

/-- R297: what an access translates through where a structure holds an entry and a table entry has been rewritten since,
so that a walk now gives another result: either of the two, a free choice. A table entry that cannot be read has not
been rewritten. -/
def State.eitherEntry (s : State) (e : TlbEntry) (walked : Except Nat TlbEntry) : State × Except Nat TlbEntry :=
  let same : Bool := match walked with
    | .ok f => f == e
    | .error c => c == 0x0C
  if same then (s, .ok e)
  else
    let (n, s) := s.fresh
    (s, if n % 2 = 0 then .ok e else walked)

/-- R291: the entry, if it permits a read or a write that is wanted. -/
def TlbEntry.granting (r w : Bool) : Except Nat TlbEntry → Except Nat TlbEntry
  | .ok e => if (!r || e.read) && (!w || e.write) then .ok e else .error 0x0B
  | .error k => .error k

/-- R295: what a walk found, or an entry found in the die, fills the requesting TLB and the translation cache. -/
def State.fillTlb (s : State) (core : Nat) (e : TlbEntry) : State :=
  let c := s.core core
  let s := s.setCore core { c with tlb := tlbInsert c.tlb e }
  let d := s.die (dieOf core)
  s.setDie (dieOf core) { d with tcache := tcacheInsert d.tcache e }

/-- R295, R297: a walker of a die reads table entries as coherent loads. -/
def State.walkFills (s : State) (die : Nat) (l : List Nat) : State :=
  l.foldl (fun s pa => match s.region pa with
    | .hbm | .cxl | .fabric _ .hbm => s.cohLoad die pa 8
    | _ => s) s

/-- What a walk for a virtual address of a context reads. -/
def State.walkPath (s : State) (ctx va : Nat) : List Nat := s.walkReads va walkLevels (tfield (s.descr ctx) 0x10 8)

/-- R295, R297: translate for a core: the TLB, then the die's translation cache, then a walk. Only a walk
that grants the access fills the caches. The error is 0x0A, 0x0B or 0x0C. -/
def State.translate (s : State) (core ctx va : Nat) (r w : Bool) : State × Except Nat TlbEntry :=
  if canonicalVa va = false then (s, .error 0x0A)
  else
    let walked := s.walk ctx va walkLevels (tfield (s.descr ctx) 0x10 8)
    let c := s.core core
    match c.tlb.find? (·.covers ctx va) with
    | some e =>
      let (s, x) := (s.setCore core { c with tlb := tlbInsert c.tlb e }).eitherEntry e walked
      (s, TlbEntry.granting r w x)
    | none =>
      let s := s.count core 9
      match (s.die (dieOf core)).tcache.find? (·.covers ctx va) with
      | some e =>
        let (s, x) := (s.fillTlb core e).eitherEntry e walked
        (s, TlbEntry.granting r w x)
      | none =>
        let s := (s.count core 10).walkFills (dieOf core) (s.walkPath ctx va)
        match TlbEntry.granting r w walked with
        | .ok e => (s.fillTlb core e, .ok e)
        | .error k => (s, .error k)

/-- R295: the misses of a die's cores whose page is not yet in the walker queue join it while it has room for 512; the others
wait. -/
def State.queueWalks (s : State) (die : Nat) : State :=
  let asked := (s.cores.filter fun e => dieOf e.1 = die).flatMap fun e => e.2.misses.map fun q => (q.ctx, q.page)
  let join (l : List (Nat × Nat)) (p : Nat × Nat) : List (Nat × Nat) :=
    if l.contains p || decide (512 ≤ l.length) then l else l ++ [p]
  let d := s.die die
  s.setDie die { d with walks := asked.foldl join d.walks }

/-- R295, R296: a request for a translation joins the core's miss buffer, of 16 pages, and the die's walker queue,
unless it waits there already or a structure holds the page; one that finds the buffer full is not made yet. -/
def State.requestWalk (s : State) (q : WalkReq) : State :=
  let c := s.core q.core
  if c.tlb.any (·.covers q.ctx (q.page * 0x10000)) ∨ c.misses.any (fun x => x.ctx == q.ctx && x.page == q.page) ∨
      16 ≤ c.misses.length then s
  else match (s.die (dieOf q.core)).tcache.find? (·.covers q.ctx (q.page * 0x10000)) with
    | some e => (s.count q.core 9).fillTlb q.core e
    | none => (((s.setCore q.core { c with misses := c.misses ++ [q] }).count q.core 9).count q.core 10).queueWalks (dieOf q.core)

end Sys2Proof.Machine
end

