-- ==== Sys2Proof/Machine/Operands.lean ====
section
/-!
DEFINITION. The operand forms: scalar registers with their poison, predicates, masks, vector
registers by element, the fields of the status register, and the immediates of R64.
-/

namespace Sys2Proof.Machine

/-! ### Scalar registers and predicates (R110, R111) -/

/-- The value of a scalar register; s0 reads 0. -/
def Thread.getS (t : Thread) (r : BitVec 5) : Word := if r = 0 then 0 else t.s[r.toNat]

/-- The poison bit of a scalar register; s0 never holds poison. -/
def Thread.poisonedS (t : Thread) (r : BitVec 5) : Bool := r != 0 && t.poison.getLsbD r.toNat

/-- Write a scalar register and its poison bit; s0 ignores the write (R71, R110). -/
def Thread.setS (t : Thread) (r : BitVec 5) (v : Word) (p : Bool) : Thread :=
  if r = 0 then t else { t with s := t.s.set r.toNat v, poison := putBit t.poison r.toNat p }

/-- Set a poison bit and keep the value (R68, R71). -/
def Thread.poisonS (t : Thread) (r : BitVec 5) : Thread :=
  if r = 0 then t else { t with poison := putBit t.poison r.toNat true }

/-- Predicate pN; p0 reads 1 (R111). -/
def Thread.getP (t : Thread) (n : BitVec 3) : Bool := n == 0 || t.pw.getLsbD n.toNat

/-- Write predicate pN; p0 ignores the write (R111). -/
def Thread.setP (t : Thread) (n : BitVec 3) (b : Bool) : Thread :=
  if n = 0 then t else { t with pw := putBit t.pw n.toNat b }

/-! ### Masks (R114) -/

/-- Mask mN; m0 reads all ones. -/
def Thread.getM (t : Thread) (n : BitVec 3) : BitVec 2048 :=
  if n = 0 then BitVec.allOnes 2048 else t.m[n.toNat]

/-- Write mask mN; m0 discards the write. -/
def Thread.setM (t : Thread) (n : BitVec 3) (w : BitVec 2048) : Thread :=
  if n = 0 then t else { t with m := t.m.set n.toNat w }

/-! ### Vector registers (R112, R113) -/

def Thread.getV (t : Thread) (r : BitVec 5) : VReg := t.v[r.toNat]

def Thread.setV (t : Thread) (r : BitVec 5) (x : VReg) : Thread := { t with v := t.v.set r.toNat x }

/-- The register after r, modulo 32: the companion of a block-scaled register (R138). -/
def companion (r : BitVec 5) : BitVec 5 := r + 1

/-- R112: the element width of a tag; dead and poison have none. -/
def tagWidth (t : BitVec 5) : Nat :=
  match t.toNat with
  | 0x01 | 0x05 | 0x0D | 0x0E | 0x11 | 0x12 => 8
  | 0x02 | 0x06 | 0x0B | 0x0C => 16
  | 0x03 | 0x07 | 0x0A => 32
  | 0x04 | 0x08 | 0x09 => 64
  | 0x0F | 0x10 => 4
  | _ => 0

def tagDead (t : BitVec 5) : Bool := t == 0
def tagPoison (t : BitVec 5) : Bool := t == 0x1F

/-- R112: a reserved code read from memory counts as poison. -/
def tagFromMem (t : BitVec 5) : BitVec 5 := if 0x13 ≤ t.toNat then 0x1F else t

def tagInt (t : BitVec 5) : Bool := decide (1 ≤ t.toNat) && decide (t.toNat ≤ 8)
def tagSigned (t : BitVec 5) : Bool := (decide (1 ≤ t.toNat) && decide (t.toNat ≤ 4)) || t == 0xF
def tagFloat (t : BitVec 5) : Bool := decide (9 ≤ t.toNat) && decide (t.toNat ≤ 0xE)
def tagBlock (t : BitVec 5) : Bool := decide (0x10 ≤ t.toNat) && decide (t.toNat ≤ 0x12)

/-- Element e of a register read with width w. -/
def elemOf (x : BitVec 8192) (w e : Nat) : Nat := bits x.toNat (e * w) w

/-- Replace element e of width w. -/
def setElem (x : BitVec 8192) (w e v : Nat) : BitVec 8192 :=
  (x &&& ~~~(BitVec.ofNat 8192 (2 ^ w - 1) <<< (e * w))) ||| (BitVec.ofNat 8192 (v % 2 ^ w) <<< (e * w))

/-- Write elements from index e on; `none` leaves an element as it is. -/
def setElems (x : BitVec 8192) (w : Nat) : Nat → List (Option Nat) → BitVec 8192
  | _, [] => x
  | e, none :: t => setElems x w (e + 1) t
  | e, some v :: t => setElems (setElem x w e v) w (e + 1) t

/-- Bit e of a 2,048-bit mask replaced, from e on; `none` leaves a bit as it is. -/
def setMaskBits (x : BitVec 2048) : Nat → List (Option Bool) → BitVec 2048
  | _, [] => x
  | e, none :: t => setMaskBits x (e + 1) t
  | e, some b :: t => setMaskBits (putBit x e b) (e + 1) t

/-- Bits of the slice that a holder of a core gives each vector register (R27, R113). -/
def State.sliceBits (s : State) (core : Nat) : Nat :=
  match s.cls core with
  | some .v => 8192 / (s.core core).harts
  | _ => 2048

/-- R27, R243: VLMAX of a core's holders at an element width. -/
def State.vlmax (s : State) (core w : Nat) : Nat := if w = 0 then s.sliceBits core else s.sliceBits core / w

/-! ### The status register (R119) -/

def stVSM : Nat := 6
def stMSM : Nat := 7
def stNOSCHED : Nat := 8
def stYIELD : Nat := 9
def stUIE : Nat := 10
def stUIP : Nat := 11
def stINUI : Nat := 12
def stINTRAP : Nat := 13
def stPREQ : Nat := 14
def stSYS : Nat := 15
def stPP : Nat := 28

/-- A one-bit field of tstat. -/
def Thread.st (t : Thread) (i : Nat) : Bool := t.tstat.getLsbD i

def Thread.setSt (t : Thread) (i : Nat) (b : Bool) : Thread := { t with tstat := putBit t.tstat i b }

/-- R119: the dynamic rounding mode. -/
def Thread.rmode (t : Thread) : Nat := bits t.tstat.toNat 29 2

/-- R87: PFXL, bits [27:16] of tstat. -/
def Thread.pfxl (t : Thread) : BitVec 12 := t.tstat.extractLsb' 16 12

/-- Replace PFXL. -/
def Thread.setPfxl (t : Thread) (l : BitVec 12) : Thread :=
  { t with tstat := (t.tstat &&& ~~~(0xFFF0000 : Word)) ||| (l.setWidth 64 <<< 16) }

/-- OR sticky flags into tstat [5:0] (R119, R120). -/
def Thread.orFlags (t : Thread) (f : BitVec 6) : Thread := { t with tstat := t.tstat ||| f.setWidth 64 }

/-! ### Prefix latch (R83) -/

def lD2 (l : BitVec 12) : BitVec 5 := l.extractLsb' 7 5
def lDE (l : BitVec 12) : Bool := l.getLsbD 6
def lPK (l : BitVec 12) : Bool := l.getLsbD 5
def lPN (l : BitVec 12) : BitVec 3 := l.extractLsb' 2 3
def lPI (l : BitVec 12) : Bool := l.getLsbD 1
def lZM (l : BitVec 12) : Bool := l.getLsbD 0

/-! ### Immediates (R64) -/

/-- SignExtend to 64 bits. -/
def sext {n : Nat} (x : BitVec n) : Word := x.signExtend 64

/-- ZeroExtend to 64 bits. -/
def zext {n : Nat} (x : BitVec n) : Word := x.setWidth 64

/-- The two's complement reading of the low w bits of a number. -/
def signedOf (w x : Nat) : Int :=
  let y := x % 2 ^ w
  if w ≠ 0 ∧ 2 ^ (w - 1) ≤ y then (y : Int) - 2 ^ w else y

/-- An exact integer modulo 2^w. -/
def wrapInt (w : Nat) (i : Int) : Nat := (i % 2 ^ w).toNat

end Sys2Proof.Machine
end

