-- ==== Sys2Proof/Machine/Flags.lean ====
section
/-!
DEFINITION. Number formats, exact arithmetic, rounding, and every flag computation (R132-R150). A
floating-point operation forms its exact result first; one function rounds it and raises OF, UF and
NX, and the operations raise NV and DZ (R144).
-/

namespace Sys2Proof.Machine

/-- The sticky flags in the order of tstat [5:0] (R119). -/
abbrev FFlags := BitVec 6

def fNV : FFlags := 1
def fDZ : FFlags := 2
def fOF : FFlags := 4
def fUF : FFlags := 8
def fNX : FFlags := 16
def fOOR : FFlags := 32

/-- R140: the rounding modes after the dynamic code is resolved. -/
inductive RMode where
  | rne | rtz | rup | rdn | rna
  deriving DecidableEq, Repr

/-- R140: a rounding code under `tstat`.RM. -/
def rmodeOf (code dyn : Nat) : RMode :=
  match if code = 7 then dyn else code with
  | 0 => .rne
  | 1 => .rtz
  | 2 => .rup
  | 3 => .rdn
  | _ => .rna

/-- The formats of R133, and the two element formats that only block-scaled tags use (R134, R139). -/
inductive Fmt where
  | f64 | f32 | bf16 | f16 | e5m2 | e4m3 | e2m1 | mxi8
  deriving DecidableEq, Repr

/-- Width in bits. -/
def Fmt.width : Fmt → Nat
  | .f64 => 64
  | .f32 => 32
  | .bf16 | .f16 => 16
  | .e5m2 | .e4m3 | .mxi8 => 8
  | .e2m1 => 4

/-- Fraction bits m. -/
def Fmt.m : Fmt → Nat
  | .f64 => 52
  | .f32 => 23
  | .bf16 => 7
  | .f16 => 10
  | .e5m2 => 2
  | .e4m3 => 3
  | .e2m1 => 1
  | .mxi8 => 6

/-- Exponent bits. -/
def Fmt.e : Fmt → Nat
  | .f64 => 11
  | .f32 | .bf16 => 8
  | .f16 | .e5m2 => 5
  | .e4m3 => 4
  | .e2m1 => 2
  | .mxi8 => 0

/-- Bias. -/
def Fmt.bias : Fmt → Nat
  | .f64 => 1023
  | .f32 | .bf16 => 127
  | .f16 | .e5m2 => 15
  | .e4m3 => 7
  | .e2m1 => 1
  | .mxi8 => 0

/-- The largest finite magnitude as a multiple of a power of two: code, multiple, exponent. -/
def Fmt.top : Fmt → Nat × Nat × Int
  | .e4m3 => (0x7E, 7, 6)
  | .e2m1 => (0x7, 3, 1)
  | .mxi8 => (127, 127, -6)
  | f => ((2 ^ f.e - 2) * 2 ^ f.m + (2 ^ f.m - 1), 2 ^ (f.m + 1) - 1,
          ((2 ^ f.e - 2 : Nat) : Int) - f.bias - f.m)

/-- The floating format of a tag (R112). -/
def fmtOfTag (t : BitVec 5) : Option Fmt :=
  match t.toNat with
  | 0x09 => some .f64
  | 0x0A => some .f32
  | 0x0B => some .bf16
  | 0x0C => some .f16
  | 0x0D => some .e4m3
  | 0x0E => some .e5m2
  | _ => none

/-- R155: the format of a scalar fmt code. -/
def fmtOfCode (f : BitVec 2) : Fmt :=
  match f.toNat with
  | 0 => .f64
  | 1 => .f32
  | 2 => .f16
  | _ => .bf16

/-- A floating-point value. A number is mant × 2^exp with its sign; mant 0 is a zero. A NaN carries
its fraction left-aligned in 52 bits, the quiet bit on top (R135, R136). -/
inductive FVal where
  | num (neg : Bool) (mant : Nat) (exp : Int)
  | inf (neg : Bool)
  | nan (neg : Bool) (sig : Bool) (frac : Nat)
  deriving DecidableEq, Repr

/-- The value of a code (R133, R134, R137). -/
def Fmt.value (f : Fmt) (code : Nat) : FVal :=
  match f with
  | .mxi8 =>
    let i := signedOf 8 code
    .num (decide (i < 0)) i.natAbs (-6)
  | .e2m1 =>
    let neg := code.testBit 3
    let e := bits code 1 2
    let m := bits code 0 1
    if e = 0 then .num neg 0 0 else .num neg (2 + m) ((e : Int) - 2)
  | _ =>
    let neg := code.testBit (f.width - 1)
    let e := bits code f.m f.e
    let m := bits code 0 f.m
    if f = .e4m3 then
      if e = 15 ∧ m = 7 then .nan neg false (2 ^ 51)
      else if e = 0 then .num neg m (-9)
      else .num neg (8 + m) ((e : Int) - 10)
    else if e = 2 ^ f.e - 1 then
      if m = 0 then .inf neg
      else .nan neg (!m.testBit (f.m - 1)) (m * 2 ^ (52 - f.m))
    else if e = 0 then .num neg m (1 - (f.bias : Int) - f.m)
    else .num neg (2 ^ f.m + m) ((e : Int) - f.bias - f.m)

/-- The sign bit in place. -/
def Fmt.sign (f : Fmt) (neg : Bool) : Nat := if neg then 2 ^ (f.width - 1) else 0

/-- R135: the canonical NaN. -/
def Fmt.canonNan (f : Fmt) : Nat :=
  match f with
  | .e4m3 => 0x7F
  | _ => (2 ^ f.e - 1) * 2 ^ f.m + 2 ^ (f.m - 1)

/-- R136: a NaN converted to a format: sign kept, quieted, fraction cut or padded. -/
def Fmt.nanCode (f : Fmt) (neg : Bool) (frac : Nat) : Nat :=
  match f with
  | .e4m3 => f.sign neg + 0x7F
  | _ => f.sign neg + (2 ^ f.e - 1) * 2 ^ f.m + ((frac ||| 2 ^ 51) / 2 ^ (52 - f.m))

/-- The code of a signed maximum (R142). -/
def Fmt.maxCode (f : Fmt) (neg : Bool) : Nat :=
  match f with
  | .mxi8 => if neg then 129 else 127
  | _ => f.sign neg + f.top.1

/-- R142: the code of an overflow. -/
def Fmt.overflow (f : Fmt) (mode : RMode) (sat neg : Bool) : Nat :=
  let big : Nat := match f with
    | .e4m3 => f.sign neg + 0x7F
    | _ => f.sign neg + (2 ^ f.e - 1) * 2 ^ f.m
  if sat ∨ f = .e2m1 ∨ f = .mxi8 then f.maxCode neg
  else match mode with
    | .rne | .rna => big
    | .rtz => f.maxCode neg
    | .rup => if neg then f.maxCode neg else big
    | .rdn => if neg then big else f.maxCode neg

/-- Bits of a number. -/
def bitLen (n : Nat) : Nat := if n = 0 then 0 else Nat.log2 n + 1

/-- Round a quotient by 2^sh to an integer in a mode: the integer and whether it is inexact. `away`
makes a nearest tie go away from zero. -/
def roundShift (mode : RMode) (neg away : Bool) (mant sh : Nat) : Nat × Bool :=
  let q := mant / 2 ^ sh
  let r := mant % 2 ^ sh
  if r = 0 then (q, false)
  else
    let up : Bool := match mode with
      | .rne => decide (2 ^ sh < 2 * r) || (decide (2 * r = 2 ^ sh) && (away || q % 2 == 1))
      | .rna => decide (2 ^ sh ≤ 2 * r)
      | .rtz => false
      | .rup => !neg
      | .rdn => neg
    (if up then q + 1 else q, true)

/-- mant × 2^exp as a multiple of 2^q, rounded in a mode. -/
def roundTo (mode : RMode) (neg away : Bool) (mant : Nat) (exp q : Int) : Nat × Bool :=
  if q ≤ exp then (mant * 2 ^ (exp - q).toNat, false) else roundShift mode neg away mant (q - exp).toNat

/-- R141 with R134, R139 and R142: round an exact real into a format: the code and its flags. -/
def Fmt.round (f : Fmt) (mode : RMode) (sat : Bool) (neg : Bool) (mant : Nat) (exp : Int) : Nat × FFlags :=
  if mant = 0 then (match f with | .mxi8 => 0 | _ => f.sign neg, 0)
  else
    let top : Int := exp + (bitLen mant : Int) - 1
    let emin : Int := 1 - (f.bias : Int)
    let small : Bool := f == .e2m1 && decide (top < 0)
    let q : Int := match f with
      | .mxi8 => -6
      | .e2m1 => if small then 0 else top - 1
      | _ => max top emin - f.m
    let (n, inexact) := roundTo mode neg small mant exp q
    let (_, mm, me) := f.top
    let lo := min q me
    if mm * 2 ^ (me - lo).toNat < n * 2 ^ (q - lo).toNat then (f.overflow mode sat neg, fOF ||| fNX)
    else if n = 0 then (match f with | .mxi8 => 0 | _ => f.sign neg, fUF ||| fNX)
    else
      match f with
      | .mxi8 => (if neg then 256 - n else n, if inexact then fNX else 0)
      | _ =>
        let grown := 2 ^ (f.m + 1) ≤ n
        let n' := if grown then n / 2 else n
        let q' := if grown then q + 1 else q
        let len := bitLen n'
        let tiny : Bool := f != .e2m1 && decide (len ≤ f.m)
        let code : Nat :=
          if f = .e2m1 then
            let e := q' + (len : Int) - 1
            (e + 1).toNat * 2 + (if len = 2 then n' % 2 else 0)
          else if tiny then n'
          else (q' + f.m + f.bias).toNat * 2 ^ f.m + n' % 2 ^ f.m
        (f.sign neg + code, if inexact then (if tiny then fUF ||| fNX else fNX) else 0)

/-- A value into a format (R136, R141, R142): a signalling NaN sets NV; an infinity into e4m3 gives
the NaN of its sign or ±448, with NV. -/
def Fmt.ofVal (f : Fmt) (mode : RMode) (sat : Bool) : FVal → Nat × FFlags
  | .num neg mant exp => f.round mode sat neg mant exp
  | .inf neg => match f with
    | .e4m3 => (if sat then f.maxCode neg else f.sign neg + 0x7F, fNV)
    | _ => (f.sign neg + (2 ^ f.e - 1) * 2 ^ f.m, 0)
  | .nan neg sig frac => (f.nanCode neg frac, if sig then fNV else 0)

/-! ### Operations: exact results with NV and DZ -/

def FVal.isNan : FVal → Bool
  | .nan _ _ _ => true
  | _ => false

def FVal.isSig : FVal → Bool
  | .nan _ sig _ => sig
  | _ => false

def FVal.isInf : FVal → Bool
  | .inf _ => true
  | _ => false

def FVal.neg : FVal → Bool
  | .num n _ _ => n
  | .inf n => n
  | .nan n _ _ => n

def FVal.isZero : FVal → Bool
  | .num _ m _ => m == 0
  | _ => false

/-- The value with its sign inverted. -/
def FVal.negate : FVal → FVal
  | .num n m e => .num (!n) m e
  | .inf n => .inf (!n)
  | .nan n s f => .nan n s f

/-- The default NaN of an invalid operation; every format turns it into its canonical NaN (R136). -/
def FVal.invalid : FVal := .nan false false (2 ^ 51)

/-- The result where an operand is a NaN: the first one, quiet (R136). -/
def firstNan : List FVal → Option FVal
  | [] => none
  | .nan n _ f :: _ => some (.nan n false (f ||| 2 ^ 51))
  | _ :: t => firstNan t

/-- NV where an operand is a signalling NaN (R136). -/
def sigFlag (l : List FVal) : FFlags := if l.any (·.isSig) then fNV else 0

/-- Two numbers as integers over a common power of two. -/
def alignSum (n1 : Bool) (m1 : Nat) (e1 : Int) (n2 : Bool) (m2 : Nat) (e2 : Int) : Int × Int :=
  let e := min e1 e2
  let a : Int := (m1 * 2 ^ (e1 - e).toNat : Nat)
  let b : Int := (m2 * 2 ^ (e2 - e).toNat : Nat)
  ((if n1 then -a else a) + (if n2 then -b else b), e)

/-- An exact sum of numbers; an exact zero of opposite signs is −0 under RDN only (R141). -/
def addNum (mode : RMode) (n1 : Bool) (m1 : Nat) (e1 : Int) (n2 : Bool) (m2 : Nat) (e2 : Int) : FVal :=
  let (x, e) := alignSum n1 m1 e1 n2 m2 e2
  if x = 0 then .num (if n1 = n2 ∧ m1 = 0 then n1 else mode == .rdn) 0 0
  else .num (decide (x < 0)) x.natAbs e

/-- a + b. -/
def fAdd (mode : RMode) (a b : FVal) : FVal × FFlags :=
  match firstNan [a, b] with
  | some r => (r, sigFlag [a, b])
  | none => match a, b with
    | .inf x, .inf y => if x = y then (.inf x, 0) else (.invalid, fNV)
    | .inf x, _ => (.inf x, 0)
    | _, .inf y => (.inf y, 0)
    | .num n1 m1 e1, .num n2 m2 e2 => (addNum mode n1 m1 e1 n2 m2 e2, 0)
    | _, _ => (.invalid, fNV)

/-- a − b. The NaN rule sees b unchanged. -/
def fSub (mode : RMode) (a b : FVal) : FVal × FFlags :=
  match firstNan [a, b] with
  | some r => (r, sigFlag [a, b])
  | none => fAdd mode a b.negate

/-- a × b. -/
def fMul (a b : FVal) : FVal × FFlags :=
  match firstNan [a, b] with
  | some r => (r, sigFlag [a, b])
  | none =>
    let n := a.neg != b.neg
    if (a.isInf && b.isZero) || (a.isZero && b.isInf) then (.invalid, fNV)
    else match a, b with
      | .num _ m1 e1, .num _ m2 e2 => (.num n (m1 * m2) (e1 + e2), 0)
      | _, _ => (.inf n, 0)

/-- a / b: a quotient with 128 bits beyond the operands' own, its last bit set where it is inexact. -/
def fDiv (a b : FVal) : FVal × FFlags :=
  match firstNan [a, b] with
  | some r => (r, sigFlag [a, b])
  | none =>
    let n := a.neg != b.neg
    match a, b with
    | .inf _, .inf _ => (.invalid, fNV)
    | .inf _, _ => (.inf n, 0)
    | _, .inf _ => (.num n 0 0, 0)
    | .num _ m1 e1, .num _ m2 e2 =>
      if m2 = 0 then (if m1 = 0 then (.invalid, fNV) else (.inf n, fDZ))
      else
        let x := m1 * 2 ^ 128
        let q := x / m2
        (.num n (2 * q + (if x % m2 = 0 then 0 else 1)) (e1 - e2 - 129), 0)
    | _, _ => (.invalid, fNV)

/-- The integer square root, one bit a step from bit k down. -/
def isqrt (x : Nat) : Nat → Nat → Nat
  | 0, r => if (r + 1) * (r + 1) ≤ x then r + 1 else r
  | k + 1, r =>
    let r' := r + 2 ^ (k + 1)
    isqrt x k (if r' * r' ≤ x then r' else r)

/-- √a; the root of −0 is −0 (R170). -/
def fSqrt (a : FVal) : FVal × FFlags :=
  match firstNan [a] with
  | some r => (r, sigFlag [a])
  | none => match a with
    | .inf n => if n then (.invalid, fNV) else (.inf false, 0)
    | .num n m e =>
      if m = 0 then (.num n 0 0, 0)
      else if n then (.invalid, fNV)
      else
        let odd := e % 2 != 0
        let x := (if odd then 2 * m else m) * 2 ^ 140
        let e' := if odd then e - 1 else e
        let r := isqrt x (bitLen x / 2 + 1) 0
        (.num false (2 * r + (if r * r = x then 0 else 1)) (e' / 2 - 71), 0)
    | _ => (.invalid, fNV)

/-- a × b + c with one exact sum (R171); `neg` negates the product. 0 × ∞ sets NV even beside a NaN. -/
def fFma (mode : RMode) (neg : Bool) (a b c : FVal) : FVal × FFlags :=
  let zeroInf := (a.isInf && b.isZero) || (a.isZero && b.isInf)
  let nv : FFlags := if zeroInf then fNV else 0
  match firstNan [a, b, c] with
  | some r => (r, sigFlag [a, b, c] ||| nv)
  | none =>
    if zeroInf then (.invalid, fNV)
    else
      let (p, _) := fMul a b
      fAdd mode (if neg then p.negate else p) c

/-- Whether a number lies below another, with −0 below +0 (R148); false of a NaN (R166). -/
def numLess (a b : FVal) : Bool :=
  !a.isNan && !b.isNan && match a, b with
  | .inf x, .inf y => x && !y
  | .inf x, _ => x
  | _, .inf y => !y
  | .num n1 m1 e1, .num n2 m2 e2 =>
    let (d, _) := alignSum n1 m1 e1 (!n2) m2 e2
    if d = 0 then (m1 == 0 && n1 && !n2) else decide (d < 0)
  | _, _ => false

/-- Min and max (R148): a NaN operand gives the NaN of R136. -/
def fMinMax (mx : Bool) (a b : FVal) : FVal × FFlags :=
  match firstNan [a, b] with
  | some r => (r, sigFlag [a, b])
  | none => (if mx then (if numLess a b then b else a) else (if numLess b a then b else a), 0)

/-- Numeric equality: zeros of either sign are equal. -/
def numEq (a b : FVal) : Bool :=
  match a, b with
  | .inf x, .inf y => x == y
  | .num n1 m1 e1, .num n2 m2 e2 => (alignSum n1 m1 e1 (!n2) m2 e2).1 == 0
  | _, _ => false

/-- Numeric order: zeros of either sign are equal. -/
def numLt (a b : FVal) : Bool := numLess a b && !numEq a b

/-! ### Integers (R132, R143) -/

/-- The range of an integer tag of a width and signedness. -/
def intMin (signed : Bool) (w : Nat) : Int := if signed then -(2 ^ (w - 1) : Int) else 0
def intMax (signed : Bool) (w : Nat) : Int := if signed then (2 ^ (w - 1) : Int) - 1 else (2 ^ w : Int) - 1

/-- Clamp an exact integer to a range. -/
def clampInt (signed : Bool) (w : Nat) (i : Int) : Int := max (intMin signed w) (min (intMax signed w) i)

/-- R143: a floating value into an integer tag. -/
def FVal.toInt (mode : RMode) (signed : Bool) (w : Nat) : FVal → Nat × FFlags
  | .nan _ _ _ => (0, fNV)
  | .inf n => (wrapInt w (if n then intMin signed w else intMax signed w), fNV)
  | .num n m e =>
    let (k, inexact) := roundTo mode n false m e 0
    let i : Int := if n then -(k : Int) else k
    if i < intMin signed w ∨ intMax signed w < i then (wrapInt w (clampInt signed w i), fNV)
    else (wrapInt w i, if inexact then fNX else 0)

/-- An integer as an exact value. -/
def intVal (i : Int) : FVal := .num (decide (i < 0)) i.natAbs 0

/-- The integer that an element of an integer tag (int4 included) holds (R132). -/
def tagIntVal (t : BitVec 5) (x : Nat) : Int :=
  if tagSigned t then signedOf (tagWidth t) x else (x % 2 ^ tagWidth t : Nat)

/-! ### Scalar results -/

/-- R155: the operand of a scalar format in a register, with the bits above ignored. -/
def Fmt.read (f : Fmt) (w : Word) : FVal := f.value (w.toNat % 2 ^ f.width)

/-- Round an exact result into a scalar register (R155). -/
def Fmt.write (f : Fmt) (mode : RMode) (r : FVal × FFlags) : Word × FFlags :=
  let (code, fl) := f.ofVal mode false r.1
  (BitVec.ofNat 64 code, r.2 ||| fl)

end Sys2Proof.Machine
end

