-- ==== Sys2Proof/WellFormed.lean ====
section
/-!
DEFINITION. When the operand fields of an instruction form an assigned encoding. The checks are the
reserved codes of R63, R64 and of the instructions' own entries; a word that fails one meets the
fate of its major (R65, R68). The events carry no encoding and are always well formed.
-/

namespace Sys2Proof

/-- R63: cm = 0b11 is reserved. -/
def codeCm (c : BitVec 2) : Bool := c != 3

/-- R64: a bit field has at least one bit and ends within 64 (R164 for the length). -/
def codeField (p l : BitVec 6) : Bool := decide (1 ≤ l.toNat) && decide (p.toNat + l.toNat ≤ 64)

/-- R156: rounding codes 0 to 3 and 7 are valid. -/
def codeRm (r : BitVec 3) : Bool := decide (r.toNat ≤ 3) || r == 7

/-- R170: the integer tag codes of FCVTI and FCVTF: i32, i64, n32, n64. -/
def codeCvtInt (t : BitVec 5) : Bool := t == 3 || t == 4 || t == 7 || t == 8

/-- R185: SETVL names a tag from i8 to mxi8. -/
def codeSetvlTag (t : BitVec 5) : Bool := decide (1 ≤ t.toNat) && decide (t.toNat ≤ 0x12)

/-- R186: VCFG names dead or a tag up to mxi8. -/
def codeVcfgTag (t : BitVec 5) : Bool := decide (t.toNat ≤ 0x12)

/-- R63: ok = 0b11 is reserved in the V-form. -/
def codeOk (k : BitVec 2) : Bool := k != 3

/-- R63: ok is 0b00 or 0b01 in the V4-form. -/
def codeOk4 (k : BitVec 2) : Bool := decide (k.toNat ≤ 1)

/-- R190: VMOV from a scalar or an immediate names a tag from i8 to the last one allowed. -/
def codeMovTag (t : BitVec 5) (top : Nat) : Bool := decide (1 ≤ t.toNat) && decide (t.toNat ≤ top)

/-- R194: a conversion names a tag from i8 to int4; RNA only into an 8-bit float or int4 (R140). -/
def codeVcvt (t : BitVec 5) (r : BitVec 3) : Bool :=
  decide (1 ≤ t.toNat) && decide (t.toNat ≤ 0xF) && r != 5 && r != 6 &&
    (r != 4 || decide (0xD ≤ t.toNat))

/-- R194: VQUANT names mx4, mx8 or mxi8. -/
def codeVquant (t : BitVec 2) (r : BitVec 3) : Bool := t != 3 && r != 5 && r != 6

/-- R210: a slide count is a scalar register or an immediate that is not negative. -/
def codeSlide (k : BitVec 2) (b : BitVec 5) : Bool :=
  k == 1 || (k == 2 && decide (b.toNat < 16))

/-- R225, R234: the block-scaled formats of TLDB are stored with K contiguous. -/
def codeTldb (f : BitVec 3) (o : BitVec 1) : Bool := o == 1 || !(f == 4 || f == 5 || f == 6)

/-- R225, R235: the block-scaled formats of TMMA are stored with K contiguous. -/
def codeTmma (f : BitVec 3) (o : BitVec 1) : Bool := o == 0 || !(f == 4 || f == 5 || f == 6)

/-- R230, R237: drain formats 0 to 4; f32 takes no rounding mode; RNA only into an 8-bit float. -/
def codeDrain (t r : BitVec 3) : Bool :=
  decide (t.toNat ≤ 4) && (t != 0 || r == 0) && r != 5 && r != 6 && (r != 4 || t == 3 || t == 4)

/-- R63: sz = 0b111 is reserved. -/
def codeLoadSize (z : BitVec 3) : Bool := z != 7

/-- R63: GROUP is no space of a plain LD or ST. -/
def codeSpace (p : BitVec 2) : Bool := p != 3

/-- R336: the operators and tags of a scalar group load. -/
def codeGroup (o : BitVec 3) (t : BitVec 5) : Bool :=
  decide (o.toNat ≤ 4) &&
    ((decide (1 ≤ t.toNat) && decide (t.toNat ≤ 3)) || (decide (5 ≤ t.toNat) && decide (t.toNat ≤ 7)) ||
      (decide (0xA ≤ t.toNat) && decide (t.toNat ≤ 0xC)))

/-- R337, R338: scope 7 is reserved, and a scope needs a semantics. -/
def codeScope (c : BitVec 3) (e : BitVec 2) : Bool := c != 7 && (e != 0 || c == 0)

/-- R339: mode 0b11 is reserved; a unit-stride load holds a group operator in b (R344). -/
def codeVload (m : BitVec 2) (b : BitVec 5) : Bool :=
  m != 3 && (m != 0 || decide (b.toNat ≤ 4))

/-- R339, R344: the group operator of a load with unit stride only. -/
def codeGroupOp (b : BitVec 3) : Bool := decide (b.toNat ≤ 4)

/-- R339: mode 0b11 is reserved; b is zero with unit stride. -/
def codeVmem (m : BitVec 2) (b : BitVec 5) : Bool := m != 3 && (m != 0 || b == 0)

/-- R339: scope 7 is reserved; without a semantics a scope is given only with .o. -/
def codeVscope (c : BitVec 3) (e : BitVec 2) (o : BitVec 1) : Bool :=
  c != 7 && (e != 0 || c == 0 || o == 1)

/-- R348: a fence has a semantics and a scope below 7. -/
def codeFence (c : BitVec 3) (e : BitVec 2) : Bool := c != 7 && e != 0

/-- R349: WAITA is plain or an acquire; a scope needs the acquire. -/
def codeWaita (c : BitVec 3) (e : BitVec 1) : Bool := c != 7 && (e != 0 || c == 0)

/-- R377: the registers of STRMV end at v31, and b is zero without an index vector. -/
def codeStrmv (d : BitVec 5) (n : BitVec 3) (p : BitVec 1) (b : BitVec 5) : Bool :=
  decide (d.toNat + n.toNat + 1 ≤ 32) && (p == 1 || b == 0)

/-- The words of majors 0x3C and 0x3D that are no prefetch and no priority hint (R78, R355, R371). -/
def codeHint (h : BitVec 1) (a k : BitVec 5) (i : BitVec 16) : Bool :=
  !(h == 0 && (k == 1 || k == 2 || k == 3)) && !(h == 0 && decide (16 ≤ k.toNat) && a == 0 && i == 0)

/-- The operand fields form an assigned encoding. -/
def wellFormed : Instr → Bool
  | .pfx d e _ _ _ _ => (e == 1 || d == 0)
  | .add _ _ _ => true
  | .sub _ _ _ => true
  | .and _ _ _ => true
  | .or _ _ _ => true
  | .xor _ _ _ => true
  | .andcm _ _ _ => true
  | .orcm _ _ _ => true
  | .eqv _ _ _ => true
  | .sll _ _ _ => true
  | .srl _ _ _ => true
  | .sra _ _ _ => true
  | .rol _ _ _ => true
  | .ror _ _ _ => true
  | .min _ _ _ => true
  | .max _ _ _ => true
  | .minn _ _ _ => true
  | .maxn _ _ _ => true
  | .ixadd1 _ _ _ => true
  | .ixadd2 _ _ _ => true
  | .ixadd3 _ _ _ => true
  | .clz _ _ => true
  | .ctz _ _ => true
  | .popc _ _ => true
  | .byterev _ _ => true
  | .addi _ _ _ => true
  | .andi _ _ _ => true
  | .ori _ _ _ => true
  | .xori _ _ _ => true
  | .slli _ _ _ => true
  | .srli _ _ _ => true
  | .srai _ _ _ => true
  | .rori _ _ _ => true
  | .bext _ _ p l => codeField p l
  | .bexts _ _ p l => codeField p l
  | .bins _ _ p l => codeField p l
  | .bclrf _ _ p l => codeField p l
  | .bsetf _ _ p l => codeField p l
  | .mullo _ _ _ => true
  | .mulhnn _ _ _ => true
  | .mulhii _ _ _ => true
  | .mulhin _ _ _ => true
  | .quon _ _ _ => true
  | .quoi _ _ _ => true
  | .remn _ _ _ => true
  | .remi _ _ _ => true
  | .ldhi _ _ => true
  | .addpc _ _ => true
  | .cmpeq _ c _ _ => codeCm c
  | .cmpne _ c _ _ => codeCm c
  | .cmplt _ c _ _ => codeCm c
  | .cmpge _ c _ _ => codeCm c
  | .cmpltu _ c _ _ => codeCm c
  | .cmpgeu _ c _ _ => codeCm c
  | .fcmpeq _ c _ _ _ => codeCm c && true
  | .fcmplt _ c _ _ _ => codeCm c && true
  | .fcmple _ c _ _ _ => codeCm c && true
  | .fcmpun _ c _ _ _ => codeCm c && true
  | .cmpeqi _ c _ _ => codeCm c
  | .cmpnei _ c _ _ => codeCm c
  | .cmplti _ c _ _ => codeCm c
  | .cmpgei _ c _ _ => codeCm c
  | .cmpltui _ c _ _ => codeCm c
  | .cmpgeui _ c _ _ => codeCm c
  | .plog _ c _ _ _ => codeCm c
  | .sel _ _ _ _ => true
  | .fadd _ _ _ r _ => codeRm r
  | .fsub _ _ _ r _ => codeRm r
  | .fmul _ _ _ r _ => codeRm r
  | .fdiv _ _ _ r _ => codeRm r
  | .fsqrt _ _ r _ => codeRm r
  | .fmin _ _ _ _ => true
  | .fmax _ _ _ _ => true
  | .fneg _ _ _ => true
  | .fabs _ _ _ => true
  | .fcpys _ _ _ _ => true
  | .fkind _ _ _ => true
  | .fcvt _ _ _ r _ => codeRm r
  | .fcvti _ _ t r _ => codeRm r && codeCvtInt t
  | .fcvtf _ _ t r _ => codeRm r && codeCvtInt t
  | .fmadd _ _ _ _ _ r => codeRm r
  | .fnmadd _ _ _ _ _ r => codeRm r
  | .br _ _ _ => true
  | .call _ _ => true
  | .callr _ _ => true
  | .rdcsr _ _ => true
  | .wrcsr _ _ => true
  | .xchcsr _ _ _ => true
  | .setcsr _ _ => true
  | .clrcsr _ _ => true
  | .setvl _ _ t => codeSetvlTag t
  | .vcfg _ t => codeVcfgTag t
  | .vkill a b => decide (a.toNat ≤ b.toNat)
  | .vadd _ _ _ k r => codeRm r && codeOk k
  | .vsub _ _ _ k r => codeRm r && codeOk k
  | .vrsub _ _ _ k r => codeRm r && codeOk k
  | .vmul _ _ _ k r => codeRm r && codeOk k
  | .vmulh _ _ _ k => codeOk k
  | .vmin _ _ _ k => codeOk k
  | .vmax _ _ _ k => codeOk k
  | .vadds _ _ _ k r => codeRm r && codeOk k
  | .vsubs _ _ _ k r => codeRm r && codeOk k
  | .vand _ _ _ k => codeOk k
  | .vor _ _ _ k => codeOk k
  | .vxor _ _ _ k => codeOk k
  | .vsll _ _ _ k => codeOk k
  | .vsrl _ _ _ k => codeOk k
  | .vsra _ _ _ k => codeOk k
  | .vmovVv _ _ => true
  | .vmovVs _ t _ => codeMovTag t 0xF
  | .vmovVi _ t _ => codeMovTag t 0xC
  | .vfadd _ _ _ k r => codeRm r && codeOk k
  | .vfsub _ _ _ k r => codeRm r && codeOk k
  | .vfmul _ _ _ k r => codeRm r && codeOk k
  | .vfdiv _ _ _ k r => codeRm r && codeOk k
  | .vfsqrt _ _ r => codeRm r
  | .vfmin _ _ _ k => codeOk k
  | .vfmax _ _ _ k => codeOk k
  | .vfneg _ _ => true
  | .vfabs _ _ => true
  | .vfcpys _ _ _ k => codeOk k
  | .vfkind _ _ => true
  | .vmadd _ _ _ _ k => codeOk4 k
  | .vmsub _ _ _ _ k => codeOk4 k
  | .vnmadd _ _ _ _ k => codeOk4 k
  | .vcmpeq _ _ _ k => codeOk k
  | .vcmpne _ _ _ k => codeOk k
  | .vcmplt _ _ _ k => codeOk k
  | .vcmple _ _ _ k => codeOk k
  | .vcmpgt _ _ _ k => codeOk k
  | .vcmpge _ _ _ k => codeOk k
  | .vcmpun _ _ _ k => codeOk k
  | .vcvt _ _ r t => codeVcvt t r
  | .vcvts _ _ r t => codeVcvt t r
  | .vquant _ _ r t => codeVquant t r
  | .vrcp _ _ => true
  | .vrsqrt _ _ => true
  | .vexp2 _ _ => true
  | .vidx _ _ _ _ => true
  | .vgather _ _ _ k => codeOk k
  | .vslideup _ _ b k => codeSlide k b
  | .vslidedn _ _ b k => codeSlide k b
  | .vslide1up _ _ _ => true
  | .vslide1dn _ _ _ => true
  | .vcompress _ _ _ => true
  | .vexpand _ _ _ => true
  | .vredsum _ _ _ r => codeRm r
  | .vredmax _ _ _ => true
  | .vredmin _ _ _ => true
  | .vredand _ _ _ => true
  | .vredor _ _ _ => true
  | .vscansum _ _ _ r => codeRm r
  | .vscanmax _ _ _ => true
  | .vscanmin _ _ _ => true
  | .vxscansum _ _ _ r => codeRm r
  | .vxscanmax _ _ _ => true
  | .vxscanmin _ _ _ => true
  | .vconf _ _ => true
  | .mpopc _ _ => true
  | .mfirst _ _ => true
  | .mlog _ _ _ _ => true
  | .msbf _ _ => true
  | .msif _ _ => true
  | .msof _ _ => true
  | .tshape _ _ => true
  | .tldb _ _ _ o f => codeTldb f o
  | .tmma _ _ _ o f => codeTmma f o
  | .tdrain _ _ _ _ r t => codeDrain t r
  | .taccld _ _ _ _ => true
  | .trdacc _ _ _ => true
  | .ld _ _ z p _ => codeLoadSize z && codeSpace p
  | .ldGrp _ _ o t => codeGroup o t
  | .st _ _ _ p _ => codeSpace p
  | .ldSem _ _ c e _ _ => codeScope c e
  | .ldFe _ _ c e _ _ => codeScope c e
  | .ldFc _ _ c e _ _ => codeScope c e
  | .stSem _ _ c e _ _ => codeScope c e
  | .stFe _ _ c e _ _ => codeScope c e
  | .atadd _ _ _ c e _ _ => codeScope c e
  | .atand _ _ _ c e _ _ => codeScope c e
  | .ator _ _ _ c e _ _ => codeScope c e
  | .atxor _ _ _ c e _ _ => codeScope c e
  | .atmin _ _ _ c e _ _ => codeScope c e
  | .atmax _ _ _ c e _ _ => codeScope c e
  | .atminn _ _ _ c e _ _ => codeScope c e
  | .atmaxn _ _ _ c e _ _ => codeScope c e
  | .atxch _ _ _ c e _ _ => codeScope c e
  | .atcmpx _ _ _ c e _ _ => codeScope c e
  | .vld8 _ _ b m o e c => codeVload m b && codeVscope c e o
  | .vld16 _ _ b m o e c => codeVload m b && codeVscope c e o
  | .vld32 _ _ b m o e c => codeVload m b && codeVscope c e o
  | .vld64 _ _ b m o e c => codeVload m b && codeVscope c e o
  | .vld4 _ _ b o e c => codeGroupOp b && codeVscope c e o
  | .vldmx4 _ _ b o e c => codeGroupOp b && codeVscope c e o
  | .vldmx8 _ _ b o e c => codeGroupOp b && codeVscope c e o
  | .vldmxi8 _ _ b o e c => codeGroupOp b && codeVscope c e o
  | .vst8 _ _ b m o e c => codeVmem m b && codeVscope c e o
  | .vst16 _ _ b m o e c => codeVmem m b && codeVscope c e o
  | .vst32 _ _ b m o e c => codeVmem m b && codeVscope c e o
  | .vst64 _ _ b m o e c => codeVmem m b && codeVscope c e o
  | .vst4 _ _ o e c => codeVscope c e o
  | .vstmx4 _ _ o e c => codeVscope c e o
  | .vstmx8 _ _ o e c => codeVscope c e o
  | .vstmxi8 _ _ o e c => codeVscope c e o
  | .vatadd _ _ b m o e c => codeVmem m b && codeVscope c e o
  | .vatand _ _ b m o e c => codeVmem m b && codeVscope c e o
  | .vator _ _ b m o e c => codeVmem m b && codeVscope c e o
  | .vatxor _ _ b m o e c => codeVmem m b && codeVscope c e o
  | .vatmin _ _ b m o e c => codeVmem m b && codeVscope c e o
  | .vatmax _ _ b m o e c => codeVmem m b && codeVscope c e o
  | .vatxch _ _ b m o e c => codeVmem m b && codeVscope c e o
  | .fence c e => codeFence c e
  | .waita _ _ _ c e _ _ => codeWaita c e
  | .rwb _ _ _ => true
  | .rinv _ _ _ => true
  | .stmap _ _ _ => true
  | .stunmap _ _ => true
  | .strm _ _ _ => true
  | .strmv d _ b p n _ _ => codeStrmv d n p b
  | .strmw _ _ => true
  | .send _ _ _ _ _ => true
  | .recv _ _ _ _ _ => true
  | .recvt _ _ _ _ _ => true
  | .tokw _ _ _ => true
  | .launch _ _ _ => true
  | .dleave m => (m != 0)
  | .coll _ _ _ => true
  | .migrate _ => true
  | .sysc _ => true
  | .ctxsave _ _ _ => true
  | .ctxload _ _ _ => true
  | .tblw _ _ _ => true
  | .tblr _ _ _ => true
  | .tinv _ _ _ => true
  | .agrd _ _ => true
  | .agrdx _ _ _ => true
  | .mgnreq _ _ _ => true
  | .ctrdx _ _ _ => true
  | .ctzero _ _ => true
  | .pfL2r _ _ => true
  | .pfL2w _ _ => true
  | .pfL1 _ _ => true
  | .pri _ => true
  | .hint h a k i => codeHint h a k i
  | .trel => true
  | .tzero0 => true
  | .tzero1 => true
  | .tzero2 => true
  | .tzero3 => true
  | .uiret => true
  | .endT => true
  | .bar0 => true
  | .bar1 => true
  | .bar2 => true
  | .bar3 => true
  | .tret => true
  | .vresume => true
  | .brk => true
  | .migrationInject _ _ => true
  | .migrationArrival _ _ => true
  | .arrivalBufferAdmit _ => true
  | .vectorLazyLoad _ _ _ => true
  | .threadBind _ => true
  | .waitbToWaitu _ _ => true
  | .yieldMark _ _ => true
  | .preemptionDeadline _ _ => true
  | .schedulerWindowEnd _ _ => true
  | .elementGroupGrant _ => true
  | .vectorComplete _ _ => true
  | .storeErrorAck _ _ _ => true
  | .commandProcessorLaunch _ _ _ => true
  | .commandProcessorPreempt _ _ _ => true
  | .commandProcessorRestore _ _ => true
  | .contextImageComplete _ => true
  | .workToken _ _ _ _ => true
  | .tokenDispatch _ => true
  | .launchPerform _ => true
  | .launchQueueInsert _ => true
  | .deadTokenRecordRead _ => true
  | .streamTransferStart _ => true
  | .streamElementLanding _ _ => true
  | .userInterruptEntry _ _ => true
  | .countersReturn _ _ => true
  | .collReadyPoll _ _ => true
  | .collShardCopy _ _ => true
  | .messageDelivery _ _ _ => true
  | .retryOffer _ _ => true
  | .groupMemberRequest _ _ _ => true
  | .pageWalkComplete _ _ _ => true
  | .cacheEviction _ _ => true
  | .lateTransitionReplay _ => true
  | .replayWindowStart _ => true
  | .guardWindowExpire _ => true
  | .ageingMeasure _ _ _ => true
  | .ageingWriteback _ => true
  | .coreReset _ => true
  | .packagePowerUp => true
  | .warmReset => true
  | .powerControlInterval _ _ _ _ _ => true
  | .loanRequest _ _ _ _ _ => true
  | .loanGrant _ => true
  | .loanRenewal _ _ => true
  | .loanStopCount _ => true
  | .loanExpiry _ => true
  | .fastThrottleAlarm _ => true
  | .fastThrottleRelease => true
  | .throttleSettleEnd => true
  | .laneGroupPowerDown _ _ => true
  | .breakEvenHoldEnd _ _ => true
  | .laneGroupWake _ _ => true
  | .inrushService _ => true
  | .linkFrameReceive _ _ _ _ _ _ => true
  | .linkNak _ _ _ => true
  | .linkFailure _ => true
  | .linkAckTimeout _ => true
  | .fabricGiveUp _ _ _ _ => true
  | .hostAccess _ _ _ _ _ => true
  | .cxlCompletionTimeout _ _ _ => true
  | .cxlBackInvalidate _ => true
  | .svcRaiseAlarm _ => true
  | .svcClearAlarm _ => true
  | .svcFirmwareUpdate _ _ => true
  | .svcAttest _ => true
  | .svcBlackboxDump _ => true
  | .svcManifestCopy _ => true
  | .svcInvalidCmd _ => true
  | .blackboxDumpComplete _ => true
  | .registerWrite _ _ => true
  | .unassignedEncoding _ => true
  | .arenaFault => true
  | .powerLoss => true
  | .fastThrottleAlarmClear _ => true
  | .ultraEthernetReceive _ _ _ _ => true
  | .cxlPoolHostWrite _ _ => true
  | .firmwareFault _ => true

end Sys2Proof
end

