-- ==== Sys2Proof/Decode.lean ====
section
/-!
DEFINITION. From 32-bit words to instructions and back (R60-R65). The decoder reads the major, finds
the row of the opcode table by its fixed bits, and checks the operand codes; every other word is
rejected with the fate that R65 gives its major (R68). The encoder is written from the same tables.
-/

namespace Sys2Proof

/-- What becomes of a word that no row assigns (R65, R68). -/
inductive Fate where
  /-- Illegal-instruction fault with its reason (R70). -/
  | illegal (reason : BitVec 4)
  /-- No-suitable-class fault (R80). -/
  | noSuitableClass
  /-- The poison bit of s(d) is set. -/
  | poisonS (d : BitVec 5)
  /-- The tag of v(d) becomes poison. -/
  | poisonV (d : BitVec 5)
  deriving DecidableEq, Repr

/-- The fate of an unassigned word (R65). In major 0x14 the read forms (op below 8) poison their
destination. A scalar destination s0 cannot hold poison and turns the fate into a fault (R68). -/
def fateOf (w : Nat) : Fate :=
  let d : BitVec 5 := BitVec.ofNat 5 (bits w 21 5)
  let poison : Fate := if d = 0 then .illegal 0 else .poisonS d
  match bits w 26 6 with
  | 0x00 | 0x3F => .illegal 1
  | 0x01 => .illegal 4
  | 0x02 | 0x07 | 0x08 | 0x0E | 0x0F | 0x10 | 0x22 | 0x2F | 0x30 | 0x31 | 0x32 | 0x33 | 0x34 | 0x35 => poison
  | 0x17 | 0x18 | 0x19 | 0x1B | 0x1C | 0x1D | 0x1E | 0x26 | 0x36 | 0x37 => .poisonV d
  | 0x38 | 0x39 | 0x3A | 0x3B => .noSuitableClass
  | 0x14 => if bits w 0 4 < 8 then poison else .illegal 0
  | _ => .illegal 0

/-- The rows of major 0x01 (R65). -/
def rows01 (w : Nat) : Option Instr :=
  if bits w 0 14 = 0x0 then
    some (.pfx (BitVec.ofNat 5 (bits w 21 5)) (BitVec.ofNat 1 (bits w 20 1)) (BitVec.ofNat 1 (bits w 19 1)) (BitVec.ofNat 3 (bits w 16 3)) (BitVec.ofNat 1 (bits w 15 1)) (BitVec.ofNat 1 (bits w 14 1)))
  else none

/-- The rows of major 0x02 (R65). -/
def rows02 (w : Nat) : Option Instr :=
  if bits w 0 11 = 0x0 then
    some (.add (BitVec.ofNat 5 (bits w 21 5)) (BitVec.ofNat 5 (bits w 16 5)) (BitVec.ofNat 5 (bits w 11 5)))
  else if bits w 0 11 = 0x1 then
    some (.sub (BitVec.ofNat 5 (bits w 21 5)) (BitVec.ofNat 5 (bits w 16 5)) (BitVec.ofNat 5 (bits w 11 5)))
  else if bits w 0 11 = 0x2 then
    some (.and (BitVec.ofNat 5 (bits w 21 5)) (BitVec.ofNat 5 (bits w 16 5)) (BitVec.ofNat 5 (bits w 11 5)))
  else if bits w 0 11 = 0x3 then
    some (.or (BitVec.ofNat 5 (bits w 21 5)) (BitVec.ofNat 5 (bits w 16 5)) (BitVec.ofNat 5 (bits w 11 5)))
  else if bits w 0 11 = 0x4 then
    some (.xor (BitVec.ofNat 5 (bits w 21 5)) (BitVec.ofNat 5 (bits w 16 5)) (BitVec.ofNat 5 (bits w 11 5)))
  else if bits w 0 11 = 0x5 then
    some (.andcm (BitVec.ofNat 5 (bits w 21 5)) (BitVec.ofNat 5 (bits w 16 5)) (BitVec.ofNat 5 (bits w 11 5)))
  else if bits w 0 11 = 0x6 then
    some (.orcm (BitVec.ofNat 5 (bits w 21 5)) (BitVec.ofNat 5 (bits w 16 5)) (BitVec.ofNat 5 (bits w 11 5)))
  else if bits w 0 11 = 0x7 then
    some (.eqv (BitVec.ofNat 5 (bits w 21 5)) (BitVec.ofNat 5 (bits w 16 5)) (BitVec.ofNat 5 (bits w 11 5)))
  else if bits w 0 11 = 0x8 then
    some (.sll (BitVec.ofNat 5 (bits w 21 5)) (BitVec.ofNat 5 (bits w 16 5)) (BitVec.ofNat 5 (bits w 11 5)))
  else if bits w 0 11 = 0x9 then
    some (.srl (BitVec.ofNat 5 (bits w 21 5)) (BitVec.ofNat 5 (bits w 16 5)) (BitVec.ofNat 5 (bits w 11 5)))
  else if bits w 0 11 = 0xA then
    some (.sra (BitVec.ofNat 5 (bits w 21 5)) (BitVec.ofNat 5 (bits w 16 5)) (BitVec.ofNat 5 (bits w 11 5)))
  else if bits w 0 11 = 0xB then
    some (.rol (BitVec.ofNat 5 (bits w 21 5)) (BitVec.ofNat 5 (bits w 16 5)) (BitVec.ofNat 5 (bits w 11 5)))
  else if bits w 0 11 = 0xC then
    some (.ror (BitVec.ofNat 5 (bits w 21 5)) (BitVec.ofNat 5 (bits w 16 5)) (BitVec.ofNat 5 (bits w 11 5)))
  else if bits w 0 11 = 0xD then
    some (.min (BitVec.ofNat 5 (bits w 21 5)) (BitVec.ofNat 5 (bits w 16 5)) (BitVec.ofNat 5 (bits w 11 5)))
  else if bits w 0 11 = 0xE then
    some (.max (BitVec.ofNat 5 (bits w 21 5)) (BitVec.ofNat 5 (bits w 16 5)) (BitVec.ofNat 5 (bits w 11 5)))
  else if bits w 0 11 = 0xF then
    some (.minn (BitVec.ofNat 5 (bits w 21 5)) (BitVec.ofNat 5 (bits w 16 5)) (BitVec.ofNat 5 (bits w 11 5)))
  else if bits w 0 11 = 0x10 then
    some (.maxn (BitVec.ofNat 5 (bits w 21 5)) (BitVec.ofNat 5 (bits w 16 5)) (BitVec.ofNat 5 (bits w 11 5)))
  else if bits w 0 11 = 0x11 then
    some (.ixadd1 (BitVec.ofNat 5 (bits w 21 5)) (BitVec.ofNat 5 (bits w 16 5)) (BitVec.ofNat 5 (bits w 11 5)))
  else if bits w 0 11 = 0x12 then
    some (.ixadd2 (BitVec.ofNat 5 (bits w 21 5)) (BitVec.ofNat 5 (bits w 16 5)) (BitVec.ofNat 5 (bits w 11 5)))
  else if bits w 0 11 = 0x13 then
    some (.ixadd3 (BitVec.ofNat 5 (bits w 21 5)) (BitVec.ofNat 5 (bits w 16 5)) (BitVec.ofNat 5 (bits w 11 5)))
  else if bits w 0 16 = 0x14 then
    some (.clz (BitVec.ofNat 5 (bits w 21 5)) (BitVec.ofNat 5 (bits w 16 5)))
  else if bits w 0 16 = 0x15 then
    some (.ctz (BitVec.ofNat 5 (bits w 21 5)) (BitVec.ofNat 5 (bits w 16 5)))
  else if bits w 0 16 = 0x16 then
    some (.popc (BitVec.ofNat 5 (bits w 21 5)) (BitVec.ofNat 5 (bits w 16 5)))
  else if bits w 0 16 = 0x17 then
    some (.byterev (BitVec.ofNat 5 (bits w 21 5)) (BitVec.ofNat 5 (bits w 16 5)))
  else none

/-- The rows of major 0x03 (R65). -/
def rows03 (w : Nat) : Option Instr :=
  some (.addi (BitVec.ofNat 5 (bits w 21 5)) (BitVec.ofNat 5 (bits w 16 5)) (BitVec.ofNat 16 (bits w 0 16)))

/-- The rows of major 0x04 (R65). -/
def rows04 (w : Nat) : Option Instr :=
  some (.andi (BitVec.ofNat 5 (bits w 21 5)) (BitVec.ofNat 5 (bits w 16 5)) (BitVec.ofNat 16 (bits w 0 16)))

/-- The rows of major 0x05 (R65). -/
def rows05 (w : Nat) : Option Instr :=
  some (.ori (BitVec.ofNat 5 (bits w 21 5)) (BitVec.ofNat 5 (bits w 16 5)) (BitVec.ofNat 16 (bits w 0 16)))

/-- The rows of major 0x06 (R65). -/
def rows06 (w : Nat) : Option Instr :=
  some (.xori (BitVec.ofNat 5 (bits w 21 5)) (BitVec.ofNat 5 (bits w 16 5)) (BitVec.ofNat 16 (bits w 0 16)))

/-- The rows of major 0x07 (R65). -/
def rows07 (w : Nat) : Option Instr :=
  if bits w 0 10 = 0x0 then
    some (.slli (BitVec.ofNat 5 (bits w 21 5)) (BitVec.ofNat 5 (bits w 16 5)) (BitVec.ofNat 6 (bits w 10 6)))
  else if bits w 0 10 = 0x1 then
    some (.srli (BitVec.ofNat 5 (bits w 21 5)) (BitVec.ofNat 5 (bits w 16 5)) (BitVec.ofNat 6 (bits w 10 6)))
  else if bits w 0 10 = 0x2 then
    some (.srai (BitVec.ofNat 5 (bits w 21 5)) (BitVec.ofNat 5 (bits w 16 5)) (BitVec.ofNat 6 (bits w 10 6)))
  else if bits w 0 10 = 0x3 then
    some (.rori (BitVec.ofNat 5 (bits w 21 5)) (BitVec.ofNat 5 (bits w 16 5)) (BitVec.ofNat 6 (bits w 10 6)))
  else if bits w 0 4 = 0x4 then
    some (.bext (BitVec.ofNat 5 (bits w 21 5)) (BitVec.ofNat 5 (bits w 16 5)) (BitVec.ofNat 6 (bits w 10 6)) (BitVec.ofNat 6 (bits w 4 6)))
  else if bits w 0 4 = 0x5 then
    some (.bexts (BitVec.ofNat 5 (bits w 21 5)) (BitVec.ofNat 5 (bits w 16 5)) (BitVec.ofNat 6 (bits w 10 6)) (BitVec.ofNat 6 (bits w 4 6)))
  else if bits w 0 4 = 0x6 then
    some (.bins (BitVec.ofNat 5 (bits w 21 5)) (BitVec.ofNat 5 (bits w 16 5)) (BitVec.ofNat 6 (bits w 10 6)) (BitVec.ofNat 6 (bits w 4 6)))
  else if bits w 0 4 = 0x7 then
    some (.bclrf (BitVec.ofNat 5 (bits w 21 5)) (BitVec.ofNat 5 (bits w 16 5)) (BitVec.ofNat 6 (bits w 10 6)) (BitVec.ofNat 6 (bits w 4 6)))
  else if bits w 0 4 = 0x8 then
    some (.bsetf (BitVec.ofNat 5 (bits w 21 5)) (BitVec.ofNat 5 (bits w 16 5)) (BitVec.ofNat 6 (bits w 10 6)) (BitVec.ofNat 6 (bits w 4 6)))
  else none

/-- The rows of major 0x08 (R65). -/
def rows08 (w : Nat) : Option Instr :=
  if bits w 0 11 = 0x0 then
    some (.mullo (BitVec.ofNat 5 (bits w 21 5)) (BitVec.ofNat 5 (bits w 16 5)) (BitVec.ofNat 5 (bits w 11 5)))
  else if bits w 0 11 = 0x1 then
    some (.mulhnn (BitVec.ofNat 5 (bits w 21 5)) (BitVec.ofNat 5 (bits w 16 5)) (BitVec.ofNat 5 (bits w 11 5)))
  else if bits w 0 11 = 0x2 then
    some (.mulhii (BitVec.ofNat 5 (bits w 21 5)) (BitVec.ofNat 5 (bits w 16 5)) (BitVec.ofNat 5 (bits w 11 5)))
  else if bits w 0 11 = 0x3 then
    some (.mulhin (BitVec.ofNat 5 (bits w 21 5)) (BitVec.ofNat 5 (bits w 16 5)) (BitVec.ofNat 5 (bits w 11 5)))
  else if bits w 0 11 = 0x4 then
    some (.quon (BitVec.ofNat 5 (bits w 21 5)) (BitVec.ofNat 5 (bits w 16 5)) (BitVec.ofNat 5 (bits w 11 5)))
  else if bits w 0 11 = 0x5 then
    some (.quoi (BitVec.ofNat 5 (bits w 21 5)) (BitVec.ofNat 5 (bits w 16 5)) (BitVec.ofNat 5 (bits w 11 5)))
  else if bits w 0 11 = 0x6 then
    some (.remn (BitVec.ofNat 5 (bits w 21 5)) (BitVec.ofNat 5 (bits w 16 5)) (BitVec.ofNat 5 (bits w 11 5)))
  else if bits w 0 11 = 0x7 then
    some (.remi (BitVec.ofNat 5 (bits w 21 5)) (BitVec.ofNat 5 (bits w 16 5)) (BitVec.ofNat 5 (bits w 11 5)))
  else none

/-- The rows of major 0x09 (R65). -/
def rows09 (w : Nat) : Option Instr :=
  some (.ldhi (BitVec.ofNat 5 (bits w 21 5)) (BitVec.ofNat 21 (bits w 0 21)))

/-- The rows of major 0x0A (R65). -/
def rows0A (w : Nat) : Option Instr :=
  some (.addpc (BitVec.ofNat 5 (bits w 21 5)) (BitVec.ofNat 21 (bits w 0 21)))

/-- The rows of major 0x0B (R65). -/
def rows0B (w : Nat) : Option Instr :=
  if bits w 0 11 = 0x0 then
    some (.cmpeq (BitVec.ofNat 3 (bits w 23 3)) (BitVec.ofNat 2 (bits w 21 2)) (BitVec.ofNat 5 (bits w 16 5)) (BitVec.ofNat 5 (bits w 11 5)))
  else if bits w 0 11 = 0x1 then
    some (.cmpne (BitVec.ofNat 3 (bits w 23 3)) (BitVec.ofNat 2 (bits w 21 2)) (BitVec.ofNat 5 (bits w 16 5)) (BitVec.ofNat 5 (bits w 11 5)))
  else if bits w 0 11 = 0x2 then
    some (.cmplt (BitVec.ofNat 3 (bits w 23 3)) (BitVec.ofNat 2 (bits w 21 2)) (BitVec.ofNat 5 (bits w 16 5)) (BitVec.ofNat 5 (bits w 11 5)))
  else if bits w 0 11 = 0x3 then
    some (.cmpge (BitVec.ofNat 3 (bits w 23 3)) (BitVec.ofNat 2 (bits w 21 2)) (BitVec.ofNat 5 (bits w 16 5)) (BitVec.ofNat 5 (bits w 11 5)))
  else if bits w 0 11 = 0x4 then
    some (.cmpltu (BitVec.ofNat 3 (bits w 23 3)) (BitVec.ofNat 2 (bits w 21 2)) (BitVec.ofNat 5 (bits w 16 5)) (BitVec.ofNat 5 (bits w 11 5)))
  else if bits w 0 11 = 0x5 then
    some (.cmpgeu (BitVec.ofNat 3 (bits w 23 3)) (BitVec.ofNat 2 (bits w 21 2)) (BitVec.ofNat 5 (bits w 16 5)) (BitVec.ofNat 5 (bits w 11 5)))
  else if bits w 4 7 = 0x1 ∧ bits w 0 2 = 0x0 then
    some (.fcmpeq (BitVec.ofNat 3 (bits w 23 3)) (BitVec.ofNat 2 (bits w 21 2)) (BitVec.ofNat 5 (bits w 16 5)) (BitVec.ofNat 5 (bits w 11 5)) (BitVec.ofNat 2 (bits w 2 2)))
  else if bits w 4 7 = 0x1 ∧ bits w 0 2 = 0x1 then
    some (.fcmplt (BitVec.ofNat 3 (bits w 23 3)) (BitVec.ofNat 2 (bits w 21 2)) (BitVec.ofNat 5 (bits w 16 5)) (BitVec.ofNat 5 (bits w 11 5)) (BitVec.ofNat 2 (bits w 2 2)))
  else if bits w 4 7 = 0x1 ∧ bits w 0 2 = 0x2 then
    some (.fcmple (BitVec.ofNat 3 (bits w 23 3)) (BitVec.ofNat 2 (bits w 21 2)) (BitVec.ofNat 5 (bits w 16 5)) (BitVec.ofNat 5 (bits w 11 5)) (BitVec.ofNat 2 (bits w 2 2)))
  else if bits w 4 7 = 0x1 ∧ bits w 0 2 = 0x3 then
    some (.fcmpun (BitVec.ofNat 3 (bits w 23 3)) (BitVec.ofNat 2 (bits w 21 2)) (BitVec.ofNat 5 (bits w 16 5)) (BitVec.ofNat 5 (bits w 11 5)) (BitVec.ofNat 2 (bits w 2 2)))
  else none

/-- The rows of major 0x0C (R65). -/
def rows0C (w : Nat) : Option Instr :=
  if bits w 11 5 = 0x0 then
    some (.cmpeqi (BitVec.ofNat 3 (bits w 23 3)) (BitVec.ofNat 2 (bits w 21 2)) (BitVec.ofNat 5 (bits w 16 5)) (BitVec.ofNat 11 (bits w 0 11)))
  else if bits w 11 5 = 0x1 then
    some (.cmpnei (BitVec.ofNat 3 (bits w 23 3)) (BitVec.ofNat 2 (bits w 21 2)) (BitVec.ofNat 5 (bits w 16 5)) (BitVec.ofNat 11 (bits w 0 11)))
  else if bits w 11 5 = 0x2 then
    some (.cmplti (BitVec.ofNat 3 (bits w 23 3)) (BitVec.ofNat 2 (bits w 21 2)) (BitVec.ofNat 5 (bits w 16 5)) (BitVec.ofNat 11 (bits w 0 11)))
  else if bits w 11 5 = 0x3 then
    some (.cmpgei (BitVec.ofNat 3 (bits w 23 3)) (BitVec.ofNat 2 (bits w 21 2)) (BitVec.ofNat 5 (bits w 16 5)) (BitVec.ofNat 11 (bits w 0 11)))
  else if bits w 11 5 = 0x4 then
    some (.cmpltui (BitVec.ofNat 3 (bits w 23 3)) (BitVec.ofNat 2 (bits w 21 2)) (BitVec.ofNat 5 (bits w 16 5)) (BitVec.ofNat 11 (bits w 0 11)))
  else if bits w 11 5 = 0x5 then
    some (.cmpgeui (BitVec.ofNat 3 (bits w 23 3)) (BitVec.ofNat 2 (bits w 21 2)) (BitVec.ofNat 5 (bits w 16 5)) (BitVec.ofNat 11 (bits w 0 11)))
  else none

/-- The rows of major 0x0D (R65). -/
def rows0D (w : Nat) : Option Instr :=
  if bits w 19 2 = 0x0 ∧ bits w 14 2 = 0x0 ∧ bits w 4 7 = 0x0 then
    some (.plog (BitVec.ofNat 3 (bits w 23 3)) (BitVec.ofNat 2 (bits w 21 2)) (BitVec.ofNat 3 (bits w 16 3)) (BitVec.ofNat 3 (bits w 11 3)) (BitVec.ofNat 4 (bits w 0 4)))
  else none

/-- The rows of major 0x0E (R65). -/
def rows0E (w : Nat) : Option Instr :=
  if bits w 9 2 = 0x0 ∧ bits w 0 6 = 0x0 then
    some (.sel (BitVec.ofNat 5 (bits w 21 5)) (BitVec.ofNat 5 (bits w 16 5)) (BitVec.ofNat 5 (bits w 11 5)) (BitVec.ofNat 3 (bits w 6 3)))
  else none

/-- The rows of major 0x0F (R65). -/
def rows0F (w : Nat) : Option Instr :=
  if bits w 0 6 = 0x0 then
    some (.fadd (BitVec.ofNat 5 (bits w 21 5)) (BitVec.ofNat 5 (bits w 16 5)) (BitVec.ofNat 5 (bits w 11 5)) (BitVec.ofNat 3 (bits w 8 3)) (BitVec.ofNat 2 (bits w 6 2)))
  else if bits w 0 6 = 0x1 then
    some (.fsub (BitVec.ofNat 5 (bits w 21 5)) (BitVec.ofNat 5 (bits w 16 5)) (BitVec.ofNat 5 (bits w 11 5)) (BitVec.ofNat 3 (bits w 8 3)) (BitVec.ofNat 2 (bits w 6 2)))
  else if bits w 0 6 = 0x2 then
    some (.fmul (BitVec.ofNat 5 (bits w 21 5)) (BitVec.ofNat 5 (bits w 16 5)) (BitVec.ofNat 5 (bits w 11 5)) (BitVec.ofNat 3 (bits w 8 3)) (BitVec.ofNat 2 (bits w 6 2)))
  else if bits w 0 6 = 0x3 then
    some (.fdiv (BitVec.ofNat 5 (bits w 21 5)) (BitVec.ofNat 5 (bits w 16 5)) (BitVec.ofNat 5 (bits w 11 5)) (BitVec.ofNat 3 (bits w 8 3)) (BitVec.ofNat 2 (bits w 6 2)))
  else if bits w 11 5 = 0x0 ∧ bits w 0 6 = 0x4 then
    some (.fsqrt (BitVec.ofNat 5 (bits w 21 5)) (BitVec.ofNat 5 (bits w 16 5)) (BitVec.ofNat 3 (bits w 8 3)) (BitVec.ofNat 2 (bits w 6 2)))
  else if bits w 8 3 = 0x0 ∧ bits w 0 6 = 0x5 then
    some (.fmin (BitVec.ofNat 5 (bits w 21 5)) (BitVec.ofNat 5 (bits w 16 5)) (BitVec.ofNat 5 (bits w 11 5)) (BitVec.ofNat 2 (bits w 6 2)))
  else if bits w 8 3 = 0x0 ∧ bits w 0 6 = 0x6 then
    some (.fmax (BitVec.ofNat 5 (bits w 21 5)) (BitVec.ofNat 5 (bits w 16 5)) (BitVec.ofNat 5 (bits w 11 5)) (BitVec.ofNat 2 (bits w 6 2)))
  else if bits w 8 8 = 0x0 ∧ bits w 0 6 = 0x7 then
    some (.fneg (BitVec.ofNat 5 (bits w 21 5)) (BitVec.ofNat 5 (bits w 16 5)) (BitVec.ofNat 2 (bits w 6 2)))
  else if bits w 8 8 = 0x0 ∧ bits w 0 6 = 0x8 then
    some (.fabs (BitVec.ofNat 5 (bits w 21 5)) (BitVec.ofNat 5 (bits w 16 5)) (BitVec.ofNat 2 (bits w 6 2)))
  else if bits w 8 3 = 0x0 ∧ bits w 0 6 = 0x9 then
    some (.fcpys (BitVec.ofNat 5 (bits w 21 5)) (BitVec.ofNat 5 (bits w 16 5)) (BitVec.ofNat 5 (bits w 11 5)) (BitVec.ofNat 2 (bits w 6 2)))
  else if bits w 8 8 = 0x0 ∧ bits w 0 6 = 0xA then
    some (.fkind (BitVec.ofNat 5 (bits w 21 5)) (BitVec.ofNat 5 (bits w 16 5)) (BitVec.ofNat 2 (bits w 6 2)))
  else if bits w 13 3 = 0x0 ∧ bits w 0 6 = 0xB then
    some (.fcvt (BitVec.ofNat 5 (bits w 21 5)) (BitVec.ofNat 5 (bits w 16 5)) (BitVec.ofNat 2 (bits w 11 2)) (BitVec.ofNat 3 (bits w 8 3)) (BitVec.ofNat 2 (bits w 6 2)))
  else if bits w 0 6 = 0xC then
    some (.fcvti (BitVec.ofNat 5 (bits w 21 5)) (BitVec.ofNat 5 (bits w 16 5)) (BitVec.ofNat 5 (bits w 11 5)) (BitVec.ofNat 3 (bits w 8 3)) (BitVec.ofNat 2 (bits w 6 2)))
  else if bits w 0 6 = 0xD then
    some (.fcvtf (BitVec.ofNat 5 (bits w 21 5)) (BitVec.ofNat 5 (bits w 16 5)) (BitVec.ofNat 5 (bits w 11 5)) (BitVec.ofNat 3 (bits w 8 3)) (BitVec.ofNat 2 (bits w 6 2)))
  else none

/-- The rows of major 0x10 (R65). -/
def rows10 (w : Nat) : Option Instr :=
  if bits w 5 1 = 0x0 then
    some (.fmadd (BitVec.ofNat 5 (bits w 21 5)) (BitVec.ofNat 5 (bits w 16 5)) (BitVec.ofNat 5 (bits w 11 5)) (BitVec.ofNat 5 (bits w 6 5)) (BitVec.ofNat 2 (bits w 3 2)) (BitVec.ofNat 3 (bits w 0 3)))
  else if bits w 5 1 = 0x1 then
    some (.fnmadd (BitVec.ofNat 5 (bits w 21 5)) (BitVec.ofNat 5 (bits w 16 5)) (BitVec.ofNat 5 (bits w 11 5)) (BitVec.ofNat 5 (bits w 6 5)) (BitVec.ofNat 2 (bits w 3 2)) (BitVec.ofNat 3 (bits w 0 3)))
  else none

/-- The rows of major 0x11 (R65). -/
def rows11 (w : Nat) : Option Instr :=
  some (.br (BitVec.ofNat 3 (bits w 23 3)) (BitVec.ofNat 1 (bits w 22 1)) (BitVec.ofNat 22 (bits w 0 22)))

/-- The rows of major 0x12 (R65). -/
def rows12 (w : Nat) : Option Instr :=
  some (.call (BitVec.ofNat 5 (bits w 21 5)) (BitVec.ofNat 21 (bits w 0 21)))

/-- The rows of major 0x13 (R65). -/
def rows13 (w : Nat) : Option Instr :=
  if bits w 0 16 = 0x0 then
    some (.callr (BitVec.ofNat 5 (bits w 21 5)) (BitVec.ofNat 5 (bits w 16 5)))
  else none

/-- The rows of major 0x14 (R65). -/
def rows14 (w : Nat) : Option Instr :=
  if bits w 16 5 = 0x0 ∧ bits w 0 4 = 0x0 then
    some (.rdcsr (BitVec.ofNat 5 (bits w 21 5)) (BitVec.ofNat 12 (bits w 4 12)))
  else if bits w 21 5 = 0x0 ∧ bits w 0 4 = 0x8 then
    some (.wrcsr (BitVec.ofNat 5 (bits w 16 5)) (BitVec.ofNat 12 (bits w 4 12)))
  else if bits w 0 4 = 0x9 then
    some (.xchcsr (BitVec.ofNat 5 (bits w 21 5)) (BitVec.ofNat 5 (bits w 16 5)) (BitVec.ofNat 12 (bits w 4 12)))
  else if bits w 21 5 = 0x0 ∧ bits w 0 4 = 0xA then
    some (.setcsr (BitVec.ofNat 5 (bits w 16 5)) (BitVec.ofNat 12 (bits w 4 12)))
  else if bits w 21 5 = 0x0 ∧ bits w 0 4 = 0xB then
    some (.clrcsr (BitVec.ofNat 5 (bits w 16 5)) (BitVec.ofNat 12 (bits w 4 12)))
  else none

/-- The rows of major 0x16 (R65). -/
def rows16 (w : Nat) : Option Instr :=
  if bits w 0 11 = 0x0 then
    some (.setvl (BitVec.ofNat 5 (bits w 21 5)) (BitVec.ofNat 5 (bits w 16 5)) (BitVec.ofNat 5 (bits w 11 5)))
  else if bits w 0 16 = 0x1 then
    some (.vcfg (BitVec.ofNat 5 (bits w 21 5)) (BitVec.ofNat 5 (bits w 16 5)))
  else if bits w 21 5 = 0x0 ∧ bits w 0 11 = 0x2 then
    some (.vkill (BitVec.ofNat 5 (bits w 16 5)) (BitVec.ofNat 5 (bits w 11 5)))
  else none

/-- The rows of major 0x17 (R65). -/
def rows17 (w : Nat) : Option Instr :=
  if bits w 0 6 = 0x0 then
    some (.vadd (BitVec.ofNat 5 (bits w 21 5)) (BitVec.ofNat 5 (bits w 16 5)) (BitVec.ofNat 5 (bits w 11 5)) (BitVec.ofNat 2 (bits w 9 2)) (BitVec.ofNat 3 (bits w 6 3)))
  else if bits w 0 6 = 0x1 then
    some (.vsub (BitVec.ofNat 5 (bits w 21 5)) (BitVec.ofNat 5 (bits w 16 5)) (BitVec.ofNat 5 (bits w 11 5)) (BitVec.ofNat 2 (bits w 9 2)) (BitVec.ofNat 3 (bits w 6 3)))
  else if bits w 0 6 = 0x2 then
    some (.vrsub (BitVec.ofNat 5 (bits w 21 5)) (BitVec.ofNat 5 (bits w 16 5)) (BitVec.ofNat 5 (bits w 11 5)) (BitVec.ofNat 2 (bits w 9 2)) (BitVec.ofNat 3 (bits w 6 3)))
  else if bits w 0 6 = 0x3 then
    some (.vmul (BitVec.ofNat 5 (bits w 21 5)) (BitVec.ofNat 5 (bits w 16 5)) (BitVec.ofNat 5 (bits w 11 5)) (BitVec.ofNat 2 (bits w 9 2)) (BitVec.ofNat 3 (bits w 6 3)))
  else if bits w 0 9 = 0x4 then
    some (.vmulh (BitVec.ofNat 5 (bits w 21 5)) (BitVec.ofNat 5 (bits w 16 5)) (BitVec.ofNat 5 (bits w 11 5)) (BitVec.ofNat 2 (bits w 9 2)))
  else if bits w 0 9 = 0x5 then
    some (.vmin (BitVec.ofNat 5 (bits w 21 5)) (BitVec.ofNat 5 (bits w 16 5)) (BitVec.ofNat 5 (bits w 11 5)) (BitVec.ofNat 2 (bits w 9 2)))
  else if bits w 0 9 = 0x6 then
    some (.vmax (BitVec.ofNat 5 (bits w 21 5)) (BitVec.ofNat 5 (bits w 16 5)) (BitVec.ofNat 5 (bits w 11 5)) (BitVec.ofNat 2 (bits w 9 2)))
  else if bits w 0 6 = 0x7 then
    some (.vadds (BitVec.ofNat 5 (bits w 21 5)) (BitVec.ofNat 5 (bits w 16 5)) (BitVec.ofNat 5 (bits w 11 5)) (BitVec.ofNat 2 (bits w 9 2)) (BitVec.ofNat 3 (bits w 6 3)))
  else if bits w 0 6 = 0x8 then
    some (.vsubs (BitVec.ofNat 5 (bits w 21 5)) (BitVec.ofNat 5 (bits w 16 5)) (BitVec.ofNat 5 (bits w 11 5)) (BitVec.ofNat 2 (bits w 9 2)) (BitVec.ofNat 3 (bits w 6 3)))
  else if bits w 0 9 = 0x9 then
    some (.vand (BitVec.ofNat 5 (bits w 21 5)) (BitVec.ofNat 5 (bits w 16 5)) (BitVec.ofNat 5 (bits w 11 5)) (BitVec.ofNat 2 (bits w 9 2)))
  else if bits w 0 9 = 0xA then
    some (.vor (BitVec.ofNat 5 (bits w 21 5)) (BitVec.ofNat 5 (bits w 16 5)) (BitVec.ofNat 5 (bits w 11 5)) (BitVec.ofNat 2 (bits w 9 2)))
  else if bits w 0 9 = 0xB then
    some (.vxor (BitVec.ofNat 5 (bits w 21 5)) (BitVec.ofNat 5 (bits w 16 5)) (BitVec.ofNat 5 (bits w 11 5)) (BitVec.ofNat 2 (bits w 9 2)))
  else if bits w 0 9 = 0xC then
    some (.vsll (BitVec.ofNat 5 (bits w 21 5)) (BitVec.ofNat 5 (bits w 16 5)) (BitVec.ofNat 5 (bits w 11 5)) (BitVec.ofNat 2 (bits w 9 2)))
  else if bits w 0 9 = 0xD then
    some (.vsrl (BitVec.ofNat 5 (bits w 21 5)) (BitVec.ofNat 5 (bits w 16 5)) (BitVec.ofNat 5 (bits w 11 5)) (BitVec.ofNat 2 (bits w 9 2)))
  else if bits w 0 9 = 0xE then
    some (.vsra (BitVec.ofNat 5 (bits w 21 5)) (BitVec.ofNat 5 (bits w 16 5)) (BitVec.ofNat 5 (bits w 11 5)) (BitVec.ofNat 2 (bits w 9 2)))
  else if bits w 0 16 = 0xF then
    some (.vmovVv (BitVec.ofNat 5 (bits w 21 5)) (BitVec.ofNat 5 (bits w 16 5)))
  else if bits w 0 11 = 0x20F then
    some (.vmovVs (BitVec.ofNat 5 (bits w 21 5)) (BitVec.ofNat 5 (bits w 16 5)) (BitVec.ofNat 5 (bits w 11 5)))
  else if bits w 0 11 = 0x40F then
    some (.vmovVi (BitVec.ofNat 5 (bits w 21 5)) (BitVec.ofNat 5 (bits w 16 5)) (BitVec.ofNat 5 (bits w 11 5)))
  else none

/-- The rows of major 0x18 (R65). -/
def rows18 (w : Nat) : Option Instr :=
  if bits w 0 6 = 0x0 then
    some (.vfadd (BitVec.ofNat 5 (bits w 21 5)) (BitVec.ofNat 5 (bits w 16 5)) (BitVec.ofNat 5 (bits w 11 5)) (BitVec.ofNat 2 (bits w 9 2)) (BitVec.ofNat 3 (bits w 6 3)))
  else if bits w 0 6 = 0x1 then
    some (.vfsub (BitVec.ofNat 5 (bits w 21 5)) (BitVec.ofNat 5 (bits w 16 5)) (BitVec.ofNat 5 (bits w 11 5)) (BitVec.ofNat 2 (bits w 9 2)) (BitVec.ofNat 3 (bits w 6 3)))
  else if bits w 0 6 = 0x2 then
    some (.vfmul (BitVec.ofNat 5 (bits w 21 5)) (BitVec.ofNat 5 (bits w 16 5)) (BitVec.ofNat 5 (bits w 11 5)) (BitVec.ofNat 2 (bits w 9 2)) (BitVec.ofNat 3 (bits w 6 3)))
  else if bits w 0 6 = 0x3 then
    some (.vfdiv (BitVec.ofNat 5 (bits w 21 5)) (BitVec.ofNat 5 (bits w 16 5)) (BitVec.ofNat 5 (bits w 11 5)) (BitVec.ofNat 2 (bits w 9 2)) (BitVec.ofNat 3 (bits w 6 3)))
  else if bits w 9 7 = 0x0 ∧ bits w 0 6 = 0x4 then
    some (.vfsqrt (BitVec.ofNat 5 (bits w 21 5)) (BitVec.ofNat 5 (bits w 16 5)) (BitVec.ofNat 3 (bits w 6 3)))
  else if bits w 0 9 = 0x5 then
    some (.vfmin (BitVec.ofNat 5 (bits w 21 5)) (BitVec.ofNat 5 (bits w 16 5)) (BitVec.ofNat 5 (bits w 11 5)) (BitVec.ofNat 2 (bits w 9 2)))
  else if bits w 0 9 = 0x6 then
    some (.vfmax (BitVec.ofNat 5 (bits w 21 5)) (BitVec.ofNat 5 (bits w 16 5)) (BitVec.ofNat 5 (bits w 11 5)) (BitVec.ofNat 2 (bits w 9 2)))
  else if bits w 0 16 = 0x7 then
    some (.vfneg (BitVec.ofNat 5 (bits w 21 5)) (BitVec.ofNat 5 (bits w 16 5)))
  else if bits w 0 16 = 0x8 then
    some (.vfabs (BitVec.ofNat 5 (bits w 21 5)) (BitVec.ofNat 5 (bits w 16 5)))
  else if bits w 0 9 = 0x9 then
    some (.vfcpys (BitVec.ofNat 5 (bits w 21 5)) (BitVec.ofNat 5 (bits w 16 5)) (BitVec.ofNat 5 (bits w 11 5)) (BitVec.ofNat 2 (bits w 9 2)))
  else if bits w 0 16 = 0xA then
    some (.vfkind (BitVec.ofNat 5 (bits w 21 5)) (BitVec.ofNat 5 (bits w 16 5)))
  else none

/-- The rows of major 0x19 (R65). -/
def rows19 (w : Nat) : Option Instr :=
  if bits w 0 4 = 0x0 then
    some (.vmadd (BitVec.ofNat 5 (bits w 21 5)) (BitVec.ofNat 5 (bits w 16 5)) (BitVec.ofNat 5 (bits w 11 5)) (BitVec.ofNat 5 (bits w 6 5)) (BitVec.ofNat 2 (bits w 4 2)))
  else if bits w 0 4 = 0x1 then
    some (.vmsub (BitVec.ofNat 5 (bits w 21 5)) (BitVec.ofNat 5 (bits w 16 5)) (BitVec.ofNat 5 (bits w 11 5)) (BitVec.ofNat 5 (bits w 6 5)) (BitVec.ofNat 2 (bits w 4 2)))
  else if bits w 0 4 = 0x2 then
    some (.vnmadd (BitVec.ofNat 5 (bits w 21 5)) (BitVec.ofNat 5 (bits w 16 5)) (BitVec.ofNat 5 (bits w 11 5)) (BitVec.ofNat 5 (bits w 6 5)) (BitVec.ofNat 2 (bits w 4 2)))
  else none

/-- The rows of major 0x1A (R65). -/
def rows1A (w : Nat) : Option Instr :=
  if bits w 24 2 = 0x0 ∧ bits w 0 9 = 0x0 then
    some (.vcmpeq (BitVec.ofNat 3 (bits w 21 3)) (BitVec.ofNat 5 (bits w 16 5)) (BitVec.ofNat 5 (bits w 11 5)) (BitVec.ofNat 2 (bits w 9 2)))
  else if bits w 24 2 = 0x0 ∧ bits w 0 9 = 0x1 then
    some (.vcmpne (BitVec.ofNat 3 (bits w 21 3)) (BitVec.ofNat 5 (bits w 16 5)) (BitVec.ofNat 5 (bits w 11 5)) (BitVec.ofNat 2 (bits w 9 2)))
  else if bits w 24 2 = 0x0 ∧ bits w 0 9 = 0x2 then
    some (.vcmplt (BitVec.ofNat 3 (bits w 21 3)) (BitVec.ofNat 5 (bits w 16 5)) (BitVec.ofNat 5 (bits w 11 5)) (BitVec.ofNat 2 (bits w 9 2)))
  else if bits w 24 2 = 0x0 ∧ bits w 0 9 = 0x3 then
    some (.vcmple (BitVec.ofNat 3 (bits w 21 3)) (BitVec.ofNat 5 (bits w 16 5)) (BitVec.ofNat 5 (bits w 11 5)) (BitVec.ofNat 2 (bits w 9 2)))
  else if bits w 24 2 = 0x0 ∧ bits w 0 9 = 0x4 then
    some (.vcmpgt (BitVec.ofNat 3 (bits w 21 3)) (BitVec.ofNat 5 (bits w 16 5)) (BitVec.ofNat 5 (bits w 11 5)) (BitVec.ofNat 2 (bits w 9 2)))
  else if bits w 24 2 = 0x0 ∧ bits w 0 9 = 0x5 then
    some (.vcmpge (BitVec.ofNat 3 (bits w 21 3)) (BitVec.ofNat 5 (bits w 16 5)) (BitVec.ofNat 5 (bits w 11 5)) (BitVec.ofNat 2 (bits w 9 2)))
  else if bits w 24 2 = 0x0 ∧ bits w 0 9 = 0x6 then
    some (.vcmpun (BitVec.ofNat 3 (bits w 21 3)) (BitVec.ofNat 5 (bits w 16 5)) (BitVec.ofNat 5 (bits w 11 5)) (BitVec.ofNat 2 (bits w 9 2)))
  else none

/-- The rows of major 0x1B (R65). -/
def rows1B (w : Nat) : Option Instr :=
  if bits w 9 7 = 0x0 ∧ bits w 5 1 = 0x0 then
    some (.vcvt (BitVec.ofNat 5 (bits w 21 5)) (BitVec.ofNat 5 (bits w 16 5)) (BitVec.ofNat 3 (bits w 6 3)) (BitVec.ofNat 5 (bits w 0 5)))
  else if bits w 9 7 = 0x0 ∧ bits w 2 4 = 0xC then
    some (.vquant (BitVec.ofNat 5 (bits w 21 5)) (BitVec.ofNat 5 (bits w 16 5)) (BitVec.ofNat 3 (bits w 6 3)) (BitVec.ofNat 2 (bits w 0 2)))
  else if bits w 9 7 = 0x0 ∧ bits w 5 1 = 0x1 then
    some (.vcvts (BitVec.ofNat 5 (bits w 21 5)) (BitVec.ofNat 5 (bits w 16 5)) (BitVec.ofNat 3 (bits w 6 3)) (BitVec.ofNat 5 (bits w 0 5)))
  else none

/-- The rows of major 0x1C (R65). -/
def rows1C (w : Nat) : Option Instr :=
  if bits w 0 16 = 0x0 then
    some (.vrcp (BitVec.ofNat 5 (bits w 21 5)) (BitVec.ofNat 5 (bits w 16 5)))
  else if bits w 0 16 = 0x1 then
    some (.vrsqrt (BitVec.ofNat 5 (bits w 21 5)) (BitVec.ofNat 5 (bits w 16 5)))
  else if bits w 0 16 = 0x2 then
    some (.vexp2 (BitVec.ofNat 5 (bits w 21 5)) (BitVec.ofNat 5 (bits w 16 5)))
  else none

/-- The rows of major 0x1D (R65). -/
def rows1D (w : Nat) : Option Instr :=
  if bits w 2 3 = 0x7 then
    some (.vidx (BitVec.ofNat 5 (bits w 21 5)) (BitVec.ofNat 8 (bits w 13 8)) (BitVec.ofNat 8 (bits w 5 8)) (BitVec.ofNat 2 (bits w 0 2)))
  else if bits w 0 9 = 0x0 then
    some (.vgather (BitVec.ofNat 5 (bits w 21 5)) (BitVec.ofNat 5 (bits w 16 5)) (BitVec.ofNat 5 (bits w 11 5)) (BitVec.ofNat 2 (bits w 9 2)))
  else if bits w 0 9 = 0x1 then
    some (.vslideup (BitVec.ofNat 5 (bits w 21 5)) (BitVec.ofNat 5 (bits w 16 5)) (BitVec.ofNat 5 (bits w 11 5)) (BitVec.ofNat 2 (bits w 9 2)))
  else if bits w 0 9 = 0x2 then
    some (.vslidedn (BitVec.ofNat 5 (bits w 21 5)) (BitVec.ofNat 5 (bits w 16 5)) (BitVec.ofNat 5 (bits w 11 5)) (BitVec.ofNat 2 (bits w 9 2)))
  else if bits w 0 11 = 0x203 then
    some (.vslide1up (BitVec.ofNat 5 (bits w 21 5)) (BitVec.ofNat 5 (bits w 16 5)) (BitVec.ofNat 5 (bits w 11 5)))
  else if bits w 0 11 = 0x204 then
    some (.vslide1dn (BitVec.ofNat 5 (bits w 21 5)) (BitVec.ofNat 5 (bits w 16 5)) (BitVec.ofNat 5 (bits w 11 5)))
  else if bits w 14 2 = 0x0 ∧ bits w 0 11 = 0x5 then
    some (.vcompress (BitVec.ofNat 5 (bits w 21 5)) (BitVec.ofNat 5 (bits w 16 5)) (BitVec.ofNat 3 (bits w 11 3)))
  else if bits w 14 2 = 0x0 ∧ bits w 0 11 = 0x6 then
    some (.vexpand (BitVec.ofNat 5 (bits w 21 5)) (BitVec.ofNat 5 (bits w 16 5)) (BitVec.ofNat 3 (bits w 11 3)))
  else none

/-- The rows of major 0x1E (R65). -/
def rows1E (w : Nat) : Option Instr :=
  if bits w 9 2 = 0x1 ∧ bits w 0 6 = 0x0 then
    some (.vredsum (BitVec.ofNat 5 (bits w 21 5)) (BitVec.ofNat 5 (bits w 16 5)) (BitVec.ofNat 5 (bits w 11 5)) (BitVec.ofNat 3 (bits w 6 3)))
  else if bits w 0 11 = 0x201 then
    some (.vredmax (BitVec.ofNat 5 (bits w 21 5)) (BitVec.ofNat 5 (bits w 16 5)) (BitVec.ofNat 5 (bits w 11 5)))
  else if bits w 0 11 = 0x202 then
    some (.vredmin (BitVec.ofNat 5 (bits w 21 5)) (BitVec.ofNat 5 (bits w 16 5)) (BitVec.ofNat 5 (bits w 11 5)))
  else if bits w 0 11 = 0x203 then
    some (.vredand (BitVec.ofNat 5 (bits w 21 5)) (BitVec.ofNat 5 (bits w 16 5)) (BitVec.ofNat 5 (bits w 11 5)))
  else if bits w 0 11 = 0x204 then
    some (.vredor (BitVec.ofNat 5 (bits w 21 5)) (BitVec.ofNat 5 (bits w 16 5)) (BitVec.ofNat 5 (bits w 11 5)))
  else if bits w 9 2 = 0x1 ∧ bits w 0 6 = 0x8 then
    some (.vscansum (BitVec.ofNat 5 (bits w 21 5)) (BitVec.ofNat 5 (bits w 16 5)) (BitVec.ofNat 5 (bits w 11 5)) (BitVec.ofNat 3 (bits w 6 3)))
  else if bits w 0 11 = 0x209 then
    some (.vscanmax (BitVec.ofNat 5 (bits w 21 5)) (BitVec.ofNat 5 (bits w 16 5)) (BitVec.ofNat 5 (bits w 11 5)))
  else if bits w 0 11 = 0x20A then
    some (.vscanmin (BitVec.ofNat 5 (bits w 21 5)) (BitVec.ofNat 5 (bits w 16 5)) (BitVec.ofNat 5 (bits w 11 5)))
  else if bits w 9 2 = 0x1 ∧ bits w 0 6 = 0xC then
    some (.vxscansum (BitVec.ofNat 5 (bits w 21 5)) (BitVec.ofNat 5 (bits w 16 5)) (BitVec.ofNat 5 (bits w 11 5)) (BitVec.ofNat 3 (bits w 6 3)))
  else if bits w 0 11 = 0x20D then
    some (.vxscanmax (BitVec.ofNat 5 (bits w 21 5)) (BitVec.ofNat 5 (bits w 16 5)) (BitVec.ofNat 5 (bits w 11 5)))
  else if bits w 0 11 = 0x20E then
    some (.vxscanmin (BitVec.ofNat 5 (bits w 21 5)) (BitVec.ofNat 5 (bits w 16 5)) (BitVec.ofNat 5 (bits w 11 5)))
  else if bits w 0 16 = 0x10 then
    some (.vconf (BitVec.ofNat 5 (bits w 21 5)) (BitVec.ofNat 5 (bits w 16 5)))
  else if bits w 19 2 = 0x0 ∧ bits w 0 16 = 0x18 then
    some (.mpopc (BitVec.ofNat 5 (bits w 21 5)) (BitVec.ofNat 3 (bits w 16 3)))
  else if bits w 19 2 = 0x0 ∧ bits w 0 16 = 0x19 then
    some (.mfirst (BitVec.ofNat 5 (bits w 21 5)) (BitVec.ofNat 3 (bits w 16 3)))
  else none

/-- The rows of major 0x1F (R65). -/
def rows1F (w : Nat) : Option Instr :=
  if bits w 24 2 = 0x0 ∧ bits w 19 2 = 0x0 ∧ bits w 14 2 = 0x0 ∧ bits w 4 7 = 0x0 then
    some (.mlog (BitVec.ofNat 3 (bits w 21 3)) (BitVec.ofNat 3 (bits w 16 3)) (BitVec.ofNat 3 (bits w 11 3)) (BitVec.ofNat 4 (bits w 0 4)))
  else if bits w 24 2 = 0x0 ∧ bits w 19 2 = 0x0 ∧ bits w 0 16 = 0x10 then
    some (.msbf (BitVec.ofNat 3 (bits w 21 3)) (BitVec.ofNat 3 (bits w 16 3)))
  else if bits w 24 2 = 0x0 ∧ bits w 19 2 = 0x0 ∧ bits w 0 16 = 0x20 then
    some (.msif (BitVec.ofNat 3 (bits w 21 3)) (BitVec.ofNat 3 (bits w 16 3)))
  else if bits w 24 2 = 0x0 ∧ bits w 19 2 = 0x0 ∧ bits w 0 16 = 0x30 then
    some (.msof (BitVec.ofNat 3 (bits w 21 3)) (BitVec.ofNat 3 (bits w 16 3)))
  else none

/-- The rows of major 0x20 (R65). -/
def rows20 (w : Nat) : Option Instr :=
  if bits w 0 16 = 0x0 then
    some (.tshape (BitVec.ofNat 5 (bits w 21 5)) (BitVec.ofNat 5 (bits w 16 5)))
  else if bits w 0 26 = 0x1 then
    some .trel
  else if bits w 0 26 = 0x2 then
    some .tzero0
  else if bits w 0 26 = 0x200002 then
    some .tzero1
  else if bits w 0 26 = 0x400002 then
    some .tzero2
  else if bits w 0 26 = 0x600002 then
    some .tzero3
  else if bits w 21 5 = 0x0 ∧ bits w 9 2 = 0x0 ∧ bits w 0 4 = 0x3 then
    some (.tldb (BitVec.ofNat 5 (bits w 16 5)) (BitVec.ofNat 5 (bits w 11 5)) (BitVec.ofNat 1 (bits w 8 1)) (BitVec.ofNat 1 (bits w 7 1)) (BitVec.ofNat 3 (bits w 4 3)))
  else if bits w 23 3 = 0x0 ∧ bits w 8 3 = 0x0 ∧ bits w 0 4 = 0x4 then
    some (.tmma (BitVec.ofNat 2 (bits w 21 2)) (BitVec.ofNat 5 (bits w 16 5)) (BitVec.ofNat 5 (bits w 11 5)) (BitVec.ofNat 1 (bits w 7 1)) (BitVec.ofNat 3 (bits w 4 3)))
  else if bits w 23 3 = 0x0 ∧ bits w 0 4 = 0x5 then
    some (.tdrain (BitVec.ofNat 2 (bits w 21 2)) (BitVec.ofNat 5 (bits w 16 5)) (BitVec.ofNat 5 (bits w 11 5)) (BitVec.ofNat 1 (bits w 10 1)) (BitVec.ofNat 3 (bits w 7 3)) (BitVec.ofNat 3 (bits w 4 3)))
  else if bits w 23 3 = 0x0 ∧ bits w 0 10 = 0x6 then
    some (.taccld (BitVec.ofNat 2 (bits w 21 2)) (BitVec.ofNat 5 (bits w 16 5)) (BitVec.ofNat 5 (bits w 11 5)) (BitVec.ofNat 1 (bits w 10 1)))
  else if bits w 18 3 = 0x0 ∧ bits w 0 11 = 0x7 then
    some (.trdacc (BitVec.ofNat 5 (bits w 21 5)) (BitVec.ofNat 2 (bits w 16 2)) (BitVec.ofNat 5 (bits w 11 5)))
  else none

/-- The rows of major 0x22 (R65). -/
def rows22 (w : Nat) : Option Instr :=
  if bits w 8 8 = 0x78 then
    some (.ldGrp (BitVec.ofNat 5 (bits w 21 5)) (BitVec.ofNat 5 (bits w 16 5)) (BitVec.ofNat 3 (bits w 5 3)) (BitVec.ofNat 5 (bits w 0 5)))
  else some (.ld (BitVec.ofNat 5 (bits w 21 5)) (BitVec.ofNat 5 (bits w 16 5)) (BitVec.ofNat 3 (bits w 13 3)) (BitVec.ofNat 2 (bits w 11 2)) (BitVec.ofNat 11 (bits w 0 11)))

/-- The rows of major 0x23 (R65). -/
def rows23 (w : Nat) : Option Instr :=
  if bits w 15 1 = 0x0 then
    some (.st (BitVec.ofNat 5 (bits w 21 5)) (BitVec.ofNat 5 (bits w 16 5)) (BitVec.ofNat 2 (bits w 13 2)) (BitVec.ofNat 2 (bits w 11 2)) (BitVec.ofNat 11 (bits w 0 11)))
  else none

/-- The rows of major 0x24 (R65). -/
def rows24 (w : Nat) : Option Instr :=
  if bits w 11 5 = 0x0 ∧ bits w 0 4 = 0x0 then
    some (.ldSem (BitVec.ofNat 5 (bits w 21 5)) (BitVec.ofNat 5 (bits w 16 5)) (BitVec.ofNat 3 (bits w 8 3)) (BitVec.ofNat 2 (bits w 6 2)) (BitVec.ofNat 1 (bits w 5 1)) (BitVec.ofNat 1 (bits w 4 1)))
  else if bits w 11 5 = 0x0 ∧ bits w 0 4 = 0x1 then
    some (.ldFe (BitVec.ofNat 5 (bits w 21 5)) (BitVec.ofNat 5 (bits w 16 5)) (BitVec.ofNat 3 (bits w 8 3)) (BitVec.ofNat 2 (bits w 6 2)) (BitVec.ofNat 1 (bits w 5 1)) (BitVec.ofNat 1 (bits w 4 1)))
  else if bits w 11 5 = 0x0 ∧ bits w 0 4 = 0x2 then
    some (.ldFc (BitVec.ofNat 5 (bits w 21 5)) (BitVec.ofNat 5 (bits w 16 5)) (BitVec.ofNat 3 (bits w 8 3)) (BitVec.ofNat 2 (bits w 6 2)) (BitVec.ofNat 1 (bits w 5 1)) (BitVec.ofNat 1 (bits w 4 1)))
  else if bits w 11 5 = 0x0 ∧ bits w 0 4 = 0x8 then
    some (.stSem (BitVec.ofNat 5 (bits w 21 5)) (BitVec.ofNat 5 (bits w 16 5)) (BitVec.ofNat 3 (bits w 8 3)) (BitVec.ofNat 2 (bits w 6 2)) (BitVec.ofNat 1 (bits w 5 1)) (BitVec.ofNat 1 (bits w 4 1)))
  else if bits w 11 5 = 0x0 ∧ bits w 0 4 = 0x9 then
    some (.stFe (BitVec.ofNat 5 (bits w 21 5)) (BitVec.ofNat 5 (bits w 16 5)) (BitVec.ofNat 3 (bits w 8 3)) (BitVec.ofNat 2 (bits w 6 2)) (BitVec.ofNat 1 (bits w 5 1)) (BitVec.ofNat 1 (bits w 4 1)))
  else none

/-- The rows of major 0x25 (R65). -/
def rows25 (w : Nat) : Option Instr :=
  if bits w 0 4 = 0x0 then
    some (.atadd (BitVec.ofNat 5 (bits w 21 5)) (BitVec.ofNat 5 (bits w 16 5)) (BitVec.ofNat 5 (bits w 11 5)) (BitVec.ofNat 3 (bits w 8 3)) (BitVec.ofNat 2 (bits w 6 2)) (BitVec.ofNat 1 (bits w 5 1)) (BitVec.ofNat 1 (bits w 4 1)))
  else if bits w 0 4 = 0x1 then
    some (.atand (BitVec.ofNat 5 (bits w 21 5)) (BitVec.ofNat 5 (bits w 16 5)) (BitVec.ofNat 5 (bits w 11 5)) (BitVec.ofNat 3 (bits w 8 3)) (BitVec.ofNat 2 (bits w 6 2)) (BitVec.ofNat 1 (bits w 5 1)) (BitVec.ofNat 1 (bits w 4 1)))
  else if bits w 0 4 = 0x2 then
    some (.ator (BitVec.ofNat 5 (bits w 21 5)) (BitVec.ofNat 5 (bits w 16 5)) (BitVec.ofNat 5 (bits w 11 5)) (BitVec.ofNat 3 (bits w 8 3)) (BitVec.ofNat 2 (bits w 6 2)) (BitVec.ofNat 1 (bits w 5 1)) (BitVec.ofNat 1 (bits w 4 1)))
  else if bits w 0 4 = 0x3 then
    some (.atxor (BitVec.ofNat 5 (bits w 21 5)) (BitVec.ofNat 5 (bits w 16 5)) (BitVec.ofNat 5 (bits w 11 5)) (BitVec.ofNat 3 (bits w 8 3)) (BitVec.ofNat 2 (bits w 6 2)) (BitVec.ofNat 1 (bits w 5 1)) (BitVec.ofNat 1 (bits w 4 1)))
  else if bits w 0 4 = 0x4 then
    some (.atmin (BitVec.ofNat 5 (bits w 21 5)) (BitVec.ofNat 5 (bits w 16 5)) (BitVec.ofNat 5 (bits w 11 5)) (BitVec.ofNat 3 (bits w 8 3)) (BitVec.ofNat 2 (bits w 6 2)) (BitVec.ofNat 1 (bits w 5 1)) (BitVec.ofNat 1 (bits w 4 1)))
  else if bits w 0 4 = 0x5 then
    some (.atmax (BitVec.ofNat 5 (bits w 21 5)) (BitVec.ofNat 5 (bits w 16 5)) (BitVec.ofNat 5 (bits w 11 5)) (BitVec.ofNat 3 (bits w 8 3)) (BitVec.ofNat 2 (bits w 6 2)) (BitVec.ofNat 1 (bits w 5 1)) (BitVec.ofNat 1 (bits w 4 1)))
  else if bits w 0 4 = 0x6 then
    some (.atminn (BitVec.ofNat 5 (bits w 21 5)) (BitVec.ofNat 5 (bits w 16 5)) (BitVec.ofNat 5 (bits w 11 5)) (BitVec.ofNat 3 (bits w 8 3)) (BitVec.ofNat 2 (bits w 6 2)) (BitVec.ofNat 1 (bits w 5 1)) (BitVec.ofNat 1 (bits w 4 1)))
  else if bits w 0 4 = 0x7 then
    some (.atmaxn (BitVec.ofNat 5 (bits w 21 5)) (BitVec.ofNat 5 (bits w 16 5)) (BitVec.ofNat 5 (bits w 11 5)) (BitVec.ofNat 3 (bits w 8 3)) (BitVec.ofNat 2 (bits w 6 2)) (BitVec.ofNat 1 (bits w 5 1)) (BitVec.ofNat 1 (bits w 4 1)))
  else if bits w 0 4 = 0x8 then
    some (.atxch (BitVec.ofNat 5 (bits w 21 5)) (BitVec.ofNat 5 (bits w 16 5)) (BitVec.ofNat 5 (bits w 11 5)) (BitVec.ofNat 3 (bits w 8 3)) (BitVec.ofNat 2 (bits w 6 2)) (BitVec.ofNat 1 (bits w 5 1)) (BitVec.ofNat 1 (bits w 4 1)))
  else if bits w 0 4 = 0x9 then
    some (.atcmpx (BitVec.ofNat 5 (bits w 21 5)) (BitVec.ofNat 5 (bits w 16 5)) (BitVec.ofNat 5 (bits w 11 5)) (BitVec.ofNat 3 (bits w 8 3)) (BitVec.ofNat 2 (bits w 6 2)) (BitVec.ofNat 1 (bits w 5 1)) (BitVec.ofNat 1 (bits w 4 1)))
  else none

/-- The rows of major 0x26 (R65). -/
def rows26 (w : Nat) : Option Instr :=
  if bits w 0 3 = 0x0 then
    some (.vld8 (BitVec.ofNat 5 (bits w 21 5)) (BitVec.ofNat 5 (bits w 16 5)) (BitVec.ofNat 5 (bits w 11 5)) (BitVec.ofNat 2 (bits w 9 2)) (BitVec.ofNat 1 (bits w 8 1)) (BitVec.ofNat 2 (bits w 6 2)) (BitVec.ofNat 3 (bits w 3 3)))
  else if bits w 0 3 = 0x1 then
    some (.vld16 (BitVec.ofNat 5 (bits w 21 5)) (BitVec.ofNat 5 (bits w 16 5)) (BitVec.ofNat 5 (bits w 11 5)) (BitVec.ofNat 2 (bits w 9 2)) (BitVec.ofNat 1 (bits w 8 1)) (BitVec.ofNat 2 (bits w 6 2)) (BitVec.ofNat 3 (bits w 3 3)))
  else if bits w 0 3 = 0x2 then
    some (.vld32 (BitVec.ofNat 5 (bits w 21 5)) (BitVec.ofNat 5 (bits w 16 5)) (BitVec.ofNat 5 (bits w 11 5)) (BitVec.ofNat 2 (bits w 9 2)) (BitVec.ofNat 1 (bits w 8 1)) (BitVec.ofNat 2 (bits w 6 2)) (BitVec.ofNat 3 (bits w 3 3)))
  else if bits w 0 3 = 0x3 then
    some (.vld64 (BitVec.ofNat 5 (bits w 21 5)) (BitVec.ofNat 5 (bits w 16 5)) (BitVec.ofNat 5 (bits w 11 5)) (BitVec.ofNat 2 (bits w 9 2)) (BitVec.ofNat 1 (bits w 8 1)) (BitVec.ofNat 2 (bits w 6 2)) (BitVec.ofNat 3 (bits w 3 3)))
  else if bits w 14 2 = 0x0 ∧ bits w 9 2 = 0x0 ∧ bits w 0 3 = 0x4 then
    some (.vld4 (BitVec.ofNat 5 (bits w 21 5)) (BitVec.ofNat 5 (bits w 16 5)) (BitVec.ofNat 3 (bits w 11 3)) (BitVec.ofNat 1 (bits w 8 1)) (BitVec.ofNat 2 (bits w 6 2)) (BitVec.ofNat 3 (bits w 3 3)))
  else if bits w 14 2 = 0x0 ∧ bits w 9 2 = 0x0 ∧ bits w 0 3 = 0x5 then
    some (.vldmx4 (BitVec.ofNat 5 (bits w 21 5)) (BitVec.ofNat 5 (bits w 16 5)) (BitVec.ofNat 3 (bits w 11 3)) (BitVec.ofNat 1 (bits w 8 1)) (BitVec.ofNat 2 (bits w 6 2)) (BitVec.ofNat 3 (bits w 3 3)))
  else if bits w 14 2 = 0x0 ∧ bits w 9 2 = 0x0 ∧ bits w 0 3 = 0x6 then
    some (.vldmx8 (BitVec.ofNat 5 (bits w 21 5)) (BitVec.ofNat 5 (bits w 16 5)) (BitVec.ofNat 3 (bits w 11 3)) (BitVec.ofNat 1 (bits w 8 1)) (BitVec.ofNat 2 (bits w 6 2)) (BitVec.ofNat 3 (bits w 3 3)))
  else if bits w 14 2 = 0x0 ∧ bits w 9 2 = 0x0 ∧ bits w 0 3 = 0x7 then
    some (.vldmxi8 (BitVec.ofNat 5 (bits w 21 5)) (BitVec.ofNat 5 (bits w 16 5)) (BitVec.ofNat 3 (bits w 11 3)) (BitVec.ofNat 1 (bits w 8 1)) (BitVec.ofNat 2 (bits w 6 2)) (BitVec.ofNat 3 (bits w 3 3)))
  else none

/-- The rows of major 0x27 (R65). -/
def rows27 (w : Nat) : Option Instr :=
  if bits w 0 3 = 0x0 then
    some (.vst8 (BitVec.ofNat 5 (bits w 21 5)) (BitVec.ofNat 5 (bits w 16 5)) (BitVec.ofNat 5 (bits w 11 5)) (BitVec.ofNat 2 (bits w 9 2)) (BitVec.ofNat 1 (bits w 8 1)) (BitVec.ofNat 2 (bits w 6 2)) (BitVec.ofNat 3 (bits w 3 3)))
  else if bits w 0 3 = 0x1 then
    some (.vst16 (BitVec.ofNat 5 (bits w 21 5)) (BitVec.ofNat 5 (bits w 16 5)) (BitVec.ofNat 5 (bits w 11 5)) (BitVec.ofNat 2 (bits w 9 2)) (BitVec.ofNat 1 (bits w 8 1)) (BitVec.ofNat 2 (bits w 6 2)) (BitVec.ofNat 3 (bits w 3 3)))
  else if bits w 0 3 = 0x2 then
    some (.vst32 (BitVec.ofNat 5 (bits w 21 5)) (BitVec.ofNat 5 (bits w 16 5)) (BitVec.ofNat 5 (bits w 11 5)) (BitVec.ofNat 2 (bits w 9 2)) (BitVec.ofNat 1 (bits w 8 1)) (BitVec.ofNat 2 (bits w 6 2)) (BitVec.ofNat 3 (bits w 3 3)))
  else if bits w 0 3 = 0x3 then
    some (.vst64 (BitVec.ofNat 5 (bits w 21 5)) (BitVec.ofNat 5 (bits w 16 5)) (BitVec.ofNat 5 (bits w 11 5)) (BitVec.ofNat 2 (bits w 9 2)) (BitVec.ofNat 1 (bits w 8 1)) (BitVec.ofNat 2 (bits w 6 2)) (BitVec.ofNat 3 (bits w 3 3)))
  else if bits w 9 7 = 0x0 ∧ bits w 0 3 = 0x4 then
    some (.vst4 (BitVec.ofNat 5 (bits w 21 5)) (BitVec.ofNat 5 (bits w 16 5)) (BitVec.ofNat 1 (bits w 8 1)) (BitVec.ofNat 2 (bits w 6 2)) (BitVec.ofNat 3 (bits w 3 3)))
  else if bits w 9 7 = 0x0 ∧ bits w 0 3 = 0x5 then
    some (.vstmx4 (BitVec.ofNat 5 (bits w 21 5)) (BitVec.ofNat 5 (bits w 16 5)) (BitVec.ofNat 1 (bits w 8 1)) (BitVec.ofNat 2 (bits w 6 2)) (BitVec.ofNat 3 (bits w 3 3)))
  else if bits w 9 7 = 0x0 ∧ bits w 0 3 = 0x6 then
    some (.vstmx8 (BitVec.ofNat 5 (bits w 21 5)) (BitVec.ofNat 5 (bits w 16 5)) (BitVec.ofNat 1 (bits w 8 1)) (BitVec.ofNat 2 (bits w 6 2)) (BitVec.ofNat 3 (bits w 3 3)))
  else if bits w 9 7 = 0x0 ∧ bits w 0 3 = 0x7 then
    some (.vstmxi8 (BitVec.ofNat 5 (bits w 21 5)) (BitVec.ofNat 5 (bits w 16 5)) (BitVec.ofNat 1 (bits w 8 1)) (BitVec.ofNat 2 (bits w 6 2)) (BitVec.ofNat 3 (bits w 3 3)))
  else none

/-- The rows of major 0x28 (R65). -/
def rows28 (w : Nat) : Option Instr :=
  if bits w 0 3 = 0x0 then
    some (.vatadd (BitVec.ofNat 5 (bits w 21 5)) (BitVec.ofNat 5 (bits w 16 5)) (BitVec.ofNat 5 (bits w 11 5)) (BitVec.ofNat 2 (bits w 9 2)) (BitVec.ofNat 1 (bits w 8 1)) (BitVec.ofNat 2 (bits w 6 2)) (BitVec.ofNat 3 (bits w 3 3)))
  else if bits w 0 3 = 0x1 then
    some (.vatand (BitVec.ofNat 5 (bits w 21 5)) (BitVec.ofNat 5 (bits w 16 5)) (BitVec.ofNat 5 (bits w 11 5)) (BitVec.ofNat 2 (bits w 9 2)) (BitVec.ofNat 1 (bits w 8 1)) (BitVec.ofNat 2 (bits w 6 2)) (BitVec.ofNat 3 (bits w 3 3)))
  else if bits w 0 3 = 0x2 then
    some (.vator (BitVec.ofNat 5 (bits w 21 5)) (BitVec.ofNat 5 (bits w 16 5)) (BitVec.ofNat 5 (bits w 11 5)) (BitVec.ofNat 2 (bits w 9 2)) (BitVec.ofNat 1 (bits w 8 1)) (BitVec.ofNat 2 (bits w 6 2)) (BitVec.ofNat 3 (bits w 3 3)))
  else if bits w 0 3 = 0x3 then
    some (.vatxor (BitVec.ofNat 5 (bits w 21 5)) (BitVec.ofNat 5 (bits w 16 5)) (BitVec.ofNat 5 (bits w 11 5)) (BitVec.ofNat 2 (bits w 9 2)) (BitVec.ofNat 1 (bits w 8 1)) (BitVec.ofNat 2 (bits w 6 2)) (BitVec.ofNat 3 (bits w 3 3)))
  else if bits w 0 3 = 0x4 then
    some (.vatmin (BitVec.ofNat 5 (bits w 21 5)) (BitVec.ofNat 5 (bits w 16 5)) (BitVec.ofNat 5 (bits w 11 5)) (BitVec.ofNat 2 (bits w 9 2)) (BitVec.ofNat 1 (bits w 8 1)) (BitVec.ofNat 2 (bits w 6 2)) (BitVec.ofNat 3 (bits w 3 3)))
  else if bits w 0 3 = 0x5 then
    some (.vatmax (BitVec.ofNat 5 (bits w 21 5)) (BitVec.ofNat 5 (bits w 16 5)) (BitVec.ofNat 5 (bits w 11 5)) (BitVec.ofNat 2 (bits w 9 2)) (BitVec.ofNat 1 (bits w 8 1)) (BitVec.ofNat 2 (bits w 6 2)) (BitVec.ofNat 3 (bits w 3 3)))
  else if bits w 0 3 = 0x6 then
    some (.vatxch (BitVec.ofNat 5 (bits w 21 5)) (BitVec.ofNat 5 (bits w 16 5)) (BitVec.ofNat 5 (bits w 11 5)) (BitVec.ofNat 2 (bits w 9 2)) (BitVec.ofNat 1 (bits w 8 1)) (BitVec.ofNat 2 (bits w 6 2)) (BitVec.ofNat 3 (bits w 3 3)))
  else none

/-- The rows of major 0x29 (R65). -/
def rows29 (w : Nat) : Option Instr :=
  if bits w 11 15 = 0x0 ∧ bits w 0 6 = 0x0 then
    some (.fence (BitVec.ofNat 3 (bits w 8 3)) (BitVec.ofNat 2 (bits w 6 2)))
  else if bits w 7 1 = 0x0 ∧ bits w 0 4 = 0x1 then
    some (.waita (BitVec.ofNat 5 (bits w 21 5)) (BitVec.ofNat 5 (bits w 16 5)) (BitVec.ofNat 5 (bits w 11 5)) (BitVec.ofNat 3 (bits w 8 3)) (BitVec.ofNat 1 (bits w 6 1)) (BitVec.ofNat 1 (bits w 5 1)) (BitVec.ofNat 1 (bits w 4 1)))
  else if bits w 21 5 = 0x0 ∧ bits w 5 6 = 0x0 ∧ bits w 0 4 = 0x2 then
    some (.rwb (BitVec.ofNat 5 (bits w 16 5)) (BitVec.ofNat 5 (bits w 11 5)) (BitVec.ofNat 1 (bits w 4 1)))
  else if bits w 21 5 = 0x0 ∧ bits w 5 6 = 0x0 ∧ bits w 0 4 = 0x3 then
    some (.rinv (BitVec.ofNat 5 (bits w 16 5)) (BitVec.ofNat 5 (bits w 11 5)) (BitVec.ofNat 1 (bits w 4 1)))
  else if bits w 0 11 = 0x4 then
    some (.stmap (BitVec.ofNat 5 (bits w 21 5)) (BitVec.ofNat 5 (bits w 16 5)) (BitVec.ofNat 5 (bits w 11 5)))
  else if bits w 16 5 = 0x0 ∧ bits w 0 11 = 0x5 then
    some (.stunmap (BitVec.ofNat 5 (bits w 21 5)) (BitVec.ofNat 5 (bits w 11 5)))
  else none

/-- The rows of major 0x2A (R65). -/
def rows2A (w : Nat) : Option Instr :=
  if bits w 21 5 = 0x0 ∧ bits w 7 9 = 0x0 ∧ bits w 0 3 = 0x0 then
    some (.strm (BitVec.ofNat 5 (bits w 16 5)) (BitVec.ofNat 3 (bits w 4 3)) (BitVec.ofNat 1 (bits w 3 1)))
  else if bits w 0 3 = 0x1 then
    some (.strmv (BitVec.ofNat 5 (bits w 21 5)) (BitVec.ofNat 5 (bits w 16 5)) (BitVec.ofNat 5 (bits w 11 5)) (BitVec.ofNat 1 (bits w 10 1)) (BitVec.ofNat 3 (bits w 7 3)) (BitVec.ofNat 3 (bits w 4 3)) (BitVec.ofNat 1 (bits w 3 1)))
  else if bits w 16 10 = 0x0 ∧ bits w 7 4 = 0x0 ∧ bits w 0 4 = 0x2 then
    some (.strmw (BitVec.ofNat 5 (bits w 11 5)) (BitVec.ofNat 3 (bits w 4 3)))
  else if bits w 0 26 = 0x3 then
    some .uiret
  else none

/-- The rows of major 0x2B (R65). -/
def rows2B (w : Nat) : Option Instr :=
  if bits w 1 3 = 0x0 then
    some (.send (BitVec.ofNat 5 (bits w 21 5)) (BitVec.ofNat 5 (bits w 16 5)) (BitVec.ofNat 5 (bits w 11 5)) (BitVec.ofNat 7 (bits w 4 7)) (BitVec.ofNat 1 (bits w 0 1)))
  else if bits w 1 3 = 0x1 then
    some (.recv (BitVec.ofNat 5 (bits w 21 5)) (BitVec.ofNat 5 (bits w 16 5)) (BitVec.ofNat 5 (bits w 11 5)) (BitVec.ofNat 7 (bits w 4 7)) (BitVec.ofNat 1 (bits w 0 1)))
  else if bits w 1 3 = 0x2 then
    some (.recvt (BitVec.ofNat 5 (bits w 21 5)) (BitVec.ofNat 5 (bits w 16 5)) (BitVec.ofNat 5 (bits w 11 5)) (BitVec.ofNat 7 (bits w 4 7)) (BitVec.ofNat 1 (bits w 0 1)))
  else if bits w 21 5 = 0x0 ∧ bits w 1 10 = 0x3 then
    some (.tokw (BitVec.ofNat 5 (bits w 16 5)) (BitVec.ofNat 5 (bits w 11 5)) (BitVec.ofNat 1 (bits w 0 1)))
  else none

/-- The rows of major 0x2C (R65). -/
def rows2C (w : Nat) : Option Instr :=
  if bits w 11 5 = 0x0 ∧ bits w 0 10 = 0x0 then
    some (.launch (BitVec.ofNat 5 (bits w 21 5)) (BitVec.ofNat 5 (bits w 16 5)) (BitVec.ofNat 1 (bits w 10 1)))
  else if bits w 0 26 = 0x1 then
    some .endT
  else if bits w 0 26 = 0x2 then
    some .bar0
  else if bits w 0 26 = 0x12 then
    some .bar1
  else if bits w 0 26 = 0x22 then
    some .bar2
  else if bits w 0 26 = 0x32 then
    some .bar3
  else if bits w 8 18 = 0x0 ∧ bits w 0 4 = 0x3 then
    some (.dleave (BitVec.ofNat 4 (bits w 4 4)))
  else if bits w 21 5 = 0x0 ∧ bits w 11 5 = 0x0 ∧ bits w 7 3 = 0x0 ∧ bits w 0 4 = 0x4 then
    some (.coll (BitVec.ofNat 5 (bits w 16 5)) (BitVec.ofNat 1 (bits w 10 1)) (BitVec.ofNat 3 (bits w 4 3)))
  else none

/-- The rows of major 0x2D (R65). -/
def rows2D (w : Nat) : Option Instr :=
  if bits w 0 26 = 0x0 then
    some .tret
  else if bits w 0 26 = 0x1 then
    some .vresume
  else if bits w 21 5 = 0x0 ∧ bits w 0 16 = 0x2 then
    some (.migrate (BitVec.ofNat 5 (bits w 16 5)))
  else if bits w 0 26 = 0x3 then
    some .brk
  else if bits w 21 5 = 0x0 ∧ bits w 0 16 = 0x4 then
    some (.sysc (BitVec.ofNat 5 (bits w 16 5)))
  else if bits w 0 11 = 0x5 then
    some (.ctxsave (BitVec.ofNat 5 (bits w 21 5)) (BitVec.ofNat 5 (bits w 16 5)) (BitVec.ofNat 5 (bits w 11 5)))
  else if bits w 0 11 = 0x6 then
    some (.ctxload (BitVec.ofNat 5 (bits w 21 5)) (BitVec.ofNat 5 (bits w 16 5)) (BitVec.ofNat 5 (bits w 11 5)))
  else none

/-- The rows of major 0x2E (R65). -/
def rows2E (w : Nat) : Option Instr :=
  if bits w 0 11 = 0x0 then
    some (.tblw (BitVec.ofNat 5 (bits w 21 5)) (BitVec.ofNat 5 (bits w 16 5)) (BitVec.ofNat 5 (bits w 11 5)))
  else if bits w 0 11 = 0x1 then
    some (.tblr (BitVec.ofNat 5 (bits w 21 5)) (BitVec.ofNat 5 (bits w 16 5)) (BitVec.ofNat 5 (bits w 11 5)))
  else if bits w 0 11 = 0x2 then
    some (.tinv (BitVec.ofNat 5 (bits w 21 5)) (BitVec.ofNat 5 (bits w 16 5)) (BitVec.ofNat 5 (bits w 11 5)))
  else none

/-- The rows of major 0x2F (R65). -/
def rows2F (w : Nat) : Option Instr :=
  if bits w 0 16 = 0x0 then
    some (.agrd (BitVec.ofNat 5 (bits w 21 5)) (BitVec.ofNat 5 (bits w 16 5)))
  else if bits w 0 11 = 0x1 then
    some (.agrdx (BitVec.ofNat 5 (bits w 21 5)) (BitVec.ofNat 5 (bits w 16 5)) (BitVec.ofNat 5 (bits w 11 5)))
  else if bits w 0 11 = 0x2 then
    some (.mgnreq (BitVec.ofNat 5 (bits w 21 5)) (BitVec.ofNat 5 (bits w 16 5)) (BitVec.ofNat 5 (bits w 11 5)))
  else if bits w 0 11 = 0x10 then
    some (.ctrdx (BitVec.ofNat 5 (bits w 21 5)) (BitVec.ofNat 5 (bits w 16 5)) (BitVec.ofNat 5 (bits w 11 5)))
  else if bits w 16 5 = 0x0 ∧ bits w 0 11 = 0x11 then
    some (.ctzero (BitVec.ofNat 5 (bits w 21 5)) (BitVec.ofNat 5 (bits w 11 5)))
  else none

/-- The rows of major 0x3C (R65). -/
def rows3C (w : Nat) : Option Instr :=
  if bits w 16 5 = 0x1 then
    some (.pfL2r (BitVec.ofNat 5 (bits w 21 5)) (BitVec.ofNat 16 (bits w 0 16)))
  else if bits w 16 5 = 0x2 then
    some (.pfL2w (BitVec.ofNat 5 (bits w 21 5)) (BitVec.ofNat 16 (bits w 0 16)))
  else if bits w 16 5 = 0x3 then
    some (.pfL1 (BitVec.ofNat 5 (bits w 21 5)) (BitVec.ofNat 16 (bits w 0 16)))
  else if bits w 20 6 = 0x1 ∧ bits w 0 16 = 0x0 then
    some (.pri (BitVec.ofNat 4 (bits w 16 4)))
  else some (.hint (BitVec.ofNat 1 (bits w 26 1)) (BitVec.ofNat 5 (bits w 21 5)) (BitVec.ofNat 5 (bits w 16 5)) (BitVec.ofNat 16 (bits w 0 16)))

/-- The rows of major 0x3D (R65). -/
def rows3D (w : Nat) : Option Instr :=
  some (.hint (BitVec.ofNat 1 (bits w 26 1)) (BitVec.ofNat 5 (bits w 21 5)) (BitVec.ofNat 5 (bits w 16 5)) (BitVec.ofNat 16 (bits w 0 16)))

/-- The row a word belongs to by its fixed bits, its operand codes not yet checked (R62). -/
def candidate (w : Nat) : Option Instr :=
  match bits w 26 6 with
  | 0x01 => rows01 w
  | 0x02 => rows02 w
  | 0x03 => rows03 w
  | 0x04 => rows04 w
  | 0x05 => rows05 w
  | 0x06 => rows06 w
  | 0x07 => rows07 w
  | 0x08 => rows08 w
  | 0x09 => rows09 w
  | 0x0A => rows0A w
  | 0x0B => rows0B w
  | 0x0C => rows0C w
  | 0x0D => rows0D w
  | 0x0E => rows0E w
  | 0x0F => rows0F w
  | 0x10 => rows10 w
  | 0x11 => rows11 w
  | 0x12 => rows12 w
  | 0x13 => rows13 w
  | 0x14 => rows14 w
  | 0x16 => rows16 w
  | 0x17 => rows17 w
  | 0x18 => rows18 w
  | 0x19 => rows19 w
  | 0x1A => rows1A w
  | 0x1B => rows1B w
  | 0x1C => rows1C w
  | 0x1D => rows1D w
  | 0x1E => rows1E w
  | 0x1F => rows1F w
  | 0x20 => rows20 w
  | 0x22 => rows22 w
  | 0x23 => rows23 w
  | 0x24 => rows24 w
  | 0x25 => rows25 w
  | 0x26 => rows26 w
  | 0x27 => rows27 w
  | 0x28 => rows28 w
  | 0x29 => rows29 w
  | 0x2A => rows2A w
  | 0x2B => rows2B w
  | 0x2C => rows2C w
  | 0x2D => rows2D w
  | 0x2E => rows2E w
  | 0x2F => rows2F w
  | 0x3C => rows3C w
  | 0x3D => rows3D w
  | _ => none

/-- The encoding of an instruction as a number below 2^32, field by field from the encoding tables.
An event has no word; its number is 0, and an unassigned word is its own encoding. -/
def encodeNat : Instr → Nat
  | .pfx d e k n i z => 0x04000000 + d.toNat * 0x200000 + e.toNat * 0x100000 + k.toNat * 0x80000 + n.toNat * 0x10000 + i.toNat * 0x8000 + z.toNat * 0x4000
  | .add d a b => 0x08000000 + d.toNat * 0x200000 + a.toNat * 0x10000 + b.toNat * 0x800
  | .sub d a b => 0x08000001 + d.toNat * 0x200000 + a.toNat * 0x10000 + b.toNat * 0x800
  | .and d a b => 0x08000002 + d.toNat * 0x200000 + a.toNat * 0x10000 + b.toNat * 0x800
  | .or d a b => 0x08000003 + d.toNat * 0x200000 + a.toNat * 0x10000 + b.toNat * 0x800
  | .xor d a b => 0x08000004 + d.toNat * 0x200000 + a.toNat * 0x10000 + b.toNat * 0x800
  | .andcm d a b => 0x08000005 + d.toNat * 0x200000 + a.toNat * 0x10000 + b.toNat * 0x800
  | .orcm d a b => 0x08000006 + d.toNat * 0x200000 + a.toNat * 0x10000 + b.toNat * 0x800
  | .eqv d a b => 0x08000007 + d.toNat * 0x200000 + a.toNat * 0x10000 + b.toNat * 0x800
  | .sll d a b => 0x08000008 + d.toNat * 0x200000 + a.toNat * 0x10000 + b.toNat * 0x800
  | .srl d a b => 0x08000009 + d.toNat * 0x200000 + a.toNat * 0x10000 + b.toNat * 0x800
  | .sra d a b => 0x0800000A + d.toNat * 0x200000 + a.toNat * 0x10000 + b.toNat * 0x800
  | .rol d a b => 0x0800000B + d.toNat * 0x200000 + a.toNat * 0x10000 + b.toNat * 0x800
  | .ror d a b => 0x0800000C + d.toNat * 0x200000 + a.toNat * 0x10000 + b.toNat * 0x800
  | .min d a b => 0x0800000D + d.toNat * 0x200000 + a.toNat * 0x10000 + b.toNat * 0x800
  | .max d a b => 0x0800000E + d.toNat * 0x200000 + a.toNat * 0x10000 + b.toNat * 0x800
  | .minn d a b => 0x0800000F + d.toNat * 0x200000 + a.toNat * 0x10000 + b.toNat * 0x800
  | .maxn d a b => 0x08000010 + d.toNat * 0x200000 + a.toNat * 0x10000 + b.toNat * 0x800
  | .ixadd1 d a b => 0x08000011 + d.toNat * 0x200000 + a.toNat * 0x10000 + b.toNat * 0x800
  | .ixadd2 d a b => 0x08000012 + d.toNat * 0x200000 + a.toNat * 0x10000 + b.toNat * 0x800
  | .ixadd3 d a b => 0x08000013 + d.toNat * 0x200000 + a.toNat * 0x10000 + b.toNat * 0x800
  | .clz d a => 0x08000014 + d.toNat * 0x200000 + a.toNat * 0x10000
  | .ctz d a => 0x08000015 + d.toNat * 0x200000 + a.toNat * 0x10000
  | .popc d a => 0x08000016 + d.toNat * 0x200000 + a.toNat * 0x10000
  | .byterev d a => 0x08000017 + d.toNat * 0x200000 + a.toNat * 0x10000
  | .addi d a i => 0x0C000000 + d.toNat * 0x200000 + a.toNat * 0x10000 + i.toNat
  | .andi d a i => 0x10000000 + d.toNat * 0x200000 + a.toNat * 0x10000 + i.toNat
  | .ori d a i => 0x14000000 + d.toNat * 0x200000 + a.toNat * 0x10000 + i.toNat
  | .xori d a i => 0x18000000 + d.toNat * 0x200000 + a.toNat * 0x10000 + i.toNat
  | .slli d a p => 0x1C000000 + d.toNat * 0x200000 + a.toNat * 0x10000 + p.toNat * 0x400
  | .srli d a p => 0x1C000001 + d.toNat * 0x200000 + a.toNat * 0x10000 + p.toNat * 0x400
  | .srai d a p => 0x1C000002 + d.toNat * 0x200000 + a.toNat * 0x10000 + p.toNat * 0x400
  | .rori d a p => 0x1C000003 + d.toNat * 0x200000 + a.toNat * 0x10000 + p.toNat * 0x400
  | .bext d a p l => 0x1C000004 + d.toNat * 0x200000 + a.toNat * 0x10000 + p.toNat * 0x400 + l.toNat * 0x10
  | .bexts d a p l => 0x1C000005 + d.toNat * 0x200000 + a.toNat * 0x10000 + p.toNat * 0x400 + l.toNat * 0x10
  | .bins d a p l => 0x1C000006 + d.toNat * 0x200000 + a.toNat * 0x10000 + p.toNat * 0x400 + l.toNat * 0x10
  | .bclrf d a p l => 0x1C000007 + d.toNat * 0x200000 + a.toNat * 0x10000 + p.toNat * 0x400 + l.toNat * 0x10
  | .bsetf d a p l => 0x1C000008 + d.toNat * 0x200000 + a.toNat * 0x10000 + p.toNat * 0x400 + l.toNat * 0x10
  | .mullo d a b => 0x20000000 + d.toNat * 0x200000 + a.toNat * 0x10000 + b.toNat * 0x800
  | .mulhnn d a b => 0x20000001 + d.toNat * 0x200000 + a.toNat * 0x10000 + b.toNat * 0x800
  | .mulhii d a b => 0x20000002 + d.toNat * 0x200000 + a.toNat * 0x10000 + b.toNat * 0x800
  | .mulhin d a b => 0x20000003 + d.toNat * 0x200000 + a.toNat * 0x10000 + b.toNat * 0x800
  | .quon d a b => 0x20000004 + d.toNat * 0x200000 + a.toNat * 0x10000 + b.toNat * 0x800
  | .quoi d a b => 0x20000005 + d.toNat * 0x200000 + a.toNat * 0x10000 + b.toNat * 0x800
  | .remn d a b => 0x20000006 + d.toNat * 0x200000 + a.toNat * 0x10000 + b.toNat * 0x800
  | .remi d a b => 0x20000007 + d.toNat * 0x200000 + a.toNat * 0x10000 + b.toNat * 0x800
  | .ldhi d i => 0x24000000 + d.toNat * 0x200000 + i.toNat
  | .addpc d i => 0x28000000 + d.toNat * 0x200000 + i.toNat
  | .cmpeq p c a b => 0x2C000000 + p.toNat * 0x800000 + c.toNat * 0x200000 + a.toNat * 0x10000 + b.toNat * 0x800
  | .cmpne p c a b => 0x2C000001 + p.toNat * 0x800000 + c.toNat * 0x200000 + a.toNat * 0x10000 + b.toNat * 0x800
  | .cmplt p c a b => 0x2C000002 + p.toNat * 0x800000 + c.toNat * 0x200000 + a.toNat * 0x10000 + b.toNat * 0x800
  | .cmpge p c a b => 0x2C000003 + p.toNat * 0x800000 + c.toNat * 0x200000 + a.toNat * 0x10000 + b.toNat * 0x800
  | .cmpltu p c a b => 0x2C000004 + p.toNat * 0x800000 + c.toNat * 0x200000 + a.toNat * 0x10000 + b.toNat * 0x800
  | .cmpgeu p c a b => 0x2C000005 + p.toNat * 0x800000 + c.toNat * 0x200000 + a.toNat * 0x10000 + b.toNat * 0x800
  | .fcmpeq p c a b f => 0x2C000010 + p.toNat * 0x800000 + c.toNat * 0x200000 + a.toNat * 0x10000 + b.toNat * 0x800 + f.toNat * 0x4
  | .fcmplt p c a b f => 0x2C000011 + p.toNat * 0x800000 + c.toNat * 0x200000 + a.toNat * 0x10000 + b.toNat * 0x800 + f.toNat * 0x4
  | .fcmple p c a b f => 0x2C000012 + p.toNat * 0x800000 + c.toNat * 0x200000 + a.toNat * 0x10000 + b.toNat * 0x800 + f.toNat * 0x4
  | .fcmpun p c a b f => 0x2C000013 + p.toNat * 0x800000 + c.toNat * 0x200000 + a.toNat * 0x10000 + b.toNat * 0x800 + f.toNat * 0x4
  | .cmpeqi p c a i => 0x30000000 + p.toNat * 0x800000 + c.toNat * 0x200000 + a.toNat * 0x10000 + i.toNat
  | .cmpnei p c a i => 0x30000800 + p.toNat * 0x800000 + c.toNat * 0x200000 + a.toNat * 0x10000 + i.toNat
  | .cmplti p c a i => 0x30001000 + p.toNat * 0x800000 + c.toNat * 0x200000 + a.toNat * 0x10000 + i.toNat
  | .cmpgei p c a i => 0x30001800 + p.toNat * 0x800000 + c.toNat * 0x200000 + a.toNat * 0x10000 + i.toNat
  | .cmpltui p c a i => 0x30002000 + p.toNat * 0x800000 + c.toNat * 0x200000 + a.toNat * 0x10000 + i.toNat
  | .cmpgeui p c a i => 0x30002800 + p.toNat * 0x800000 + c.toNat * 0x200000 + a.toNat * 0x10000 + i.toNat
  | .plog p c a b t => 0x34000000 + p.toNat * 0x800000 + c.toNat * 0x200000 + a.toNat * 0x10000 + b.toNat * 0x800 + t.toNat
  | .sel d a b c => 0x38000000 + d.toNat * 0x200000 + a.toNat * 0x10000 + b.toNat * 0x800 + c.toNat * 0x40
  | .fadd d a b r f => 0x3C000000 + d.toNat * 0x200000 + a.toNat * 0x10000 + b.toNat * 0x800 + r.toNat * 0x100 + f.toNat * 0x40
  | .fsub d a b r f => 0x3C000001 + d.toNat * 0x200000 + a.toNat * 0x10000 + b.toNat * 0x800 + r.toNat * 0x100 + f.toNat * 0x40
  | .fmul d a b r f => 0x3C000002 + d.toNat * 0x200000 + a.toNat * 0x10000 + b.toNat * 0x800 + r.toNat * 0x100 + f.toNat * 0x40
  | .fdiv d a b r f => 0x3C000003 + d.toNat * 0x200000 + a.toNat * 0x10000 + b.toNat * 0x800 + r.toNat * 0x100 + f.toNat * 0x40
  | .fsqrt d a r f => 0x3C000004 + d.toNat * 0x200000 + a.toNat * 0x10000 + r.toNat * 0x100 + f.toNat * 0x40
  | .fmin d a b f => 0x3C000005 + d.toNat * 0x200000 + a.toNat * 0x10000 + b.toNat * 0x800 + f.toNat * 0x40
  | .fmax d a b f => 0x3C000006 + d.toNat * 0x200000 + a.toNat * 0x10000 + b.toNat * 0x800 + f.toNat * 0x40
  | .fneg d a f => 0x3C000007 + d.toNat * 0x200000 + a.toNat * 0x10000 + f.toNat * 0x40
  | .fabs d a f => 0x3C000008 + d.toNat * 0x200000 + a.toNat * 0x10000 + f.toNat * 0x40
  | .fcpys d a b f => 0x3C000009 + d.toNat * 0x200000 + a.toNat * 0x10000 + b.toNat * 0x800 + f.toNat * 0x40
  | .fkind d a f => 0x3C00000A + d.toNat * 0x200000 + a.toNat * 0x10000 + f.toNat * 0x40
  | .fcvt d a g r f => 0x3C00000B + d.toNat * 0x200000 + a.toNat * 0x10000 + g.toNat * 0x800 + r.toNat * 0x100 + f.toNat * 0x40
  | .fcvti d a t r f => 0x3C00000C + d.toNat * 0x200000 + a.toNat * 0x10000 + t.toNat * 0x800 + r.toNat * 0x100 + f.toNat * 0x40
  | .fcvtf d a t r f => 0x3C00000D + d.toNat * 0x200000 + a.toNat * 0x10000 + t.toNat * 0x800 + r.toNat * 0x100 + f.toNat * 0x40
  | .fmadd d a b c f r => 0x40000000 + d.toNat * 0x200000 + a.toNat * 0x10000 + b.toNat * 0x800 + c.toNat * 0x40 + f.toNat * 0x8 + r.toNat
  | .fnmadd d a b c f r => 0x40000020 + d.toNat * 0x200000 + a.toNat * 0x10000 + b.toNat * 0x800 + c.toNat * 0x40 + f.toNat * 0x8 + r.toNat
  | .br p n o => 0x44000000 + p.toNat * 0x800000 + n.toNat * 0x400000 + o.toNat
  | .call d i => 0x48000000 + d.toNat * 0x200000 + i.toNat
  | .callr d a => 0x4C000000 + d.toNat * 0x200000 + a.toNat * 0x10000
  | .rdcsr d c => 0x50000000 + d.toNat * 0x200000 + c.toNat * 0x10
  | .wrcsr a c => 0x50000008 + a.toNat * 0x10000 + c.toNat * 0x10
  | .xchcsr d a c => 0x50000009 + d.toNat * 0x200000 + a.toNat * 0x10000 + c.toNat * 0x10
  | .setcsr a c => 0x5000000A + a.toNat * 0x10000 + c.toNat * 0x10
  | .clrcsr a c => 0x5000000B + a.toNat * 0x10000 + c.toNat * 0x10
  | .setvl d a t => 0x58000000 + d.toNat * 0x200000 + a.toNat * 0x10000 + t.toNat * 0x800
  | .vcfg v t => 0x58000001 + v.toNat * 0x200000 + t.toNat * 0x10000
  | .vkill a b => 0x58000002 + a.toNat * 0x10000 + b.toNat * 0x800
  | .vadd d a b k r => 0x5C000000 + d.toNat * 0x200000 + a.toNat * 0x10000 + b.toNat * 0x800 + k.toNat * 0x200 + r.toNat * 0x40
  | .vsub d a b k r => 0x5C000001 + d.toNat * 0x200000 + a.toNat * 0x10000 + b.toNat * 0x800 + k.toNat * 0x200 + r.toNat * 0x40
  | .vrsub d a b k r => 0x5C000002 + d.toNat * 0x200000 + a.toNat * 0x10000 + b.toNat * 0x800 + k.toNat * 0x200 + r.toNat * 0x40
  | .vmul d a b k r => 0x5C000003 + d.toNat * 0x200000 + a.toNat * 0x10000 + b.toNat * 0x800 + k.toNat * 0x200 + r.toNat * 0x40
  | .vmulh d a b k => 0x5C000004 + d.toNat * 0x200000 + a.toNat * 0x10000 + b.toNat * 0x800 + k.toNat * 0x200
  | .vmin d a b k => 0x5C000005 + d.toNat * 0x200000 + a.toNat * 0x10000 + b.toNat * 0x800 + k.toNat * 0x200
  | .vmax d a b k => 0x5C000006 + d.toNat * 0x200000 + a.toNat * 0x10000 + b.toNat * 0x800 + k.toNat * 0x200
  | .vadds d a b k r => 0x5C000007 + d.toNat * 0x200000 + a.toNat * 0x10000 + b.toNat * 0x800 + k.toNat * 0x200 + r.toNat * 0x40
  | .vsubs d a b k r => 0x5C000008 + d.toNat * 0x200000 + a.toNat * 0x10000 + b.toNat * 0x800 + k.toNat * 0x200 + r.toNat * 0x40
  | .vand d a b k => 0x5C000009 + d.toNat * 0x200000 + a.toNat * 0x10000 + b.toNat * 0x800 + k.toNat * 0x200
  | .vor d a b k => 0x5C00000A + d.toNat * 0x200000 + a.toNat * 0x10000 + b.toNat * 0x800 + k.toNat * 0x200
  | .vxor d a b k => 0x5C00000B + d.toNat * 0x200000 + a.toNat * 0x10000 + b.toNat * 0x800 + k.toNat * 0x200
  | .vsll d a b k => 0x5C00000C + d.toNat * 0x200000 + a.toNat * 0x10000 + b.toNat * 0x800 + k.toNat * 0x200
  | .vsrl d a b k => 0x5C00000D + d.toNat * 0x200000 + a.toNat * 0x10000 + b.toNat * 0x800 + k.toNat * 0x200
  | .vsra d a b k => 0x5C00000E + d.toNat * 0x200000 + a.toNat * 0x10000 + b.toNat * 0x800 + k.toNat * 0x200
  | .vmovVv d a => 0x5C00000F + d.toNat * 0x200000 + a.toNat * 0x10000
  | .vmovVs d t b => 0x5C00020F + d.toNat * 0x200000 + t.toNat * 0x10000 + b.toNat * 0x800
  | .vmovVi d t i => 0x5C00040F + d.toNat * 0x200000 + t.toNat * 0x10000 + i.toNat * 0x800
  | .vfadd d a b k r => 0x60000000 + d.toNat * 0x200000 + a.toNat * 0x10000 + b.toNat * 0x800 + k.toNat * 0x200 + r.toNat * 0x40
  | .vfsub d a b k r => 0x60000001 + d.toNat * 0x200000 + a.toNat * 0x10000 + b.toNat * 0x800 + k.toNat * 0x200 + r.toNat * 0x40
  | .vfmul d a b k r => 0x60000002 + d.toNat * 0x200000 + a.toNat * 0x10000 + b.toNat * 0x800 + k.toNat * 0x200 + r.toNat * 0x40
  | .vfdiv d a b k r => 0x60000003 + d.toNat * 0x200000 + a.toNat * 0x10000 + b.toNat * 0x800 + k.toNat * 0x200 + r.toNat * 0x40
  | .vfsqrt d a r => 0x60000004 + d.toNat * 0x200000 + a.toNat * 0x10000 + r.toNat * 0x40
  | .vfmin d a b k => 0x60000005 + d.toNat * 0x200000 + a.toNat * 0x10000 + b.toNat * 0x800 + k.toNat * 0x200
  | .vfmax d a b k => 0x60000006 + d.toNat * 0x200000 + a.toNat * 0x10000 + b.toNat * 0x800 + k.toNat * 0x200
  | .vfneg d a => 0x60000007 + d.toNat * 0x200000 + a.toNat * 0x10000
  | .vfabs d a => 0x60000008 + d.toNat * 0x200000 + a.toNat * 0x10000
  | .vfcpys d a b k => 0x60000009 + d.toNat * 0x200000 + a.toNat * 0x10000 + b.toNat * 0x800 + k.toNat * 0x200
  | .vfkind d a => 0x6000000A + d.toNat * 0x200000 + a.toNat * 0x10000
  | .vmadd d a b c k => 0x64000000 + d.toNat * 0x200000 + a.toNat * 0x10000 + b.toNat * 0x800 + c.toNat * 0x40 + k.toNat * 0x10
  | .vmsub d a b c k => 0x64000001 + d.toNat * 0x200000 + a.toNat * 0x10000 + b.toNat * 0x800 + c.toNat * 0x40 + k.toNat * 0x10
  | .vnmadd d a b c k => 0x64000002 + d.toNat * 0x200000 + a.toNat * 0x10000 + b.toNat * 0x800 + c.toNat * 0x40 + k.toNat * 0x10
  | .vcmpeq m a b k => 0x68000000 + m.toNat * 0x200000 + a.toNat * 0x10000 + b.toNat * 0x800 + k.toNat * 0x200
  | .vcmpne m a b k => 0x68000001 + m.toNat * 0x200000 + a.toNat * 0x10000 + b.toNat * 0x800 + k.toNat * 0x200
  | .vcmplt m a b k => 0x68000002 + m.toNat * 0x200000 + a.toNat * 0x10000 + b.toNat * 0x800 + k.toNat * 0x200
  | .vcmple m a b k => 0x68000003 + m.toNat * 0x200000 + a.toNat * 0x10000 + b.toNat * 0x800 + k.toNat * 0x200
  | .vcmpgt m a b k => 0x68000004 + m.toNat * 0x200000 + a.toNat * 0x10000 + b.toNat * 0x800 + k.toNat * 0x200
  | .vcmpge m a b k => 0x68000005 + m.toNat * 0x200000 + a.toNat * 0x10000 + b.toNat * 0x800 + k.toNat * 0x200
  | .vcmpun m a b k => 0x68000006 + m.toNat * 0x200000 + a.toNat * 0x10000 + b.toNat * 0x800 + k.toNat * 0x200
  | .vcvt d a r t => 0x6C000000 + d.toNat * 0x200000 + a.toNat * 0x10000 + r.toNat * 0x40 + t.toNat
  | .vcvts d a r t => 0x6C000020 + d.toNat * 0x200000 + a.toNat * 0x10000 + r.toNat * 0x40 + t.toNat
  | .vquant d a r t => 0x6C000030 + d.toNat * 0x200000 + a.toNat * 0x10000 + r.toNat * 0x40 + t.toNat
  | .vrcp d a => 0x70000000 + d.toNat * 0x200000 + a.toNat * 0x10000
  | .vrsqrt d a => 0x70000001 + d.toNat * 0x200000 + a.toNat * 0x10000
  | .vexp2 d a => 0x70000002 + d.toNat * 0x200000 + a.toNat * 0x10000
  | .vidx d s t g => 0x7400001C + d.toNat * 0x200000 + s.toNat * 0x2000 + t.toNat * 0x20 + g.toNat
  | .vgather d a b k => 0x74000000 + d.toNat * 0x200000 + a.toNat * 0x10000 + b.toNat * 0x800 + k.toNat * 0x200
  | .vslideup d a b k => 0x74000001 + d.toNat * 0x200000 + a.toNat * 0x10000 + b.toNat * 0x800 + k.toNat * 0x200
  | .vslidedn d a b k => 0x74000002 + d.toNat * 0x200000 + a.toNat * 0x10000 + b.toNat * 0x800 + k.toNat * 0x200
  | .vslide1up d a b => 0x74000203 + d.toNat * 0x200000 + a.toNat * 0x10000 + b.toNat * 0x800
  | .vslide1dn d a b => 0x74000204 + d.toNat * 0x200000 + a.toNat * 0x10000 + b.toNat * 0x800
  | .vcompress d a m => 0x74000005 + d.toNat * 0x200000 + a.toNat * 0x10000 + m.toNat * 0x800
  | .vexpand d a m => 0x74000006 + d.toNat * 0x200000 + a.toNat * 0x10000 + m.toNat * 0x800
  | .vredsum d a b r => 0x78000200 + d.toNat * 0x200000 + a.toNat * 0x10000 + b.toNat * 0x800 + r.toNat * 0x40
  | .vredmax d a b => 0x78000201 + d.toNat * 0x200000 + a.toNat * 0x10000 + b.toNat * 0x800
  | .vredmin d a b => 0x78000202 + d.toNat * 0x200000 + a.toNat * 0x10000 + b.toNat * 0x800
  | .vredand d a b => 0x78000203 + d.toNat * 0x200000 + a.toNat * 0x10000 + b.toNat * 0x800
  | .vredor d a b => 0x78000204 + d.toNat * 0x200000 + a.toNat * 0x10000 + b.toNat * 0x800
  | .vscansum d a b r => 0x78000208 + d.toNat * 0x200000 + a.toNat * 0x10000 + b.toNat * 0x800 + r.toNat * 0x40
  | .vscanmax d a b => 0x78000209 + d.toNat * 0x200000 + a.toNat * 0x10000 + b.toNat * 0x800
  | .vscanmin d a b => 0x7800020A + d.toNat * 0x200000 + a.toNat * 0x10000 + b.toNat * 0x800
  | .vxscansum d a b r => 0x7800020C + d.toNat * 0x200000 + a.toNat * 0x10000 + b.toNat * 0x800 + r.toNat * 0x40
  | .vxscanmax d a b => 0x7800020D + d.toNat * 0x200000 + a.toNat * 0x10000 + b.toNat * 0x800
  | .vxscanmin d a b => 0x7800020E + d.toNat * 0x200000 + a.toNat * 0x10000 + b.toNat * 0x800
  | .vconf d a => 0x78000010 + d.toNat * 0x200000 + a.toNat * 0x10000
  | .mpopc d m => 0x78000018 + d.toNat * 0x200000 + m.toNat * 0x10000
  | .mfirst d m => 0x78000019 + d.toNat * 0x200000 + m.toNat * 0x10000
  | .mlog d a b t => 0x7C000000 + d.toNat * 0x200000 + a.toNat * 0x10000 + b.toNat * 0x800 + t.toNat
  | .msbf d a => 0x7C000010 + d.toNat * 0x200000 + a.toNat * 0x10000
  | .msif d a => 0x7C000020 + d.toNat * 0x200000 + a.toNat * 0x10000
  | .msof d a => 0x7C000030 + d.toNat * 0x200000 + a.toNat * 0x10000
  | .tshape d a => 0x80000000 + d.toNat * 0x200000 + a.toNat * 0x10000
  | .tldb a b s o f => 0x80000003 + a.toNat * 0x10000 + b.toNat * 0x800 + s.toNat * 0x100 + o.toNat * 0x80 + f.toNat * 0x10
  | .tmma j a b o f => 0x80000004 + j.toNat * 0x200000 + a.toNat * 0x10000 + b.toNat * 0x800 + o.toNat * 0x80 + f.toNat * 0x10
  | .tdrain j a b s r t => 0x80000005 + j.toNat * 0x200000 + a.toNat * 0x10000 + b.toNat * 0x800 + s.toNat * 0x400 + r.toNat * 0x80 + t.toNat * 0x10
  | .taccld j a b s => 0x80000006 + j.toNat * 0x200000 + a.toNat * 0x10000 + b.toNat * 0x800 + s.toNat * 0x400
  | .trdacc d j b => 0x80000007 + d.toNat * 0x200000 + j.toNat * 0x10000 + b.toNat * 0x800
  | .ld d a z p o => 0x88000000 + d.toNat * 0x200000 + a.toNat * 0x10000 + z.toNat * 0x2000 + p.toNat * 0x800 + o.toNat
  | .ldGrp d a o t => 0x88007800 + d.toNat * 0x200000 + a.toNat * 0x10000 + o.toNat * 0x20 + t.toNat
  | .st d a z p o => 0x8C000000 + d.toNat * 0x200000 + a.toNat * 0x10000 + z.toNat * 0x2000 + p.toNat * 0x800 + o.toNat
  | .ldSem d a c e w p => 0x90000000 + d.toNat * 0x200000 + a.toNat * 0x10000 + c.toNat * 0x100 + e.toNat * 0x40 + w.toNat * 0x20 + p.toNat * 0x10
  | .ldFe d a c e w p => 0x90000001 + d.toNat * 0x200000 + a.toNat * 0x10000 + c.toNat * 0x100 + e.toNat * 0x40 + w.toNat * 0x20 + p.toNat * 0x10
  | .ldFc d a c e w p => 0x90000002 + d.toNat * 0x200000 + a.toNat * 0x10000 + c.toNat * 0x100 + e.toNat * 0x40 + w.toNat * 0x20 + p.toNat * 0x10
  | .stSem d a c e w p => 0x90000008 + d.toNat * 0x200000 + a.toNat * 0x10000 + c.toNat * 0x100 + e.toNat * 0x40 + w.toNat * 0x20 + p.toNat * 0x10
  | .stFe d a c e w p => 0x90000009 + d.toNat * 0x200000 + a.toNat * 0x10000 + c.toNat * 0x100 + e.toNat * 0x40 + w.toNat * 0x20 + p.toNat * 0x10
  | .atadd d a b c e w p => 0x94000000 + d.toNat * 0x200000 + a.toNat * 0x10000 + b.toNat * 0x800 + c.toNat * 0x100 + e.toNat * 0x40 + w.toNat * 0x20 + p.toNat * 0x10
  | .atand d a b c e w p => 0x94000001 + d.toNat * 0x200000 + a.toNat * 0x10000 + b.toNat * 0x800 + c.toNat * 0x100 + e.toNat * 0x40 + w.toNat * 0x20 + p.toNat * 0x10
  | .ator d a b c e w p => 0x94000002 + d.toNat * 0x200000 + a.toNat * 0x10000 + b.toNat * 0x800 + c.toNat * 0x100 + e.toNat * 0x40 + w.toNat * 0x20 + p.toNat * 0x10
  | .atxor d a b c e w p => 0x94000003 + d.toNat * 0x200000 + a.toNat * 0x10000 + b.toNat * 0x800 + c.toNat * 0x100 + e.toNat * 0x40 + w.toNat * 0x20 + p.toNat * 0x10
  | .atmin d a b c e w p => 0x94000004 + d.toNat * 0x200000 + a.toNat * 0x10000 + b.toNat * 0x800 + c.toNat * 0x100 + e.toNat * 0x40 + w.toNat * 0x20 + p.toNat * 0x10
  | .atmax d a b c e w p => 0x94000005 + d.toNat * 0x200000 + a.toNat * 0x10000 + b.toNat * 0x800 + c.toNat * 0x100 + e.toNat * 0x40 + w.toNat * 0x20 + p.toNat * 0x10
  | .atminn d a b c e w p => 0x94000006 + d.toNat * 0x200000 + a.toNat * 0x10000 + b.toNat * 0x800 + c.toNat * 0x100 + e.toNat * 0x40 + w.toNat * 0x20 + p.toNat * 0x10
  | .atmaxn d a b c e w p => 0x94000007 + d.toNat * 0x200000 + a.toNat * 0x10000 + b.toNat * 0x800 + c.toNat * 0x100 + e.toNat * 0x40 + w.toNat * 0x20 + p.toNat * 0x10
  | .atxch d a b c e w p => 0x94000008 + d.toNat * 0x200000 + a.toNat * 0x10000 + b.toNat * 0x800 + c.toNat * 0x100 + e.toNat * 0x40 + w.toNat * 0x20 + p.toNat * 0x10
  | .atcmpx d a b c e w p => 0x94000009 + d.toNat * 0x200000 + a.toNat * 0x10000 + b.toNat * 0x800 + c.toNat * 0x100 + e.toNat * 0x40 + w.toNat * 0x20 + p.toNat * 0x10
  | .vld8 d a b m o e c => 0x98000000 + d.toNat * 0x200000 + a.toNat * 0x10000 + b.toNat * 0x800 + m.toNat * 0x200 + o.toNat * 0x100 + e.toNat * 0x40 + c.toNat * 0x8
  | .vld16 d a b m o e c => 0x98000001 + d.toNat * 0x200000 + a.toNat * 0x10000 + b.toNat * 0x800 + m.toNat * 0x200 + o.toNat * 0x100 + e.toNat * 0x40 + c.toNat * 0x8
  | .vld32 d a b m o e c => 0x98000002 + d.toNat * 0x200000 + a.toNat * 0x10000 + b.toNat * 0x800 + m.toNat * 0x200 + o.toNat * 0x100 + e.toNat * 0x40 + c.toNat * 0x8
  | .vld64 d a b m o e c => 0x98000003 + d.toNat * 0x200000 + a.toNat * 0x10000 + b.toNat * 0x800 + m.toNat * 0x200 + o.toNat * 0x100 + e.toNat * 0x40 + c.toNat * 0x8
  | .vld4 d a b o e c => 0x98000004 + d.toNat * 0x200000 + a.toNat * 0x10000 + b.toNat * 0x800 + o.toNat * 0x100 + e.toNat * 0x40 + c.toNat * 0x8
  | .vldmx4 d a b o e c => 0x98000005 + d.toNat * 0x200000 + a.toNat * 0x10000 + b.toNat * 0x800 + o.toNat * 0x100 + e.toNat * 0x40 + c.toNat * 0x8
  | .vldmx8 d a b o e c => 0x98000006 + d.toNat * 0x200000 + a.toNat * 0x10000 + b.toNat * 0x800 + o.toNat * 0x100 + e.toNat * 0x40 + c.toNat * 0x8
  | .vldmxi8 d a b o e c => 0x98000007 + d.toNat * 0x200000 + a.toNat * 0x10000 + b.toNat * 0x800 + o.toNat * 0x100 + e.toNat * 0x40 + c.toNat * 0x8
  | .vst8 d a b m o e c => 0x9C000000 + d.toNat * 0x200000 + a.toNat * 0x10000 + b.toNat * 0x800 + m.toNat * 0x200 + o.toNat * 0x100 + e.toNat * 0x40 + c.toNat * 0x8
  | .vst16 d a b m o e c => 0x9C000001 + d.toNat * 0x200000 + a.toNat * 0x10000 + b.toNat * 0x800 + m.toNat * 0x200 + o.toNat * 0x100 + e.toNat * 0x40 + c.toNat * 0x8
  | .vst32 d a b m o e c => 0x9C000002 + d.toNat * 0x200000 + a.toNat * 0x10000 + b.toNat * 0x800 + m.toNat * 0x200 + o.toNat * 0x100 + e.toNat * 0x40 + c.toNat * 0x8
  | .vst64 d a b m o e c => 0x9C000003 + d.toNat * 0x200000 + a.toNat * 0x10000 + b.toNat * 0x800 + m.toNat * 0x200 + o.toNat * 0x100 + e.toNat * 0x40 + c.toNat * 0x8
  | .vst4 d a o e c => 0x9C000004 + d.toNat * 0x200000 + a.toNat * 0x10000 + o.toNat * 0x100 + e.toNat * 0x40 + c.toNat * 0x8
  | .vstmx4 d a o e c => 0x9C000005 + d.toNat * 0x200000 + a.toNat * 0x10000 + o.toNat * 0x100 + e.toNat * 0x40 + c.toNat * 0x8
  | .vstmx8 d a o e c => 0x9C000006 + d.toNat * 0x200000 + a.toNat * 0x10000 + o.toNat * 0x100 + e.toNat * 0x40 + c.toNat * 0x8
  | .vstmxi8 d a o e c => 0x9C000007 + d.toNat * 0x200000 + a.toNat * 0x10000 + o.toNat * 0x100 + e.toNat * 0x40 + c.toNat * 0x8
  | .vatadd d a b m o e c => 0xA0000000 + d.toNat * 0x200000 + a.toNat * 0x10000 + b.toNat * 0x800 + m.toNat * 0x200 + o.toNat * 0x100 + e.toNat * 0x40 + c.toNat * 0x8
  | .vatand d a b m o e c => 0xA0000001 + d.toNat * 0x200000 + a.toNat * 0x10000 + b.toNat * 0x800 + m.toNat * 0x200 + o.toNat * 0x100 + e.toNat * 0x40 + c.toNat * 0x8
  | .vator d a b m o e c => 0xA0000002 + d.toNat * 0x200000 + a.toNat * 0x10000 + b.toNat * 0x800 + m.toNat * 0x200 + o.toNat * 0x100 + e.toNat * 0x40 + c.toNat * 0x8
  | .vatxor d a b m o e c => 0xA0000003 + d.toNat * 0x200000 + a.toNat * 0x10000 + b.toNat * 0x800 + m.toNat * 0x200 + o.toNat * 0x100 + e.toNat * 0x40 + c.toNat * 0x8
  | .vatmin d a b m o e c => 0xA0000004 + d.toNat * 0x200000 + a.toNat * 0x10000 + b.toNat * 0x800 + m.toNat * 0x200 + o.toNat * 0x100 + e.toNat * 0x40 + c.toNat * 0x8
  | .vatmax d a b m o e c => 0xA0000005 + d.toNat * 0x200000 + a.toNat * 0x10000 + b.toNat * 0x800 + m.toNat * 0x200 + o.toNat * 0x100 + e.toNat * 0x40 + c.toNat * 0x8
  | .vatxch d a b m o e c => 0xA0000006 + d.toNat * 0x200000 + a.toNat * 0x10000 + b.toNat * 0x800 + m.toNat * 0x200 + o.toNat * 0x100 + e.toNat * 0x40 + c.toNat * 0x8
  | .fence c e => 0xA4000000 + c.toNat * 0x100 + e.toNat * 0x40
  | .waita d a b c e w p => 0xA4000001 + d.toNat * 0x200000 + a.toNat * 0x10000 + b.toNat * 0x800 + c.toNat * 0x100 + e.toNat * 0x40 + w.toNat * 0x20 + p.toNat * 0x10
  | .rwb a b p => 0xA4000002 + a.toNat * 0x10000 + b.toNat * 0x800 + p.toNat * 0x10
  | .rinv a b p => 0xA4000003 + a.toNat * 0x10000 + b.toNat * 0x800 + p.toNat * 0x10
  | .stmap d a b => 0xA4000004 + d.toNat * 0x200000 + a.toNat * 0x10000 + b.toNat * 0x800
  | .stunmap d b => 0xA4000005 + d.toNat * 0x200000 + b.toNat * 0x800
  | .strm a j s => 0xA8000000 + a.toNat * 0x10000 + j.toNat * 0x10 + s.toNat * 0x8
  | .strmv d a b p n j s => 0xA8000001 + d.toNat * 0x200000 + a.toNat * 0x10000 + b.toNat * 0x800 + p.toNat * 0x400 + n.toNat * 0x80 + j.toNat * 0x10 + s.toNat * 0x8
  | .strmw b j => 0xA8000002 + b.toNat * 0x800 + j.toNat * 0x10
  | .send d a h l s => 0xAC000000 + d.toNat * 0x200000 + a.toNat * 0x10000 + h.toNat * 0x800 + l.toNat * 0x10 + s.toNat
  | .recv d a h l s => 0xAC000002 + d.toNat * 0x200000 + a.toNat * 0x10000 + h.toNat * 0x800 + l.toNat * 0x10 + s.toNat
  | .recvt d a h l s => 0xAC000004 + d.toNat * 0x200000 + a.toNat * 0x10000 + h.toNat * 0x800 + l.toNat * 0x10 + s.toNat
  | .tokw a b s => 0xAC000006 + a.toNat * 0x10000 + b.toNat * 0x800 + s.toNat
  | .launch d a s => 0xB0000000 + d.toNat * 0x200000 + a.toNat * 0x10000 + s.toNat * 0x400
  | .dleave m => 0xB0000003 + m.toNat * 0x10
  | .coll a s j => 0xB0000004 + a.toNat * 0x10000 + s.toNat * 0x400 + j.toNat * 0x10
  | .migrate a => 0xB4000002 + a.toNat * 0x10000
  | .sysc a => 0xB4000004 + a.toNat * 0x10000
  | .ctxsave d a b => 0xB4000005 + d.toNat * 0x200000 + a.toNat * 0x10000 + b.toNat * 0x800
  | .ctxload d a b => 0xB4000006 + d.toNat * 0x200000 + a.toNat * 0x10000 + b.toNat * 0x800
  | .tblw d a b => 0xB8000000 + d.toNat * 0x200000 + a.toNat * 0x10000 + b.toNat * 0x800
  | .tblr d a b => 0xB8000001 + d.toNat * 0x200000 + a.toNat * 0x10000 + b.toNat * 0x800
  | .tinv d a b => 0xB8000002 + d.toNat * 0x200000 + a.toNat * 0x10000 + b.toNat * 0x800
  | .agrd d a => 0xBC000000 + d.toNat * 0x200000 + a.toNat * 0x10000
  | .agrdx d a b => 0xBC000001 + d.toNat * 0x200000 + a.toNat * 0x10000 + b.toNat * 0x800
  | .mgnreq d a b => 0xBC000002 + d.toNat * 0x200000 + a.toNat * 0x10000 + b.toNat * 0x800
  | .ctrdx d a b => 0xBC000010 + d.toNat * 0x200000 + a.toNat * 0x10000 + b.toNat * 0x800
  | .ctzero d b => 0xBC000011 + d.toNat * 0x200000 + b.toNat * 0x800
  | .pfL2r a i => 0xF0010000 + a.toNat * 0x200000 + i.toNat
  | .pfL2w a i => 0xF0020000 + a.toNat * 0x200000 + i.toNat
  | .pfL1 a i => 0xF0030000 + a.toNat * 0x200000 + i.toNat
  | .pri n => 0xF0100000 + n.toNat * 0x10000
  | .hint h a k i => 0xF0000000 + h.toNat * 0x4000000 + a.toNat * 0x200000 + k.toNat * 0x10000 + i.toNat
  | .trel => 0x80000001
  | .tzero0 => 0x80000002
  | .tzero1 => 0x80200002
  | .tzero2 => 0x80400002
  | .tzero3 => 0x80600002
  | .uiret => 0xA8000003
  | .endT => 0xB0000001
  | .bar0 => 0xB0000002
  | .bar1 => 0xB0000012
  | .bar2 => 0xB0000022
  | .bar3 => 0xB0000032
  | .tret => 0xB4000000
  | .vresume => 0xB4000001
  | .brk => 0xB4000003
  | .migrationInject _ _ => 0
  | .migrationArrival _ _ => 0
  | .arrivalBufferAdmit _ => 0
  | .vectorLazyLoad _ _ _ => 0
  | .threadBind _ => 0
  | .waitbToWaitu _ _ => 0
  | .yieldMark _ _ => 0
  | .preemptionDeadline _ _ => 0
  | .schedulerWindowEnd _ _ => 0
  | .elementGroupGrant _ => 0
  | .vectorComplete _ _ => 0
  | .storeErrorAck _ _ _ => 0
  | .commandProcessorLaunch _ _ _ => 0
  | .commandProcessorPreempt _ _ _ => 0
  | .commandProcessorRestore _ _ => 0
  | .contextImageComplete _ => 0
  | .workToken _ _ _ _ => 0
  | .tokenDispatch _ => 0
  | .launchPerform _ => 0
  | .launchQueueInsert _ => 0
  | .deadTokenRecordRead _ => 0
  | .streamTransferStart _ => 0
  | .streamElementLanding _ _ => 0
  | .userInterruptEntry _ _ => 0
  | .countersReturn _ _ => 0
  | .collReadyPoll _ _ => 0
  | .collShardCopy _ _ => 0
  | .messageDelivery _ _ _ => 0
  | .retryOffer _ _ => 0
  | .groupMemberRequest _ _ _ => 0
  | .pageWalkComplete _ _ _ => 0
  | .cacheEviction _ _ => 0
  | .lateTransitionReplay _ => 0
  | .replayWindowStart _ => 0
  | .guardWindowExpire _ => 0
  | .ageingMeasure _ _ _ => 0
  | .ageingWriteback _ => 0
  | .coreReset _ => 0
  | .packagePowerUp => 0
  | .warmReset => 0
  | .powerControlInterval _ _ _ _ _ => 0
  | .loanRequest _ _ _ _ _ => 0
  | .loanGrant _ => 0
  | .loanRenewal _ _ => 0
  | .loanStopCount _ => 0
  | .loanExpiry _ => 0
  | .fastThrottleAlarm _ => 0
  | .fastThrottleRelease => 0
  | .throttleSettleEnd => 0
  | .laneGroupPowerDown _ _ => 0
  | .breakEvenHoldEnd _ _ => 0
  | .laneGroupWake _ _ => 0
  | .inrushService _ => 0
  | .linkFrameReceive _ _ _ _ _ _ => 0
  | .linkNak _ _ _ => 0
  | .linkFailure _ => 0
  | .linkAckTimeout _ => 0
  | .fabricGiveUp _ _ _ _ => 0
  | .hostAccess _ _ _ _ _ => 0
  | .cxlCompletionTimeout _ _ _ => 0
  | .cxlBackInvalidate _ => 0
  | .svcRaiseAlarm _ => 0
  | .svcClearAlarm _ => 0
  | .svcFirmwareUpdate _ _ => 0
  | .svcAttest _ => 0
  | .svcBlackboxDump _ => 0
  | .svcManifestCopy _ => 0
  | .svcInvalidCmd _ => 0
  | .blackboxDumpComplete _ => 0
  | .registerWrite _ _ => 0
  | .unassignedEncoding w => w.toNat
  | .arenaFault => 0
  | .powerLoss => 0
  | .fastThrottleAlarmClear _ => 0
  | .ultraEthernetReceive _ _ _ _ => 0
  | .cxlPoolHostWrite _ _ => 0
  | .firmwareFault _ => 0

/-- The instruction a word encodes, or the fate of the word (R67, R68). Total on every word. -/
def decode (w : BitVec 32) : Except Fate Instr :=
  match candidate w.toNat with
  | some i => if wellFormed i then .ok i else .error (fateOf w.toNat)
  | none => .error (fateOf w.toNat)

/-- The word of an instruction. -/
def encode (i : Instr) : BitVec 32 := BitVec.ofNat 32 (encodeNat i)

/-- The word at four bytes, the least significant first (R6, R60). -/
def wordOfBytes : List (BitVec 8) → BitVec 32
  | b0 :: b1 :: b2 :: b3 :: _ =>
    BitVec.ofNat 32 (b0.toNat + b1.toNat * 0x100 + b2.toNat * 0x10000 + b3.toNat * 0x1000000)
  | _ => 0

/-- The four bytes of a word in the order of their addresses (R6, R60). -/
def bytesOfWord (w : BitVec 32) : List (BitVec 8) :=
  [BitVec.ofNat 8 w.toNat, BitVec.ofNat 8 (w.toNat / 0x100), BitVec.ofNat 8 (w.toNat / 0x10000),
    BitVec.ofNat 8 (w.toNat / 0x1000000)]

/-- The instruction at the head of a byte sequence. -/
def decodeBytes (l : List (BitVec 8)) : Except Fate Instr := decode (wordOfBytes l)

/-- The instruction the decoder reads from a word numbered as the opcode table numbers its bits. -/
def decodeTableWord (_nbits w : Nat) : Option Instr :=
  match decodeBytes (bytesOfWord (BitVec.ofNat 32 w)) with
  | .ok i => some i
  | .error _ => none

end Sys2Proof
end

