-- ==== Sys2Proof/Machine/Queue.lean ====
section
/-!
DEFINITION. The vector instruction queue of a thread and the matrix queue of a slot: what an instruction reads and
writes there, when issue stalls, which element group takes the next slot, chaining and its ports, and completion
(R120, R184, R206, R240, R253, R356-R358, R368, R369, R449).
-/

namespace Sys2Proof.Machine

/-! ### The registers of the vector file and the masks that an instruction uses -/

/-- The number of a vector register, and of a mask; m0 holds nothing. -/
def vr (r : BitVec 5) : List Nat := [r.toNat]
def mr (r : BitVec 3) : List Nat := if r = 0 then [] else [32 + r.toNat]

/-- What an instruction reads and what it writes there, by its fields alone. -/
def vectorUse (i : Instr) : List Nat × List Nat :=
  let last (b : BitVec 5) (k : BitVec 2) : List Nat := if k = 0 then vr b else []
  let idx (b : BitVec 5) (m : BitVec 2) : List Nat := if m = 2 then vr b else []
  match i with
  | .pfx _ _ k n _ _ => (if k = 1 then mr n else [], [])
  | .vadd d a b k _ | .vsub d a b k _ | .vrsub d a b k _ | .vmul d a b k _ | .vadds d a b k _ | .vsubs d a b k _
  | .vfadd d a b k _ | .vfsub d a b k _ | .vfmul d a b k _ | .vfdiv d a b k _
  | .vmulh d a b k | .vmin d a b k | .vmax d a b k | .vand d a b k | .vor d a b k | .vxor d a b k | .vsll d a b k
  | .vsrl d a b k | .vsra d a b k | .vfmin d a b k | .vfmax d a b k | .vfcpys d a b k | .vgather d a b k
  | .vslideup d a b k | .vslidedn d a b k => (vr a ++ last b k, vr d)
  | .vmovVv d a | .vfneg d a | .vfabs d a | .vfkind d a | .vrcp d a | .vrsqrt d a | .vexp2 d a | .vconf d a
  | .vfsqrt d a _ | .vslide1up d a _ | .vslide1dn d a _ | .vcvt d a _ _ | .vcvts d a _ _
  | .vscansum d a _ _ | .vscanmax d a _ | .vscanmin d a _ | .vxscansum d a _ _ | .vxscanmax d a _ | .vxscanmin d a _ =>
    (vr a, vr d)
  | .vquant d a _ _ => (vr a, vr d ++ vr (companion d))
  | .vmovVs d _ _ | .vmovVi d _ _ | .vidx d _ _ _ => ([], vr d)
  | .vmadd d a b c k | .vmsub d a b c k | .vnmadd d a b c k => (vr a ++ vr b ++ last c k, vr d)
  | .vcmpeq m a b k | .vcmpne m a b k | .vcmplt m a b k | .vcmple m a b k | .vcmpgt m a b k | .vcmpge m a b k
  | .vcmpun m a b k => (vr a ++ last b k, mr m)
  | .vcompress d a m | .vexpand d a m => (vr a ++ mr m, vr d)
  | .vredsum _ a _ _ | .vredmax _ a _ | .vredmin _ a _ | .vredand _ a _ | .vredor _ a _ => (vr a, [])
  | .mpopc _ m | .mfirst _ m => (mr m, [])
  | .mlog d a b _ => (mr a ++ mr b, mr d)
  | .msbf d a | .msif d a | .msof d a => (mr a, mr d)
  | .vld8 d _ b m _ _ _ | .vld16 d _ b m _ _ _ | .vld32 d _ b m _ _ _ | .vld64 d _ b m _ _ _ => (idx b m, vr d)
  | .vld4 d _ _ _ _ _ => ([], vr d)
  | .vldmx4 d _ _ _ _ _ | .vldmx8 d _ _ _ _ _ | .vldmxi8 d _ _ _ _ _ => ([], vr d ++ vr (companion d))
  | .vst8 d _ b m _ _ _ | .vst16 d _ b m _ _ _ | .vst32 d _ b m _ _ _ | .vst64 d _ b m _ _ _ => (vr d ++ idx b m, [])
  | .vst4 d _ _ _ _ => (vr d, [])
  | .vstmx4 d _ _ _ _ | .vstmx8 d _ _ _ _ | .vstmxi8 d _ _ _ _ => (vr d ++ vr (companion d), [])
  | .vatadd d _ b m _ _ _ | .vatand d _ b m _ _ _ | .vator d _ b m _ _ _ | .vatxor d _ b m _ _ _
  | .vatmin d _ b m _ _ _ | .vatmax d _ b m _ _ _ | .vatxch d _ b m _ _ _ => (vr d ++ idx b m, vr d)
  | .strmv d _ b p n _ _ =>
    (if p = 1 then vr b else [], (List.range (n.toNat + 1)).flatMap fun k => vr (d + BitVec.ofNat 5 k))
  | _ => ([], [])

/-- R206: the operands that an instruction reads whole. -/
def wholeUse (i : Instr) : List Nat :=
  match i with
  | .vgather _ a _ _ | .vconf _ a => vr a
  | .vcompress _ a m | .vexpand _ a m => vr a ++ mr m
  | _ => []

/-- R206: the distance from an element of a slide to the element of va that moves there. -/
def Thread.slideBy (t : Thread) (i : Instr) : Int :=
  let amount (b : BitVec 5) (k : BitVec 2) : Int := if k = 1 then (t.getS b).toNat else b.toNat
  match i with
  | .vslide1up _ _ _ => -1
  | .vslide1dn _ _ _ => 1
  | .vslideup _ _ b k => -(amount b k)
  | .vslidedn _ _ b k => amount b k
  | _ => 0

/-- R184, R206, R356: the slots of an instruction's groups. -/
def slotsOf (i : Instr) : SlotUse :=
  match i with
  | .vfdiv _ _ _ _ _ | .vfsqrt _ _ _ => .each 8
  | .vgather _ _ _ _ | .vcompress _ _ _ | .vexpand _ _ _ | .vscansum _ _ _ _ | .vscanmax _ _ _ | .vscanmin _ _ _
  | .vxscansum _ _ _ _ | .vxscanmax _ _ _ | .vxscanmin _ _ _ => .each 2
  | .vconf _ _ => .rising
  | .mpopc _ _ | .mfirst _ _ | .mlog _ _ _ _ | .msbf _ _ | .msif _ _ | .msof _ _ => .once
  | .vld8 _ _ _ m _ _ _ | .vld16 _ _ _ m _ _ _ | .vld32 _ _ _ m _ _ _ | .vld64 _ _ _ m _ _ _
  | .vst8 _ _ _ m _ _ _ | .vst16 _ _ _ m _ _ _ | .vst32 _ _ _ m _ _ _ | .vst64 _ _ _ m _ _ _ =>
    if m = 0 then .each 1 else .addresses
  | .vatadd _ _ _ _ _ _ _ | .vatand _ _ _ _ _ _ _ | .vator _ _ _ _ _ _ _ | .vatxor _ _ _ _ _ _ _
  | .vatmin _ _ _ _ _ _ _ | .vatmax _ _ _ _ _ _ _ | .vatxch _ _ _ _ _ _ _ => .addresses
  | _ => .each 1

/-- The block-scaled companions of the vector registers among some numbers. -/
def Thread.companions (t : Thread) (l : List Nat) : List Nat :=
  l.filterMap fun n =>
    if n < 32 ∧ tagBlock (t.getV (BitVec.ofNat 5 n)).tag then some (companion (BitVec.ofNat 5 n)).toNat else none

/-- The entry of an instruction that begins at an element, with W and its flags. -/
def Thread.entryOf (t : Thread) (i : Instr) (major start w : Nat) (f : BitVec 6) : VEntry :=
  let use := vectorUse i
  let whole := wholeUse i
  let masks := match t.latch with
    | some l => if lPK l then mr (lPN l) else []
    | none => []
  let second := match t.latch with
    | some l => if lDE l && !use.2.isEmpty then vr (lD2 l) else []
    | none => []
  let reads := (use.1.filter fun r => !whole.contains r)
  { flags := f, vl := t.vl.toNat, start := start, left := t.vl.toNat - start, taken := 0, width := w, slots := slotsOf i
    dst := use.2 ++ second
    src := reads.map (fun r => (r, t.slideBy i)) ++
      ((if major = 0x1D then [] else t.companions reads) ++ masks).map fun r => (r, 0)
    whole := whole, place := major != 0x1F, requests := decide (0x26 ≤ major) && decide (major ≤ 0x28) }

/-! ### Issue (R184, R240, R253, R357, R358) -/

/-- Whether the queue that an instruction of a major would enter on a class has no place for it. -/
def Thread.queueFull (t : Thread) (k : Cls) (i : Instr) (major : Nat) : Bool :=
  if k = .t then
    major == 0x20 && (match i with
      | .tshape _ _ => false
      | .tdrain .. | .taccld .. => decide (8 ≤ t.mq.length) || decide (4 ≤ (t.mq.filter (·.divided)).length)
      | _ => decide (8 ≤ t.mq.length))
  else
    ((decide (0x17 ≤ major) && decide (major ≤ 0x1E)) || (decide (0x26 ≤ major) && decide (major ≤ 0x28))) &&
      decide (4 ≤ (t.vq.filter (·.place)).length)

/-- R253: an instruction enters the vector queue. -/
def Thread.enqueue (t : Thread) (e : VEntry) : Thread := { t with vq := t.vq ++ [e] }

/-- R240: an instruction enters the matrix queue. -/
def Thread.enqueueM (t : Thread) (e : MEntry) : Thread := { t with mq := t.mq ++ [e] }

/-- R120: every vector and matrix instruction of the thread completes and its flags join tstat. -/
def Thread.drain (t : Thread) : Thread :=
  let w := t.vq.foldl (fun w e => w ||| e.flags.setWidth 64) t.tstat
  { t with tstat := t.mq.foldl (fun w e => w ||| e.flags.setWidth 64) w, vq := [], mq := [] }

/-! ### Element groups (R184, R206, R356, R368) -/

/-- R184: elements of an element group at a width. -/
def State.groupSize (s : State) (core w : Nat) : Nat := (if s.cls core = some .v then 1024 else 256) / w

/-- R254: an index rounded down to its element group. -/
def State.groupStart (s : State) (core w e : Nat) : Nat :=
  let g := s.groupSize core w
  if g = 0 then e else e / g * g

/-- G of an entry; one without a width is one group. -/
def VEntry.group (e : VEntry) (s : State) (core : Nat) : Nat :=
  if e.width = 0 ∨ e.slots = .once then max 1 e.vl else max 1 (s.groupSize core e.width)

/-- The first element of the next group, and the number of that group. -/
def VEntry.next (e : VEntry) : Nat := e.vl - e.left
def VEntry.index (e : VEntry) (g : Nat) : Nat := e.next / g

/-- The groups that have taken a slot. -/
def VEntry.begun (e : VEntry) (g : Nat) : Nat :=
  (if e.left = 0 then (e.vl + g - 1) / g else e.index g) - e.start / g + (if e.taken = 0 then 0 else 1)

/-- R449: addresses per cycle of a core at its cluster's level. -/
def addressRate (k : Option Cls) (lvl : BitVec 2) : Nat :=
  (if k = some .v then [8, 6, 4, 2] else [4, 3, 2, 1]).getD lvl.toNat 1

/-- R449: the limit on a core's outstanding element requests. -/
def requestLimit (k : Option Cls) (lvl : BitVec 2) : Nat :=
  (if k = some .v then [256, 192, 128, 64] else [64, 48, 32, 16]).getD lvl.toNat 1

/-- The slots that the next group of an entry takes. -/
def VEntry.need (e : VEntry) (g rate : Nat) : Nat :=
  match e.slots with
  | .each k => k
  | .rising => e.index g + 1
  | .once => 1
  | .addresses => (g + rate - 1) / rate

/-- R368: the oldest entry whose next group comes after the same group of every older entry; its place in the
queue. -/
def candidateFrom (g : VEntry → Nat) (older : List VEntry) (n : Nat) : List VEntry → Option (Nat × VEntry)
  | [] => none
  | e :: rest =>
    let after (p : VEntry) : Bool := p.left == 0 || decide (e.index (g e) < p.index (g p))
    if e.left ≠ 0 ∧ older.all after then some (n, e) else candidateFrom g (older ++ [e]) (n + 1) rest

/-- R368: the candidate instruction of a thread's queue. -/
def State.candidate (s : State) (t : Thread) : Option (Nat × VEntry) :=
  candidateFrom (fun e => e.group s t.core) [] 0 t.vq

/-- The latest entry before a place that writes a register. -/
def producerOf (q : List VEntry) (n r : Nat) : Option VEntry := ((q.take n).reverse).find? fun p => p.dst.contains r

/-- R184, R206: the elements of every source of the next group have taken their slots. -/
def chained (q : List VEntry) (n g : Nat) (e : VEntry) : Bool :=
  let lo := e.next
  let hi := min (lo + g) e.vl
  (e.src.all fun r => match producerOf q n r.1 with
    | none => true
    | some p =>
      let top := min ((hi : Int) + r.2) (min p.vl e.vl)
      decide (top ≤ 0) || decide (top ≤ max ((lo : Int) + r.2) 0) || decide (top ≤ p.next)) &&
    e.whole.all fun r => match producerOf q n r with
      | none => true
      | some p => p.left == 0 || decide (e.vl ≤ p.next)

/-- Sources of an entry whose producer has not completed. -/
def portsEach (q : List VEntry) (n : Nat) (e : VEntry) : Nat :=
  ((e.src.map (·.1) ++ e.whole).filter fun r => (producerOf q n r).isSome).length

/-- R369: the chaining ports that the entries of a queue hold, from a place on. -/
def portsHeld (g : VEntry → Nat) (q : List VEntry) : Nat → List VEntry → Nat
  | _, [] => 0
  | n, e :: rest => e.begun (g e) * portsEach q n e + portsHeld g q (n + 1) rest

/-- R369: chaining ports in use on a core, and those it has. -/
def State.portsUsed (s : State) (core : Nat) : Nat :=
  ((s.cur :: s.threads).filter fun t => t.run != .done && t.core == core).foldl
    (fun n t => n + portsHeld (fun e => e.group s core) t.vq 0 t.vq) 0
def State.ports (s : State) (core : Nat) : Nat := if s.cls core = some .v then 8 else 4

/-- Element requests of a core that may still be outstanding: those of groups that have taken their slots in
instructions that have not completed. -/
def State.requestsOpen (s : State) (core : Nat) : Nat :=
  ((s.cur :: s.threads).filter fun t => t.run != .done && t.core == core).foldl
    (fun n t => t.vq.foldl (fun n e => if e.requests then n + (e.next - e.start) else n) n) 0

/-- R368: the conditions on the next group of a candidate, where `out` element requests are outstanding. -/
def State.groupReady (s : State) (core : Nat) (q : List VEntry) (n out : Nat) (e : VEntry) : Bool :=
  let g := e.group s core
  let limit := requestLimit (s.cls core) (s.cluster (clusterOf s.blend core)).lvl
  let ask := min g e.left
  e.taken != 0 || (chained q n g e && decide (s.portsUsed core + portsEach q n e ≤ s.ports core) &&
    (!e.requests || decide (out + ask ≤ limit) || (decide (limit < ask) && out == 0)))

/-- One slot of the next group of an entry. -/
def VEntry.slot (e : VEntry) (g rate : Nat) : VEntry :=
  if e.taken + 1 < e.need g rate then { e with taken := e.taken + 1 }
  else { e with taken := 0, left := e.left - (g - e.next % g) }

/-- The slots that the groups of an entry have still to take. -/
def VEntry.slotsLeft (e : VEntry) (g rate : Nat) : Nat :=
  let groups := (e.vl + g - 1) / g - e.index g
  let all := match e.slots with
    | .each k => k * groups
    | .rising => (List.range groups).foldl (fun n i => n + e.index g + i + 1) 0
    | .once => 1
    | .addresses => groups * ((g + rate - 1) / rate)
  if e.left = 0 then 0 else all - e.taken

/-- Change the entry at a place. -/
def changeAt (f : VEntry → VEntry) : Nat → List VEntry → List VEntry
  | _, [] => []
  | 0, e :: rest => f e :: rest
  | n + 1, e :: rest => e :: changeAt f n rest

/-! ### Completion (R120, R184, R240) -/

/-- The places of the entries that may complete: of a vector queue, those whose slots are all taken. -/
def doneV (q : List VEntry) : List Nat := (List.range q.length).filter fun n => (q[n]?.map (·.left)).getD 1 == 0

/-- Whether an entry of the matrix queue waits for an older one (R240): its own unit works in order, and what drains
a tile waits for what writes it. -/
def MEntry.waits (e p : MEntry) : Bool :=
  e.drains == p.drains || (e.drains && !p.drains && (p.tile.isNone || p.tile == e.tile))

def doneM (q : List MEntry) : List Nat :=
  (List.range q.length).filter fun n => match q[n]? with
    | some e => (q.take n).all fun p => !e.waits p
    | none => false

/-- R120, R184: an instruction completes, by a free choice among those that may; its flags join tstat. -/
def Thread.completeOne (t : Thread) (r : Nat) : Thread :=
  let vs := doneV t.vq
  let ms := doneM t.mq
  match (vs ++ ms)[r % (vs.length + ms.length)]? with
  | none => t
  | some n =>
    if r % (vs.length + ms.length) < vs.length then
      match t.vq[n]? with
      | some e => { t.orFlags e.flags with vq := t.vq.eraseIdx n }
      | none => t
    else match t.mq[n]? with
      | some e => { t.orFlags e.flags with mq := t.mq.eraseIdx n }
      | none => t

end Sys2Proof.Machine
end

