-- ==== Sys2Proof/Machine/Ops.lean ====
section
/-!
DEFINITION. The operations the instructions and events share: finding threads and waking them, loads
and stores by place with their monitors and full-empty bits, device windows, domains and completion
words, the choice of a migration's destination, and taking an exception and returning from one.
-/

namespace Sys2Proof.Machine

/-! ### Threads -/

def Thread.ref (t : Thread) : TRef := { ctx := t.ctx, tid := t.tid }

/-- Whether a record is the live thread of a name. -/
def Thread.named (t : Thread) (r : TRef) : Bool := t.ref == r && t.run != .done

/-- Every live thread of the package. -/
def State.all (s : State) : List Thread := (s.cur :: s.threads).filter (·.run != .done)

def State.find (s : State) (r : TRef) : Option Thread := s.all.find? (·.ref == r)

/-- Change the live thread of a name. -/
def State.modify (s : State) (r : TRef) (f : Thread → Thread) : State :=
  if s.cur.named r then { s with cur := f s.cur }
  else { s with threads := s.threads.map fun t => if t.named r then f t else t }

/-- Give the next turn to a thread; the thread before it joins the others unless it is DONE. -/
def State.focus (s : State) (r : TRef) : State :=
  if s.cur.named r then s
  else match s.threads.find? (·.named r) with
    | none => s
    | some t =>
      let rest := s.threads.filter (fun u => !u.named r)
      { s with cur := t, threads := if s.cur.run = .done then rest else s.cur :: rest }

/-- Act on another thread in its turn, and give the turn back. -/
def State.onThread (s : State) (r : TRef) (f : State → State) : State :=
  match s.find r with
  | none => s
  | some _ => (f (s.focus r)).focus s.cur.ref

/-- Threads that hold a run-queue entry of a core (R364). -/
def State.queue (s : State) (core : Nat) : List Thread :=
  s.all.filter fun t => t.core == core && (t.run == .ready || t.run == .run || t.run == .waitb ||
    t.run == .waitu || (t.run == .saved && t.restoredRun) ||
    (t.run == .transit && (match t.mig with
      | some m => !m.injected
      | none => false)))

/-- Holders of a core (R26). -/
def State.holders (s : State) (core : Nat) : Nat :=
  match s.cls core with
  | some .c => 4
  | some .v => (s.core core).harts
  | some .t => 2
  | none => 0

/-- Whether a holder of a core has a thread bound to it (R366). -/
def State.slotTaken (s : State) (core slot : Nat) : Bool :=
  s.all.any fun t => t.core == core && t.slot == slot && (t.run == .run || t.run == .waitb)

/-- The lowest-numbered free holder (R366). -/
def State.freeSlot (s : State) (core : Nat) : Option Nat :=
  (List.range (s.holders core)).find? fun k => !s.slotTaken core k

/-- A thread joins the tail of its core's ready order (R53). -/
def State.enterReady (s : State) (r : TRef) (core : Nat) : State :=
  let c := s.core core
  s.setCore core { c with ready := c.ready.filter (· != r) ++ [r] }

def State.leaveReady (s : State) (r : TRef) (core : Nat) : State :=
  let c := s.core core
  if c.ready.contains r then s.setCore core { c with ready := c.ready.filter (· != r) } else s

/-- R251: a store's error is to be reported, behind those before it. -/
def Thread.storeFailed (t : Thread) (addr : Word) : Thread := { t with storeErrors := t.storeErrors ++ [addr] }

/-! ### Element groups that complete together (R254, R450) -/

/-- Whether hart k of h owns a lane of lane group g (R27, R450). -/
def ownsLane (h k g : Nat) : Bool := decide (k * 32 / h < 8 * g + 8) && decide (8 * g < (k + 1) * 32 / h)

/-- Whether a lane group is powered at a device time (R372). -/
def LaneGroup.ready (l : LaneGroup) (now : Nat) : Bool :=
  match l with
  | .active => true
  | .waking r => decide (r ≤ now)
  | _ => false

/-- R450: an element group of a hart uses its lane groups now. -/
def CoreSt.useLanes (c : CoreSt) (now k : Nat) : CoreSt :=
  { c with laneUsed := Vector.ofFn fun g : Fin 4 => if ownsLane c.harts k g.val then now else c.laneUsed[g] }

/-- The lane groups of a hart are powered now. -/
def CoreSt.powerLanes (c : CoreSt) (k : Nat) : CoreSt :=
  { c with lanes := Vector.ofFn fun g : Fin 4 => if ownsLane c.harts k g.val then .active else c.lanes[g] }

/-- R120, R254: every vector and matrix instruction of the current thread completes. The slots that its groups had still
to take are counted (R453), and a lane group that they need has been woken by then (R450); the time that this takes is
not modelled (log entry 1). -/
def State.drain (s : State) : State :=
  let t := s.cur
  let core := t.core
  let rate := addressRate (s.cls core) (s.cluster (clusterOf s.blend core)).lvl
  let n : Nat := t.vq.foldl (fun n e => n + e.slotsLeft (e.group s core) rate) 0
  let s := { s with cur := t.drain }
  if n = 0 then s
  else
    let c := s.core core
    let asleep (g : Nat) : Bool := ownsLane c.harts t.slot g && !((c.lanes[g]?).getD .active).ready s.dtime
    let s := if s.cls core = some .v ∧ (List.range 4).any asleep then
        s.setDie (dieOf core) { s.die (dieOf core) with
          inrush := (s.die (dieOf core)).inrush.filter fun q => !(q.1 == core && asleep q.2) }
      else s
    let c := if (List.range 4).any asleep then c.powerLanes t.slot else c
    s.setCore core ({ c with counters := c.counters.setIfInBounds 6 (c.counters[6]?.getD 0 + BitVec.ofNat 64 n) }.useLanes
      s.dtime t.slot)

/-! ### Completing an instruction -/

/-- R45: majors that count as vector instructions in a scheduler window. -/
def vectorMajor (m : Nat) : Bool :=
  (decide (0x17 ≤ m) && decide (m ≤ 0x1E)) || (decide (0x26 ≤ m) && decide (m ≤ 0x28))

/-- An instruction of a major completes: the latch clears (R83), a vector instruction sets `vesr` to 0 (R117), and
the window counts grow (R45). -/
def Thread.retire (t : Thread) (major : Nat) : Thread :=
  { t with latch := none, winInstr := t.winInstr + 1,
           vesr := if vectorMajor major then 0 else t.vesr,
           winVec := t.winVec + (if vectorMajor major then 1 else 0),
           winMat := t.winMat + (if major = 0x20 then 1 else 0) }

/-- CopyDest for a scalar destination (R85). -/
def Thread.copyS (t : Thread) (d : BitVec 5) : Thread :=
  match t.latch with
  | some l => if lDE l then t.setS (lD2 l) (t.getS d) (t.poisonedS d) else t
  | none => t

/-- R31, R83: the latch of the instruction that waits. That of a full-empty load stays with its registration when
the thread's own has gone into PP and PFXL. -/
def Thread.waitLatch (t : Thread) : Option (BitVec 12) :=
  match t.wait with
  | some (.fullEmpty _ _ _ _ _ _ l) => l
  | _ => t.latch

/-- R83, R88: the latch of a waiting load that completes away from a holder is no longer pending. -/
def Thread.dropStowed (t : Thread) : Thread :=
  if t.latch.isNone && t.waitLatch.isSome && !t.st stINTRAP then (t.setSt stPP false).setPfxl 0 else t

/-- A wait is served: S[d] and its copy are written, and the thread goes on after the instruction. -/
def Thread.finishWait (t : Thread) (res : Option (BitVec 5 × Word)) (major : Nat) : Thread :=
  let l := t.waitLatch
  let t := t.dropStowed
  let t := match res with
    | some (d, v) => ({ t.setS d v false with latch := l }).copyS d
    | none => t
  { t.retire major with wait := none, pc := t.pc + 4 }

/-- R30: the awaited condition of a thread is met. A thread in TRANSIT or SAVED keeps its state and
finds the wait over when it arrives or is restored. -/
def State.wake (s : State) (r : TRef) (res : Option (BitVec 5 × Word)) (major : Nat) : State :=
  match s.find r with
  | none => s
  | some t =>
    let s := (s.modify r (·.finishWait res major)).count t.core 0
    match t.run with
    | .waitb => s.modify r ({ · with run := .run })
    | .waitu => (s.modify r ({ · with run := .ready })).enterReady r t.core
    | _ => s

/-- R54: a thread marked for yield gives up its holder, which the core counts; the mark and its deadline end. -/
def State.serveYield (s : State) : State :=
  if s.cur.st stYIELD then
    { s with cur := { s.cur.setSt stYIELD false with deadline := none } }.count s.cur.core 17
  else s

/-- R30, R54: the current thread waits; with a READY thread in its core's run queue, or marked for yield, it leaves its
holder. -/
def State.enterWait (s : State) (w : Wait) : State :=
  let leaves := !(s.core s.cur.core).ready.isEmpty || s.cur.st stYIELD
  let s := s.serveYield
  let t := { s.cur with run := if leaves then .waitu else .waitb }
  { s with cur := { t with wait := some w } }

/-! ### Launch units and device windows (R360, R394, R476, R490) -/

def State.unit (s : State) (u : Nat) : LaunchUnit := if u = 0 then s.unit0 else s.unit1

def State.setUnit (s : State) (u : Nat) (x : LaunchUnit) : State :=
  if u = 0 then { s with unit0 := x } else { s with unit1 := x }

/-- The C-die of a launch unit (R394). -/
def unitDie (u : Nat) : Nat := if u = 0 then 5 else 11

/-- R360: a token that starts no launch becomes a dead-token record. -/
def State.killToken (s : State) (u : Nat) (t : Token) (reason err : Nat) (gen : Nat) : State :=
  let x := s.unit u
  let r : BitVec 1024 := BitVec.ofNat 1024
    (t.tok.toNat + t.time.toNat * 2 ^ 512 + t.src.toNat * 2 ^ 576 + reason * 2 ^ 592 + err * 2 ^ 600 +
      t.tok.toNat % 2 ^ 32 * 2 ^ 608 + gen * 2 ^ 640)
  let x := { x with count := x.count + 1 }
  s.setUnit u (if x.dead.length < 64 then { x with dead := x.dead ++ [r] }
    else { x with lost := if x.lost = 0xFFFF then x.lost else x.lost + 1 })

/-- R360: `dtstat`. -/
def LaunchUnit.dtstat (x : LaunchUnit) : Nat :=
  x.count.toNat + x.lost.toNat * 2 ^ 32 + x.dead.length * 2 ^ 48

/-- R476: `svcstat`. -/
def LaunchUnit.svcstat (x : LaunchUnit) : Nat :=
  x.last.toNat + (if x.busy.isSome then 0x100 else 0) + (if x.salm then 0x200 else 0) +
    (if x.fenced then 0x400 else 0) + (if x.recov then 0x800 else 0)

/-- R446, R451: fast throttle is active, or its settle runs. -/
def State.throttled (s : State) : Bool := s.throttle.active || s.throttle.settle.any (decide <| s.dtime < ·)

/-- R490: `bbstat`. -/
def DieSt.bbstat (d : DieSt) : Nat :=
  d.next.toNat + (if d.frozen then 0x1000 else 0) + (if d.dumped then 0x2000 else 0) +
    d.dumps.toNat * 0x10000

/-- R394, R490: device-window addresses that only system state reaches. -/
def systemOnly (pa : Nat) : Bool :=
  (decide (0x020000000000 ≤ pa) && decide (pa < 0x020002000000) &&
    decide (0x10000 ≤ pa % 0x1000000)) ||
  (decide (0x020010000000 ≤ pa) && decide (pa < 0x020010000000 + 17 * 0x20000)) ||
  (decide (0x020020000000 ≤ pa) && decide (pa < 0x020020010000))

/-- The Ultra Ethernet aperture (R484). -/
def inAperture (pa : Nat) : Bool := decide (0x020080000000 ≤ pa) && decide (pa < 0x020100000000)

/-- R484: the segment of an aperture address is valid. -/
def State.segmentValid (s : State) (pa : Nat) : Bool :=
  (readByte s.mem (0x020020000000 + 32 * ((pa - 0x020080000000) / 0x100000))).getLsbD 0

/-- R484: where a byte of the aperture stands among what peers hold: the peer and job of its segment, and its remote
address. The contents of a byte depend on nothing else, so two segments may name one byte. -/
def State.peerByte (s : State) (pa : Nat) : Nat :=
  let e := readNat s.mem (0x020020000000 + 32 * ((pa - 0x020080000000) / 0x100000)) 32
  let addr := (bits e 64 64 + pa % 0x100000) % 2 ^ 64
  bits e 128 128 * 2 ^ 96 + bits e 32 32 * 2 ^ 64 + addr

/-- R484: the Ultra Ethernet port that an aperture access leaves by lies on a die that is cut off. -/
def State.portCut (s : State) (pa : Nat) : Bool :=
  let port := (readByte s.mem (0x020020000000 + 32 * ((pa - 0x020080000000) / 0x100000) + 1)).toNat
  (s.die (unitDie (port / 4))).cut

/-- The command that runs on a C-die. -/
def LaunchUnit.cmd (x : LaunchUnit) : Option Nat := x.busy.map fun w => w.toNat % 256

/-- R477, R476: a write of `svccmd`, beside the unit of the other C-die. A running command makes the write
ignored, with LAST 0xFE; a second command 3 sets LAST 0xFD. -/
def LaunchUnit.command (x other : LaunchUnit) (v : Nat) : LaunchUnit :=
  match x.busy with
  | some _ => { x with last := 0xFE }
  | none =>
    if v % 256 = 3 ∧ other.cmd = some 3 then { x with last := 0xFD }
    else { x with busy := some (BitVec.ofNat 64 v) }

/-- Read an aligned 8-byte word of a device window (R360, R394, R476, R490). Windows whose contents the spec lays
out nowhere are plain bytes (R7, log entry 4); write-only places read zero (R7). The word at the start of the record
window takes the next record. -/
def State.devReadWord (s : State) (pa : Nat) : State × Nat :=
  if 0x020000000000 ≤ pa ∧ pa < 0x020002000000 then
    let u := (pa - 0x020000000000) / 0x1000000
    let o := pa % 0x1000000
    let x := s.unit u
    if o < 0x10000 then (s, 0)
    else if o = 0x10000 then (s, x.dtstat)
    else if 0x10100 ≤ o ∧ o < 0x10180 then
      let x := if o = 0x10100 then { x with latched := x.dead.headD 0, dead := x.dead.tail } else x
      (s.setUnit u x, bits x.latched.toNat (8 * (o - 0x10100)) 64)
    else if o = 0x10180 then (s, 0)
    else if o = 0x10188 then (s, x.svcstat)
    else if o = 0x10190 then (s, x.svcbuf.toNat)
    else (s, readNat s.mem pa 8)
  else if 0x020010000000 ≤ pa ∧ pa < 0x020010000000 + 17 * 0x20000 then
    let die := (pa - 0x020010000000) / 0x20000
    let o := (pa - 0x020010000000) % 0x20000
    let d := s.die die
    if o < 0x10000 then (s, bits ((lookup d.ring (o / 16)).getD 0).toNat (8 * (o % 16)) 64)
    else if o = 0x10000 then (s, d.bbstat)
    else (s, readNat s.mem pa 8)
  else if inAperture pa then (s, readNat s.peers (s.peerByte pa) 8)
  else (s, readNat s.mem pa 8)

/-- Read words of a device window, the lowest first. -/
def State.devReadFrom (s : State) (pa : Nat) : Nat → State × Nat
  | 0 => (s, 0)
  | k + 1 =>
    let (s, v) := s.devReadWord pa
    let (s, w) := s.devReadFrom (pa + 8) k
    (s, v + 2 ^ 64 * w)

/-- Read n bytes of a device window: every word that they meet is read once. -/
def State.devRead (s : State) (pa n : Nat) : State × Nat :=
  let (s, v) := s.devReadFrom (pa / 8 * 8) ((pa % 8 + n + 7) / 8)
  (s, bits v (8 * (pa % 8)) (8 * n))

/-- Write n bytes within one aligned 8-byte word of a device window. Of a word that software triggers something with, a
write that has its first byte counts, with zeros for the bytes it does not write; the spec gives `svccmd` no access size
(DESIGN CHOICE, log entry 4). -/
def State.devWriteWord (s : State) (pa n v : Nat) : State :=
  if 0x020000000000 ≤ pa ∧ pa < 0x020002000000 then
    let u := (pa - 0x020000000000) / 0x1000000
    let o := pa % 0x1000000
    let x := s.unit u
    if o < 0x10008 then s
    else if 0x10100 ≤ o ∧ o < 0x10180 then s
    else if o = 0x10180 then s.setUnit u (x.command (s.unit (1 - u)) (v % 2 ^ (8 * n)))
    else if 0x10181 ≤ o ∧ o < 0x10190 then s
    else if 0x10190 ≤ o ∧ o < 0x10198 then
      let sh := 8 * (o - 0x10190)
      let keep := x.svcbuf.toNat % 2 ^ sh + x.svcbuf.toNat / 2 ^ (sh + 8 * n) * 2 ^ (sh + 8 * n)
      let w : Word := BitVec.ofNat 64 (keep + v % 2 ^ (8 * n) * 2 ^ sh)
      s.setUnit u { x with svcbuf := w &&& ~~~(0xFFF : Word) }
    else { s with mem := writeNat s.mem pa n v }
  else if 0x020010000000 ≤ pa ∧ pa < 0x020010000000 + 17 * 0x20000 then s
  else if inAperture pa then { s with peers := writeNat s.peers (s.peerByte pa) n v }
  else { s with mem := writeNat s.mem pa n v }

/-- Write n bytes of a device window word by word. -/
def State.devWriteFrom (s : State) (pa n v : Nat) : Nat → State
  | 0 => s
  | k + 1 =>
    let m := min n (8 - pa % 8)
    (s.devWriteWord pa m (v % 2 ^ (8 * m))).devWriteFrom (pa + m) (n - m) (v / 2 ^ (8 * m)) k

/-- Write n bytes of a device window. A write into a token window that is no TOKEN-class write is one
dead token of reason 4 (R393); its bytes stand at the start of the record's token (DESIGN CHOICE, log entry 31). -/
def State.devWrite (s : State) (pa n v : Nat) (src : BitVec 16) : State :=
  if 0x020000000000 ≤ pa ∧ pa < 0x020002000000 ∧ pa % 0x1000000 < 0x10000 then
    s.killToken ((pa - 0x020000000000) / 0x1000000)
      { tok := BitVec.ofNat 512 (v % 2 ^ (8 * n)), time := BitVec.ofNat 64 s.dtime, src := src, whole := false } 4 0 0
  else s.devWriteFrom pa n v ((pa % 8 + n + 7) / 8)

/-! ### Loads and stores by place -/

/-- Read n bytes through a die's private copies (R293), filling each sector first. -/
def State.privRead (s : State) (die pa : Nat) : Nat → State × Nat
  | 0 => (s, 0)
  | n + 1 =>
    let s := s.fillSector die pa
    let b := match s.priv die (pa / 256) with
      | some p => (p.byte (pa % 256)).toNat
      | none => 0
    let (s, v) := s.privRead die (pa + 1) n
    (s, b + 256 * v)

/-- Write n bytes into a die's private copies: data and dirty bits, no fill (R293). -/
def State.privWrite (s : State) (die pa : Nat) : Nat → Nat → State
  | 0, _ => s
  | n + 1, v =>
    let p := (s.priv die (pa / 256)).getD { line := pa / 256, valid := 0, data := 0, dirty := 0 }
    let p := p.setByte (pa % 256) (BitVec.ofNat 8 v)
    let p := { p with dirty := putBit p.dirty (pa % 256) true }
    (s.setPriv die p).privWrite die (pa + 1) n (v / 256)

/-- Load n bytes at a place for a die. -/
def State.loadAt (s : State) (die : Nat) (p : Place) (n : Nat) : State × Nat :=
  match s.region p.pa with
  | .device => s.devRead p.pa n
  | .hbm | .cxl | .fabric _ .hbm =>
    if p.attr = 1 then s.privRead die p.pa n
    else if p.attr = 0 then (State.eachLine (fun s pa m => s.cohLoad die pa m) s p.pa n (linesOf p.pa n), readNat s.mem p.pa n)
    else (s, readNat s.mem p.pa n)
  | _ => (s, readNat s.mem p.pa n)

/-- R290: the agent by which an atomic or WAITA of a core is performed at its home: the hub for a coherent place, else the
core's die. -/
def homeDie (core : Nat) (p : Place) : Nat := if p.attr = 0 then 12 else dieOf core

/-- The value a monitor reads at its home (R349). -/
def State.monitorValue (s : State) (m : Monitor) : Nat :=
  match m.die with
  | some die => (s.privRead die m.pa (if m.wide then 8 else 4)).2
  | none => readNat s.mem m.pa (if m.wide then 8 else 4)

/-- R349, R350: after a write of n bytes, every record on those bytes whose value now differs fires,
in the order of arming. -/
def State.fire (s : State) (die : Option Nat) (pa n : Nat) : List Monitor → State
  | [] => s
  | m :: rest =>
    let w := if m.wide then 8 else 4
    if m.die = die ∧ m.pa < pa + n ∧ pa < m.pa + w then
      let v := s.monitorValue m
      if v = m.cmp.toNat then s.fire die pa n rest
      else
        let s := { s with monitors := s.monitors.filter (· != m) }
        let s := match s.find m.ref with
          | some t => match t.wait with
            | some (.waita _ _ _ _ _ d _) => s.wake m.ref (some (d, BitVec.ofNat 64 v)) 0x29
            | _ => s
          | none => s
        s.fire die pa n rest
    else s.fire die pa n rest

/-- Whether some monitor watches a byte of a range. -/
def State.watched (s : State) (pa n : Nat) : Bool :=
  s.monitors.any fun m => decide (m.pa < pa + n) && decide (pa < m.pa + 8)

/-- R349: the monitors that a write of n bytes meets. -/
def State.fireAt (s : State) (die : Option Nat) (pa n : Nat) : State :=
  if s.watched pa n then s.fire die pa n s.monitors else s

/-- Store the low n bytes of a value at a place for a die, by a core's L1 or its stash where there is one, and fire the
monitors it meets. -/
def State.storeBy (s : State) (core : Option Nat) (stash : Option StashId) (die : Nat) (p : Place) (n v : Nat) : State :=
  match s.region p.pa with
  | .device => s.devWrite p.pa n v (BitVec.ofNat 16 s.manifest.package)
  | .hbm | .cxl | .fabric _ .hbm =>
    if p.attr = 1 then (s.privWrite die p.pa n v).fireAt (some die) p.pa n
    else
      let s := if p.attr = 0 then
          State.eachLine (fun s pa m => s.cohStore die pa m core stash) s p.pa n (linesOf p.pa n) else s
      { s with mem := writeNat s.mem p.pa n v }.fireAt none p.pa n
  | _ => { s with mem := writeNat s.mem p.pa n v }.fireAt none p.pa n

/-- A store of an agent that has no L1 of its own. -/
def State.storeAt (s : State) (die : Nat) (p : Place) (n v : Nat) : State := s.storeBy none none die p n v

/-- R293, R321, R349: a write-back of a die's copy of a line is a store to memory, which its monitors see; a line
that is dropped leaves the die's L1s as well. -/
def State.drainLine (s : State) (die line : Nat) (drop : Bool) : State :=
  let s := (s.writeBack die line drop).fireAt none (line * 256) 256
  if drop then s.dropL1 die line none else s

/-- R434: a load or store by a unit of a core, which opens a guarded window where the place is device-class. -/
def State.guardedLoad (s : State) (core : Nat) (p : Place) (n : Nat) : State × Nat :=
  (s.guardDevice core p).loadAt (dieOf core) p n
def State.guardedStore (s : State) (core : Nat) (p : Place) (n v : Nat) : State :=
  (s.guardDevice core p).storeAt (dieOf core) p n v

/-! ### Full-empty bits (R288) -/

/-- Serve the loads waiting on a granule that has become full, in order of arrival; one of a device-class page opens its
core's guarded window (R434). The first .fc load clears the bit, and those behind it wait on. -/
def State.serve (s : State) (g : Nat) : List TRef → State
  | [] => s
  | r :: rest =>
    match s.find r with
    | some t => match t.wait with
      | some (.fullEmpty _ pa clear wide dev d _) =>
        if pa / 16 = g then
          let s := if dev then s.openGuard t.core else s
          let v := readNat s.mem pa (if wide then 8 else 4)
          let s := { s with feWaiters := s.feWaiters.filter (· != r) }
          let s := s.wake r (some (d, BitVec.ofNat 64 v)) 0x24
          if clear then { s with full := removeNat s.full g } else s.serve g rest
        else s.serve g rest
      | _ => s.serve g rest
    | none => s.serve g rest

/-- Set a granule's bit full and serve its waiting loads. -/
def State.setFull (s : State) (g : Nat) : State :=
  { s with full := insertNat s.full g }.serve g s.feWaiters

/-- Set k granules full, each once, from one on. -/
def State.setFullFrom (s : State) (g : Nat) : Nat → State
  | 0 => s
  | k + 1 => (s.setFull g).setFullFrom (g + 1) k

/-- Set the granules that n bytes meet full. -/
def State.setFullRange (s : State) (pa n : Nat) : State :=
  if n = 0 then s else s.setFullFrom (pa / 16) ((pa + n - 1) / 16 + 1 - pa / 16)

/-! ### Access checks (R250, R281-R286, R291) -/

/-- What an access needs. -/
structure Want where
  r : Bool
  w : Bool
  /-- Device-class memory allowed. -/
  dev : Bool
  /-- A full-empty access: GLOBAL only through a window (R283). -/
  window : Bool
  /-- The Ultra Ethernet aperture allowed (R484). -/
  aperture : Bool

def wantLoad : Want := { r := true, w := false, dev := true, window := false, aperture := false }
def wantStore : Want := { r := false, w := true, dev := true, window := false, aperture := false }
def wantAtomic : Want := { r := true, w := true, dev := false, window := false, aperture := false }

/-- Check a physical address reached with an attribute: the protection fault 0x0B of R281, R282,
R283, R394 and R484, and the uncorrectable error 0x0C that a read meets (R250). -/
def State.checkPhys (s : State) (sys : Bool) (pa n : Nat) (attr : BitVec 2) (k : Want) :
    Except Nat Place :=
  match s.region pa with
  | .nowhere => .error 0x0B
  | .scratch _ off =>
    if attr = 1 ∨ (attr = 2 ∧ k.dev = false) then .error 0x0B
    else if s.region (pa + n - 1) = .nowhere ∨ off + n > 0x100000 then .error 0x0B
    else if k.r ∧ s.badRange pa n then .error 0x0C
    else .ok { pa := pa, attr := attr }
  | .fabric _ .window =>
    if attr = 1 ∨ (attr = 2 ∧ k.dev = false) then .error 0x0B
    else if s.region (pa + n - 1) = .nowhere then .error 0x0B
    else if k.r ∧ s.badRange pa n then .error 0x0C
    else .ok { pa := pa, attr := attr }
  | .device =>
    if k.window ∨ (attr = 2 ∧ k.dev = false) then .error 0x0B
    else if systemOnly pa ∧ sys = false then .error 0x0B
    else if inAperture pa ∧ (k.aperture = false ∨ s.segmentValid pa = false) then .error 0x0B
    else if inAperture pa ∧ s.portCut pa then .error 0x0C
    else .ok { pa := pa, attr := attr }
  | _ =>
    if k.window ∨ (attr = 2 ∧ k.dev = false) then .error 0x0B
    else if k.r ∧ s.badRange pa n then .error 0x0C
    else .ok { pa := pa, attr := attr }

/-- A GLOBAL access of the current thread (R281, R291, R295): its place, or the code of the fault. -/
def State.global (s : State) (va n : Nat) (k : Want) : State × Except Nat Place :=
  match s.translate s.cur.core s.cur.ctx va k.r k.w with
  | (s, .error c) => (s, .error c)
  | (s, .ok e) => (s, s.checkPhys (s.cur.st stSYS) (s.canon (e.pbase + (va - e.vbase))) n e.attr k)

/-- R284: a LOCAL access at an offset into the scratchpad of a core; the error has the code and `trval`.
A LOCAL byte has no virtual address. -/
def State.localPlace (s : State) (core off n : Nat) (r : Bool) : Except (Nat × Word) Place :=
  if s.localBytes core < off + n then .error (0x09, BitVec.ofNat 64 off)
  else if r ∧ s.badRange (windowBase core + off) n then .error (0x0C, BitVec.allOnes 64)
  else .ok { pa := windowBase core + off, attr := 0 }

/-- Where byte `off` of a core's stash stands in its scratchpad (R284). -/
def State.stashHome (s : State) (core off : Nat) : Nat := windowBase core + 0x100000 - s.stashBytes core + off

/-- R285: a touched sector is filled from its GLOBAL address; the hub directory tracks it. -/
def State.stashFill (s : State) (off pa : Nat) (r w : Bool) : State :=
  let core := s.cur.core
  let base := pa - off % 32
  let s := s.cohLoad 12 base 32
  let home := s.stashHome core (off / 32 * 32)
  let s := { s with mem := writeNat s.mem home 32 (readNat s.mem base 32) }.fireAt none home 32
  let c := s.core core
  s.setCore core { c with sectors :=
    { ctx := s.cur.ctx, sector := off / 32, pa := base, read := r, write := w, dirty := false } :: c.sectors }

/-- The present sector of the current thread's context that holds a stash offset. -/
def State.sectorAt (s : State) (off : Nat) : Option StashSector :=
  (s.core s.cur.core).sectors.find? fun x => x.ctx == s.cur.ctx && x.sector == off / 32

/-- R285, R353: the GLOBAL place of a STASH access. A mapping of the context binds its offset; a sector that is absent
is translated and filled, from a coherent page, and one that is present keeps the place and permissions of its
fill. -/
def State.stashPlace (s : State) (off n : Nat) (k : Want) : State × Except (Nat × Word) Place :=
  match (s.core s.cur.core).stashMaps.find? (fun m => m.ctx == s.cur.ctx && decide (m.off ≤ off) &&
      decide (off + n ≤ m.off + m.len)) with
  | none => (s, .error (0x09, BitVec.ofNat 64 off))
  | some m =>
    if s.stashBytes s.cur.core < off + n then (s, .error (0x09, BitVec.ofNat 64 off))
    else
      let va : Word := m.vbase + BitVec.ofNat 64 (off - m.off)
      match s.sectorAt off with
      | some x =>
        if (k.r && !x.read) || (k.w && !x.write) then (s, .error (0x0B, va))
        else if k.r ∧ s.badRange (s.stashHome s.cur.core off) n then (s, .error (0x0C, va))
        else (s, .ok { pa := x.pa + off % 32, attr := 0 })
      | none =>
        match s.translate s.cur.core m.ctx va.toNat k.r k.w with
        | (s, .error c) => (s, .error (c, va))
        | (s, .ok e) =>
          if e.attr ≠ 0 then (s, .error (0x0B, va))
          else match s.checkPhys (s.cur.st stSYS) (s.canon (e.pbase + (va.toNat - e.vbase))) n e.attr k with
            | .error c => (s, .error (c, va))
            | .ok p => (s.stashFill off p.pa e.read e.write, .ok p)

/-- Whether an operation may use STASH (R283): loads and stores only. -/
def Want.plain (k : Want) : Bool := (k.r != k.w) && !k.window

/-- The place of an access of the current thread: space 0 GLOBAL, 1 LOCAL, 2 STASH (R63, R283). GROUP
and the operations that a space does not permit are bound faults. -/
def State.locate (s : State) (space : Nat) (addr : Word) (n : Nat) (k : Want) :
    State × Except (Nat × Word) Place :=
  match space with
  | 0 => match s.global addr.toNat n k with
    | (s, .error c) => (s, .error (c, addr))
    | (s, .ok p) => (s, .ok p)
  | 1 => (s, s.localPlace s.cur.core addr.toNat n k.r)
  | 2 => if k.plain then s.stashPlace addr.toNat n k else (s, .error (0x09, addr))
  | _ => (s, .error (0x09, addr))

/-- Whether an access of a place may be held in an L1 (R289, R293): cached memory that is not device-class. -/
def State.inL1 (s : State) (p : Place) : Bool :=
  p.attr != 2 && (match s.region p.pa with
    | .hbm | .cxl | .fabric _ .hbm => true
    | _ => false)

/-- A load of n bytes at the place of an address in a space. A STASH load reads the sector's bytes in the
scratchpad (R285). -/
def State.load (s : State) (space : Nat) (addr : Word) (p : Place) (n : Nat) : State × Nat :=
  if space = 2 then (s, readNat s.mem (s.stashHome s.cur.core addr.toNat) n)
  else
    let (s, v) := (s.guardDevice s.cur.core p).loadAt (dieOf s.cur.core) p n
    (if s.inL1 p then s.l1Fill s.cur.core p.pa n else s, v)

/-- The sector at a stash offset becomes dirty with the bytes stored (R285). -/
def State.stashWrite (s : State) (off n v : Nat) : State :=
  let c := s.core s.cur.core
  let on (x : StashSector) : StashSector :=
    if x.ctx = s.cur.ctx ∧ x.sector = off / 32 then { x with dirty := true } else x
  let s := s.setCore s.cur.core { c with sectors := c.sectors.map on }
  { s with mem := writeNat s.mem (s.stashHome s.cur.core off) n v }.fireAt none (s.stashHome s.cur.core off) n

/-- A store of n bytes at the place of an address in a space; one that reaches no memory is reported (R251). -/
def State.store (s : State) (space : Nat) (addr : Word) (p : Place) (n v : Nat) : State :=
  let die := dieOf s.cur.core
  if space = 2 then (s.stashWrite addr.toNat n v).storeBy none (some ⟨s.cur.core, s.cur.ctx, addr.toNat / 32⟩) die p n v
  else if s.storeLost p.pa n then { s with cur := s.cur.storeFailed addr }
  else (s.guardDevice s.cur.core p).storeBy (some s.cur.core) none die p n v

/-! ### Domains (R38, R40) -/

/-- The domain record of a thread at a level, if it is a member. -/
def Thread.domAt (t : Thread) (level : Nat) : Option Nat :=
  let w := t.dom[level]?.getD 0
  if w.getLsbD 15 then some (w.toNat % 32768) else none

/-- Whether a domain record is the one of these numbers. -/
def Domain.is (d : Domain) (ctx : Nat) (launch : BitVec 32) (level num : Nat) : Bool :=
  d.ctx == ctx && d.launch == launch && d.level == level && d.num == num

/-- Threads waiting at the BAR of a domain, in ascending identifier (R365). -/
def State.barWaiters (s : State) (ctx : Nat) (launch : BitVec 32) (level num : Nat) : List TRef :=
  ((s.all.filter fun t => t.ctx == ctx && t.launch == launch && t.wait == some (.bar level) &&
      t.domAt level == some num).map (·.tid)).mergeSort.map fun i => { ctx := ctx, tid := i }

/-- Release waiters one after another. -/
def State.release (s : State) : List TRef → State
  | [] => s
  | r :: rest => (s.wake r none 0x2C).release rest

/-- R38: when the arrivals equal the expected count, the phase closes and the waiters go on. A domain
without members stays as it is (R40). -/
def State.closeIfFull (s : State) (ctx : Nat) (launch : BitVec 32) (level num : Nat) : State :=
  match s.domains.find? (·.is ctx launch level num) with
  | none => s
  | some d =>
    if d.expected ≠ 0 ∧ d.arrivals = d.expected then
      let next (e : Domain) : Domain :=
        if e.is ctx launch level num then { e with phase := e.phase + 1, arrivals := 0 } else e
      let s := { s with domains := s.domains.map next }
      s.release (s.barWaiters ctx launch level num)
    else s

/-- R40: the current thread leaves one domain. -/
def State.leaveDomain (s : State) (level : Nat) : State :=
  match s.cur.domAt level with
  | none => s
  | some num =>
    let c := s.cur.ctx
    let l := s.cur.launch
    let here := if s.cur.wait = some (.bar level) then 1 else 0
    let less (e : Domain) : Domain :=
      if e.is c l level num then { e with expected := e.expected - 1, arrivals := e.arrivals - here } else e
    let s := { s with domains := s.domains.map less }
    s.closeIfFull c l level num

/-! ### The completion word and the end of a thread (R56, R57, R59) -/

/-- R56, R59: the update of the completion word that one DONE thread makes. -/
def completion (w : Nat) (n : Nat) (flags : Nat) (fatal : Bool) : Nat :=
  let retired := (w % 2 ^ 32 + 1) % 2 ^ 32
  let err := bits w 40 8
  let err := if fatal ∧ err = 0 then 3 else err
  let fl := (bits w 32 6) ||| flags
  retired + fl * 2 ^ 32 + bits w 38 2 * 2 ^ 38 + err * 2 ^ 40 + bits w 48 15 * 2 ^ 48 +
    (if retired = n ∨ w.testBit 63 then 2 ^ 63 else 0)

/-- The launch of a thread. -/
def State.launchOf (s : State) (t : Thread) : Option Launch :=
  s.launches.find? fun l => l.ctx == t.ctx && l.num == t.launch

/-- Release the current thread's tile grant and empty the macros (R220, R232). -/
def State.releaseTile (s : State) : State :=
  let c := s.core s.cur.core
  if c.tile.holder = some s.cur.ref then
    s.setCore s.cur.core { c with tile := { Tile.reset with acc := c.tile.acc } }
  else s

/-- Steps 2 and 3 of R56 for the current thread, with ERR 3 after a fatal fault (R59); what the thread
held is given up (R398). -/
def State.finish (s : State) (fatal : Bool) : State :=
  let s := (((s.drain.leaveDomain 0).leaveDomain 1).leaveDomain 2).leaveDomain 3
  let s := s.releaseTile
  let r := s.cur.ref
  let s := { s with monitors := s.monitors.filter (·.ref != r), feWaiters := s.feWaiters.filter (· != r),
                    recvWaiters := s.recvWaiters.filter (· != r) }
  let s := s.leaveReady r s.cur.core
  let s := match s.launchOf s.cur with
    | none => s
    | some l =>
      let w := readNat s.mem l.comp 8
      s.storeAt 12 { pa := l.comp, attr := 0 } 8
        (completion w l.n (s.cur.tstat.toNat % 64) fatal)
  { s with cur := { s.cur with run := .done, wait := none, stall := none, mig := none, pending := [],
                               reissue := none, tshape := 0, dying := false, latch := none } }

/-- Whether a transfer of a thread is queued or in progress on some core (R56). -/
def State.hasXfer (s : State) (r : TRef) : Bool :=
  s.cores.any fun e => e.2.streamQ.any (·.ref == r) || (match e.2.xfer with
    | some x => x.ref == r
    | none => false)

/-- R59: a fatal fault ends the current thread once its transfers have completed (R56). -/
def State.fatal (s : State) : State :=
  if s.hasXfer s.cur.ref then { s with cur := { s.cur with dying := true } } else s.finish true

/-! ### Choosing a core (R18, R28, R259, R260) -/

/-- R302: the router of a core on its die, in a product. -/
def routerOf (b : Blend) (core : Nat) : Nat × Nat :=
  let i := core % 4096
  match coreCls b core with
  | some .t => (i / 64 % 6, i / 64 / 6)
  | some .v => (1 + i / 16 % 4, i / 16 / 4)
  | some .c => (1 + 3 * (i / 8), 1)
  | none => (2, 3)

/-- R302: hops between two routers. -/
def hops (a b : Nat × Nat) : Nat := (a.1 - b.1) + (b.1 - a.1) + (a.2 - b.2) + (b.2 - a.2)

/-- R260: the distance between two dies. -/
def dieDistance (a b : Nat) : Nat :=
  if a = b then 0 else if (a + 1) % 12 = b ∨ (b + 1) % 12 = a then 1 else 2

/-- R260: the keys of a destination: die distance, hops, number. -/
def coreKey (b : Blend) (src dest : Nat) : Nat :=
  let h := if dieOf src = dieOf dest then hops (routerOf b src) (routerOf b dest)
    else hops (2, 3) (routerOf b dest)
  dieDistance (dieOf src) (dieOf dest) * 2 ^ 40 + h * 2 ^ 20 + dest

/-- R28: the widest element tag live in a thread. -/
def Thread.widest (t : Thread) : Nat := t.v.toList.foldl (fun w x => max w (tagWidth x.tag)) 0

/-- R28: a V-core on which vl would exceed VLMAX at the widest live tag is excluded. -/
def State.vlFits (s : State) (t : Thread) (core : Nat) : Bool :=
  match s.cls core with
  | some .v => t.widest == 0 || decide (t.vl.toNat ≤ s.vlmax core t.widest)
  | _ => true

/-- R260: every holder of a core is held by a thread in system state. -/
def State.systemFull (s : State) (core : Nat) : Bool :=
  (List.range (s.holders core)).all fun k =>
    s.all.any fun t => t.core == core && t.slot == k && (t.run == .run || t.run == .waitb) && t.st stSYS

/-- The available cores of a class in a context's core table (R408). -/
def State.candidates (s : State) (ctx : Nat) (k : Cls) : List Nat :=
  (s.coreEntries ctx).filterMap fun e =>
    match s.available ctx e.1 with
    | some p => if s.cls p = some k then some p else none
    | none => none

/-- The number with the least key. -/
def leastBy (key : Nat → Nat) : List Nat → Option Nat
  | [] => none
  | a :: t => match leastBy key t with
    | none => some a
    | some b => if key b < key a then some b else some a

/-- R260: the destination of a class for the current thread; `sys` for a system handler. -/
def State.chooseCore (s : State) (k : Cls) (sys : Bool) : Option Nat :=
  leastBy (coreKey s.blend s.cur.core) ((s.candidates s.cur.ctx k).filter fun p =>
    p != s.cur.core && s.vlFits s.cur p && !(sys && s.systemFull p))

/-! ### The save area (R131, R493) -/

/-- Write 8-byte words of a number into the current thread's save area from an offset; false where a
page refuses the access. -/
def State.saveWrite (s : State) (off : Nat) : Nat → Nat → State × Bool
  | 0, _ => (s, true)
  | n + 1, v =>
    match s.global (s.cur.saveArea.toNat + off) 8 wantStore with
    | (s, .error _) => (s, false)
    | (s, .ok p) =>
      if s.badRange p.pa 8 then (s, false)
      else (s.guardedStore s.cur.core p 8 (v % 2 ^ 64)).saveWrite (off + 8) n (v / 2 ^ 64)

/-- Read 8-byte words of the current thread's save area. -/
def State.saveRead (s : State) (off : Nat) : Nat → State × Option Nat
  | 0 => (s, some 0)
  | n + 1 =>
    match s.global (s.cur.saveArea.toNat + off) 8 wantLoad with
    | (s, .error _) => (s, none)
    | (s, .ok p) =>
      let (s, v) := s.guardedLoad s.cur.core p 8
      match s.saveRead (off + 8) n with
      | (s, some w) => (s, some (v + w * 2 ^ 64))
      | (s, none) => (s, none)

/-- One entry of a convoy record as a number (R255). -/
def ConvoyEntry.word (e : ConvoyEntry) : Nat :=
  e.iaddr.toNat + e.start.toNat * 2 ^ 32 + e.vl.toNat * 2 ^ 44 + (if e.pp then 2 ^ 56 else 0) +
    e.pfxl.toNat * 2 ^ 64

/-- The 64 bytes of a convoy record as a number (R255). -/
def Convoy.word (c : Convoy) : Nat :=
  (if c.valid then 1 else 0) + (c.entries.length - 1) * 2 + c.resume.toNat * 2 ^ 64 +
    (c.entries.foldr (fun e n => e.word + 2 ^ 96 * n) 0) * 2 ^ 128

/-- The entry that a number holds. -/
def ConvoyEntry.ofNat (n : Nat) : ConvoyEntry :=
  { iaddr := BitVec.ofNat 32 n, start := BitVec.ofNat 12 (n / 2 ^ 32), vl := BitVec.ofNat 12 (n / 2 ^ 44),
    pp := n.testBit 56, pfxl := BitVec.ofNat 12 (n / 2 ^ 64) }

/-- The record that 64 bytes hold. -/
def Convoy.ofNat (n : Nat) : Convoy :=
  { valid := n.testBit 0, resume := BitVec.ofNat 64 (n / 2 ^ 64),
    entries := (List.range (bits n 1 2 + 1)).map fun i => .ofNat (n / 2 ^ (128 + 96 * i)) }

/-! ### Migration, traps and faults -/

/-- R45: a window of 4,096 retired instructions ends, with the target that its counts give. -/
def Thread.windowEnd (t : Thread) (k : Option Cls) : Thread :=
  { t with winInstr := 0, winVec := 0, winMat := 0, hold := t.hold - 1, target := if t.hold = 0 then k else none }

/-- R44: the current thread leaves its holder for another core. The packet is injected by the event
MIGRATION_INJECT. A window that is full ends here, and the migration clears its target (R45). -/
def State.startMigration (s : State) (m : Mig) : State :=
  let s := (s.leaveReady s.cur.ref s.cur.core).drain
  let t := s.cur
  let t := if 4096 ≤ t.winInstr then t.windowEnd none else t
  { s with cur := { t with run := .transit, mig := some m, grantFwd := m.fwd, restoredRun := false, leaving := false } }

/-- A trap that an instruction raises: code, `trval`, the element reported, and START of its convoy
entry where the instruction is convoy-eligible (R247, R254). -/
structure Trap where
  code : Nat
  val : Word
  elem : Option Nat
  start : Option Nat
  deriving DecidableEq, Repr

/-- A trap without an element or a convoy. -/
def Trap.plain (code : Nat) (val : Word) : Trap := { code := code, val := val, elem := none, start := none }

/-- R247: the causes whose handler runs in system state. -/
def systemCause (code : Nat) : Bool := code == 0x0A || code == 0x0B || code == 0x0C || code == 0x0E

/-- Steps 3 and 4 of R248: the trap registers, PP and PFXL (R87), and the convoy record of R254 and
R255 with `vesr`. A record that is already valid is kept (R254). -/
def Thread.trapRegs (t : Thread) (x : Trap) (async : Bool) : Thread :=
  let cause : Word := BitVec.ofNat 64 (x.code + (if x.elem.isSome then 0x100 else 0) + (if async then 0x200 else 0))
  let t := { t with trpc := t.pc &&& ~~~(3 : Word), trcause := cause, trval := x.val,
                    trelem := BitVec.ofNat 64 (x.elem.getD 0 % 4096) }
  let start := x.start.orElse fun _ => t.reissue.map fun _ => t.vesr.toNat
  let entry : ConvoyEntry :=
    { iaddr := BitVec.ofNat 32 (t.pc.toNat / 4), start := BitVec.ofNat 12 (start.getD 0),
      vl := t.vl.setWidth 12, pp := t.latch.isSome, pfxl := t.latch.getD 0 }
  let resume := match t.reissue with
    | some r => r.resume
    | none => t.pc + 4
  let rest := match t.reissue with
    | some r => r.rest
    | none => []
  let t := match start with
    | none => t
    | some k =>
      if t.convoy.valid then t
      else { t with vesr := BitVec.ofNat 64 k,
                    convoy := { valid := true, resume := resume, entries := entry :: rest } }
  let t := match t.reissue with
    | some r => { t with vl := r.vl, reissue := none }
    | none => t
  match t.latch with
  | some l => { (t.setSt stPP true).setPfxl l with latch := none }
  | none => (t.setSt stPP false).setPfxl 0

/-- Steps 1, 3 and 4 of R248; the record goes to the save block, and false means that a page of it
refused the write (R493). -/
def State.trapEntry (s : State) (x : Trap) (async : Bool) : State × Bool :=
  let old := s.cur.convoy
  let s := s.drain
  let s := { s with cur := s.cur.trapRegs x async }
  if s.cur.convoy = old then (s, true) else s.saveWrite 0x0C0 8 s.cur.convoy.word

/-- R248: entry to the thread's own handler, or the fatal fault of step 2. -/
def State.threadTrap (s : State) (x : Trap) : State :=
  if s.cur.st stINTRAP ∨ s.cur.trvec.toNat / 256 = 0 then s.fatal
  else match s.trapEntry x false with
    | (s, false) => s.fatal
    | (s, true) =>
      let t := s.cur.setSt stINTRAP true
      { s with cur := { t with pc := t.trvec &&& ~~~(0xFF : Word) } }

/-- R76: the lowest poisoned register: its number, and whether it is a vector register. -/
def Thread.lowestPoison (t : Thread) : Option (Nat × Bool) :=
  match (List.range 32).find? fun r => r != 0 && t.poison.getLsbD r with
  | some r => some (r, false)
  | none => match (List.range 32).find? fun r => tagPoison (t.getV (BitVec.ofNat 5 r)).tag with
    | some r => some (r, true)
    | none => none

/-- R249: entry to the system handler. Poison turns it into the poison-consumed fault (R76); a thread
on another class migrates to a C-core first. -/
def State.systemTrap (s : State) (x : Trap) (async : Bool) : State :=
  if s.cur.st stINTRAP ∨ s.systvec.toNat / 256 = 0 then s.fatal
  else
    let p := s.cur.latch
    match s.trapEntry x async with
    | (s, false) => s.fatal
    | (s, true) =>
      let t := s.cur
      match t.lowestPoison with
      | some (r, vec) =>
        { s with cur := { t with latch := p } }.threadTrap
          (.plain 2 (BitVec.ofNat 64 (r + (if vec then 32 else 0) + 0x100)))
      | none =>
        let t := (t.setSt stSYS true).setSt stINTRAP true
        let t := { t with pc := s.systvec &&& ~~~(0xFF : Word) }
        let s := { s with cur := t }
        if s.cls t.core = some .c then s
        else match s.chooseCore .c true with
          | none => s.fatal
          | some d => s.startMigration { dest := d, src := t.core, cause := 0, fwd := 0, sys := true,
                                         fixed := false, sched := false, injected := false }

/-- Taking an exception (R247-R249). -/
def State.trap (s : State) (x : Trap) : State :=
  if systemCause x.code then s.systemTrap x false else s.threadTrap x

/-- R88: reload the prefix latch from PFXL when PP is set, and clear PP. -/
def Thread.reloadLatch (t : Thread) : Thread :=
  if t.st stPP then { t.setSt stPP false with latch := some t.pfxl } else t

/-- Returning from an exception (R269): the convoy is abandoned. -/
def Thread.trapReturn (t : Thread) : Thread :=
  let t := { t with convoy := { t.convoy with valid := false } }
  let t := ((t.setSt stINTRAP false).setSt stSYS false).reloadLatch
  { t with pc := t.trpc &&& ~~~(3 : Word) }

/-! ### Deciding the fate of a word (R65-R69, R81, R84, R85) -/

/-- What an instruction's meaning does with a state. -/
inductive Res where
  /-- It completes; the next instruction is at PC + 4. -/
  | done (s : State)
  /-- It has no effect beyond its issue slot but what the state says: it goes on at PC + 4 and leaves `vesr` (R69,
  R181). -/
  | nop (s : State)
  /-- It completes and goes on at an address. -/
  | jump (pc : Word) (s : State)
  /-- It has not completed: it waits, stalls, migrates, or ends the thread; PC is as the state says. -/
  | held (s : State)
  /-- It raises a trap. -/
  | trap (x : Trap) (s : State)

/-- R65: whether a class is in the mark of a major. -/
def inMark (major : Nat) (k : Cls) : Bool :=
  if (0x17 ≤ major ∧ major ≤ 0x1E) ∨ (0x26 ≤ major ∧ major ≤ 0x28) then k != .t
  else if major = 0x20 then k == .t
  else if major = 0x2E then k == .c
  else true

/-- R84: which prefixes a major accepts: scalar predicate, mask predicate, second destination. The
rows that an instruction's entry narrows are narrowed there. -/
def accepts (major : Nat) : Bool × Bool × Bool :=
  if (0x02 ≤ major ∧ major ≤ 0x0A) ∨ (0x0E ≤ major ∧ major ≤ 0x10) ∨ major = 0x22 then (true, false, true)
  else if (0x0B ≤ major ∧ major ≤ 0x0D) ∨ (0x11 ≤ major ∧ major ≤ 0x13) then (true, false, false)
  else if (0x17 ≤ major ∧ major ≤ 0x19) ∨ (0x1B ≤ major ∧ major ≤ 0x1E) ∨ major = 0x26 then (true, true, true)
  else if major = 0x1A ∨ major = 0x1F ∨ major = 0x27 ∨ major = 0x28 then (true, true, false)
  else if major = 0x20 ∨ major = 0x23 ∨ major = 0x25 then (true, false, false)
  else if major = 0x24 then (true, false, true)
  else (false, false, false)

/-- R70: the illegal-instruction fault of a word. -/
def illegal (w : BitVec 32) (reason : Nat) : Trap :=
  .plain 1 (BitVec.ofNat 64 (w.toNat + reason * 2 ^ 32))

/-- R80, R81: the no-suitable-class fault of a word. -/
def noSuitable (w : BitVec 32) (absent : Bool) : Trap :=
  .plain 3 (BitVec.ofNat 64 (w.toNat + (if absent then 2 ^ 32 else 0)))

/-- R259: the first of T, V and C that is in the mark and has an eligible core. -/
def State.classDest (s : State) (major : Nat) : Option Nat :=
  let try' (k : Cls) : Option Nat := if inMark major k then s.chooseCore k false else none
  (try' .t).orElse fun _ => (try' .v).orElse fun _ => try' .c

/-- R81: the migration trap of a word whose major the current class lacks. -/
def State.classTrap (s : State) (w : BitVec 32) (major : Nat) : State :=
  match s.classDest major with
  | none => s.trap (noSuitable w true)
  | some d => s.startMigration { dest := d, src := s.cur.core, cause := 0, fwd := 0, sys := false,
                                 fixed := false, sched := false, injected := false }

/-- R273: the next entry of a convoy under restart, or the end of the restart. -/
def Thread.nextEntry (t : Thread) (r : Reissue) : Thread :=
  match r.rest with
  | [] => { t with pc := r.resume, vl := r.vl, vesr := 0, reissue := none }
  | e :: rest =>
    { t with pc := e.iaddr.setWidth 64 <<< 2, vl := e.vl.setWidth 64, vesr := e.start.setWidth 64,
             latch := if e.pp then some e.pfxl else none, reissue := some { r with rest := rest } }

/-- An instruction of a major completes and goes on at an address; one that VRESUME reissued goes on
with the next entry. -/
def Thread.advance (t : Thread) (major : Nat) (pc : Word) : Thread :=
  let t := t.retire major
  match t.reissue with
  | none => { t with pc := pc }
  | some r => t.nextEntry r

/-- A word or an instruction of a major without an effect beyond its issue slot is passed (R69, R181). -/
def Thread.pass (t : Thread) (major : Nat) : Thread :=
  let u := { t.retire major with vesr := t.vesr }
  match t.reissue with
  | none => { u with pc := t.pc + 4 }
  | some r => u.nextEntry r

/-- The result of a meaning becomes the step's outcome; a completing instruction retires (R453). -/
def Res.out (major : Nat) : Res → Host.Outcome State Fault Refusal
  | .done s =>
    .next ({ s with cur := s.cur.advance major (s.cur.pc + 4), failing := none }.count s.cur.core 0)
  | .nop s => .next ({ s with cur := s.cur.pass major, failing := none }.count s.cur.core 0)
  | .jump pc s => .next ({ s with cur := s.cur.advance major pc, failing := none }.count s.cur.core 0)
  | .held s => .next { s with held := true }
  | .trap x s => .next ({ s with failing := none }.trap x)

/-- R253: the drains, which R254 may divide. -/
def isDrain (i : Instr) : Bool :=
  match i with
  | .tdrain .. | .taccld .. => true
  | _ => false

/-- R253: a convoy-eligible instruction of a major. -/
def convoyEligible (i : Instr) (major : Nat) : Bool :=
  isDrain i || (decide (0x17 ≤ major) && decide (major ≤ 0x1C)) || (decide (0x26 ≤ major) && decide (major ≤ 0x28))

/-- R271: a drain that completes sets `vesr` to 0; for the vector majors retiring does. -/
def Thread.endDrain (t : Thread) (i : Instr) : Thread := if isDrain i then { t with vesr := 0 } else t

/-- R70, R84, R254: the fault of a prefix that an instruction refuses; a convoy-eligible one is entry 0 of a convoy,
from its START. -/
def refusedPrefix (i : Instr) (major : Nat) (t : Thread) : Trap :=
  { illegal (encode i) 3 with start := if convoyEligible i major then some t.vesr.toNat else none }

/-- Steps 5 to 8 of R67 and the frame of R85. `zero` is ZeroDest with its copy; `body` runs with the
latch, which holds a mask predicate only where `acc` allows it. An instruction whose queue is full has not issued
(R358). -/
def issue (i : Instr) (acc : Bool × Bool × Bool) (zero : State → Res) (body : Option (BitVec 12) → State → Res)
    (s : State) : Host.Outcome State Fault Refusal :=
  let w := encode i
  let major := bits w.toNat 26 6
  match s.cls s.cur.core with
  | some k =>
    if inMark major k = false then .next (s.classTrap w major)
    else if s.cur.queueFull k i major then .next { s with held := true }
    else match s.cur.latch with
      | none => (body none s).out major
      | some l =>
        if (lPK l = false ∧ acc.1 = false) ∨ (lPK l = true ∧ acc.2.1 = false) ∨ (lDE l = true ∧ acc.2.2 = false) then
          .next (s.trap (refusedPrefix i major s.cur))
        else if lPK l = false ∧ (s.cur.getP (lPN l) != lPI l) = false then
          let s := { s with cur := s.cur.endDrain i }
          (if lZM l then zero s else .done s).out major
        else (body (some l) s).out major
  | none => .next s

/-- The first poisoned operand in the order a, b, c, d (R75): the registers with their positions. -/
def Thread.firstPoison (t : Thread) : List (BitVec 5 × Nat) → Option Word
  | [] => none
  | (r, pos) :: rest =>
    if t.poisonedS r then some (BitVec.ofNat 64 (r.toNat + pos * 64)) else t.firstPoison rest

/-- R72: raise the poison-consumed fault before any effect if an operand is poisoned; a disabled instruction and a
hint never get here (R74). -/
def consume (l : List (BitVec 5 × Nat)) (k : State → Res) (s : State) : Res :=
  match s.cur.firstPoison l with
  | some v => .trap (.plain 2 v) s
  | none => k s

/-- An instruction with a scalar destination: ZeroDest writes 0, CopyDest copies it (R85). -/
def scalarDest (i : Instr) (d : BitVec 5) (body : State → Res) (s : State) : Host.Outcome State Fault Refusal :=
  let finish (s : State) : State := { s with cur := s.cur.copyS d }
  issue i (accepts (bits (encode i).toNat 26 6))
    (fun s => .done (finish { s with cur := s.cur.setS d 0 false }))
    (fun _ s => match body s with
      | .done s => .done (finish s)
      | .nop s => .nop (finish s)
      | .jump pc s => .jump pc (finish s)
      | r => r) s

/-- An instruction without a destination that ZeroDest or CopyDest could write. -/
def plainOp (i : Instr) (body : State → Res) (s : State) : Host.Outcome State Fault Refusal :=
  issue i (accepts (bits (encode i).toNat 26 6)) .done (fun _ s => body s) s

end Sys2Proof.Machine
end

