-- ==== Sys2Proof/Machine/Scalar.lean ====
section
/-!
DEFINITION. The scalar instructions of majors 0x01 to 0x13 (R82, R161-R174): prefix, integer,
constants, bit fields, multiply and divide, compares, select, floating point, branches and calls.
-/

namespace Sys2Proof.Machine

/-- R82, R83: PFX sets the latch to its bits [25:14]; a second PFX raises reason 2 (R67). -/
def execPfx (d : BitVec 5) (e k : BitVec 1) (n : BitVec 3) (i z : BitVec 1) (s : State) :
    Host.Outcome State Fault Refusal :=
  match s.cur.latch with
  | some _ => .next (s.trap (illegal (encode (.pfx d e k n i z)) 2))
  | none =>
    let l : BitVec 12 := d ++ e ++ k ++ n ++ i ++ z
    let t := s.cur.retire 1
    .next ({ s with cur := { t with latch := some l, pc := t.pc + 4 } }.count t.core 0)

/-! ### Shared forms -/

/-- Write a scalar result; it is poisoned if a named source is (R71). -/
def State.putS (s : State) (d : BitVec 5) (v : Word) (srcs : List (BitVec 5)) : State :=
  { s with cur := s.cur.setS d v (srcs.any s.cur.poisonedS) }

/-- d := f(A). -/
def aluA (i : Instr) (d a : BitVec 5) (f : Word → Word) : State → Host.Outcome State Fault Refusal :=
  scalarDest i d fun s => .done (s.putS d (f (s.cur.getS a)) [a])

/-- d := f(A, B). -/
def aluAB (i : Instr) (d a b : BitVec 5) (f : Word → Word → Word) : State → Host.Outcome State Fault Refusal :=
  scalarDest i d fun s => .done (s.putS d (f (s.cur.getS a) (s.cur.getS b)) [a, b])

/-- Leading zero bits, from bit n - 1 down. -/
def clzFrom (w : Word) : Nat → Nat
  | 0 => 0
  | n + 1 => if w.getLsbD n then 0 else 1 + clzFrom w n

/-- Trailing zero bits; `k` bits are left to look at from bit 64 - k up. -/
def ctzFrom (w : Word) : Nat → Nat
  | 0 => 0
  | k + 1 => if w.getLsbD (63 - k) then 0 else 1 + ctzFrom w k

/-- One bits below bit n. -/
def popFrom (w : Word) : Nat → Nat
  | 0 => 0
  | n + 1 => (if w.getLsbD n then 1 else 0) + popFrom w n

/-- The low n bytes in reverse order. -/
def byteRev (w : Nat) : Nat → Nat
  | 0 => 0
  | n + 1 => w % 256 * 256 ^ n + byteRev (w / 256) n

/-- The signed minimum (R161). -/
def minS (a b : Word) : Word := if a.toInt ≤ b.toInt then a else b

/-- The signed maximum. -/
def maxS (a b : Word) : Word := if a.toInt ≤ b.toInt then b else a

/-- The unsigned minimum. -/
def minU (a b : Word) : Word := if a.toNat ≤ b.toNat then a else b

/-- The unsigned maximum. -/
def maxU (a b : Word) : Word := if a.toNat ≤ b.toNat then b else a

/-- The shift count B[5:0] (R161). -/
def shiftCount (b : Word) : Nat := b.toNat % 64

/-- A 64-bit mask of the field [pos + len - 1 : pos] (R164). -/
def fieldMask (p l : BitVec 6) : Word := BitVec.ofNat 64 ((2 ^ l.toNat - 1) * 2 ^ p.toNat)

/-- The field of a register, zero-extended (R164). -/
def fieldOf (w : Word) (p l : BitVec 6) : Nat := bits w.toNat p.toNat l.toNat

/-! ### Integer, major 0x02 (R161) -/

/-- ADD: (A + B) mod 2^64. -/
def execAdd (d a b : BitVec 5) : State → Host.Outcome State Fault Refusal :=
  aluAB (.add d a b) d a b fun x y => x + y

/-- SUB: (A − B) mod 2^64. -/
def execSub (d a b : BitVec 5) : State → Host.Outcome State Fault Refusal :=
  aluAB (.sub d a b) d a b fun x y => x - y

/-- AND. -/
def execAnd (d a b : BitVec 5) : State → Host.Outcome State Fault Refusal :=
  aluAB (.and d a b) d a b fun x y => x &&& y

/-- OR. -/
def execOr (d a b : BitVec 5) : State → Host.Outcome State Fault Refusal :=
  aluAB (.or d a b) d a b fun x y => x ||| y

/-- XOR. -/
def execXor (d a b : BitVec 5) : State → Host.Outcome State Fault Refusal :=
  aluAB (.xor d a b) d a b fun x y => x ^^^ y

/-- ANDCM: A and not B. -/
def execAndcm (d a b : BitVec 5) : State → Host.Outcome State Fault Refusal :=
  aluAB (.andcm d a b) d a b fun x y => x &&& ~~~y

/-- ORCM: A or not B. -/
def execOrcm (d a b : BitVec 5) : State → Host.Outcome State Fault Refusal :=
  aluAB (.orcm d a b) d a b fun x y => x ||| ~~~y

/-- EQV. -/
def execEqv (d a b : BitVec 5) : State → Host.Outcome State Fault Refusal :=
  aluAB (.eqv d a b) d a b fun x y => ~~~(x ^^^ y)

/-- SLL. -/
def execSll (d a b : BitVec 5) : State → Host.Outcome State Fault Refusal :=
  aluAB (.sll d a b) d a b fun x y => x <<< shiftCount y

/-- SRL. -/
def execSrl (d a b : BitVec 5) : State → Host.Outcome State Fault Refusal :=
  aluAB (.srl d a b) d a b fun x y => x >>> shiftCount y

/-- SRA. -/
def execSra (d a b : BitVec 5) : State → Host.Outcome State Fault Refusal :=
  aluAB (.sra d a b) d a b fun x y => x.sshiftRight (shiftCount y)

/-- ROL. -/
def execRol (d a b : BitVec 5) : State → Host.Outcome State Fault Refusal :=
  aluAB (.rol d a b) d a b fun x y => x.rotateLeft (shiftCount y)

/-- ROR. -/
def execRor (d a b : BitVec 5) : State → Host.Outcome State Fault Refusal :=
  aluAB (.ror d a b) d a b fun x y => x.rotateRight (shiftCount y)

/-- MIN, signed. -/
def execMin (d a b : BitVec 5) : State → Host.Outcome State Fault Refusal :=
  aluAB (.min d a b) d a b fun x y => minS x y

/-- MAX, signed. -/
def execMax (d a b : BitVec 5) : State → Host.Outcome State Fault Refusal :=
  aluAB (.max d a b) d a b fun x y => maxS x y

/-- MINN, unsigned. -/
def execMinn (d a b : BitVec 5) : State → Host.Outcome State Fault Refusal :=
  aluAB (.minn d a b) d a b fun x y => minU x y

/-- MAXN, unsigned. -/
def execMaxn (d a b : BitVec 5) : State → Host.Outcome State Fault Refusal :=
  aluAB (.maxn d a b) d a b fun x y => maxU x y

/-- IXADD1: A × 2 + B. -/
def execIxadd1 (d a b : BitVec 5) : State → Host.Outcome State Fault Refusal :=
  aluAB (.ixadd1 d a b) d a b fun x y => x <<< (1 : Nat) + y

/-- IXADD2: A × 4 + B. -/
def execIxadd2 (d a b : BitVec 5) : State → Host.Outcome State Fault Refusal :=
  aluAB (.ixadd2 d a b) d a b fun x y => x <<< (2 : Nat) + y

/-- IXADD3: A × 8 + B. -/
def execIxadd3 (d a b : BitVec 5) : State → Host.Outcome State Fault Refusal :=
  aluAB (.ixadd3 d a b) d a b fun x y => x <<< (3 : Nat) + y

/-- CLZ. -/
def execClz (d a : BitVec 5) : State → Host.Outcome State Fault Refusal :=
  aluA (.clz d a) d a fun x => BitVec.ofNat 64 (clzFrom x 64)

/-- CTZ. -/
def execCtz (d a : BitVec 5) : State → Host.Outcome State Fault Refusal :=
  aluA (.ctz d a) d a fun x => BitVec.ofNat 64 (ctzFrom x 64)

/-- POPC. -/
def execPopc (d a : BitVec 5) : State → Host.Outcome State Fault Refusal :=
  aluA (.popc d a) d a fun x => BitVec.ofNat 64 (popFrom x 64)

/-- BYTEREV. -/
def execByterev (d a : BitVec 5) : State → Host.Outcome State Fault Refusal :=
  aluA (.byterev d a) d a fun x => BitVec.ofNat 64 (byteRev x.toNat 8)

/-! ### Immediates and constants, majors 0x03 to 0x06, 0x09, 0x0A (R162, R163) -/

/-- ADDI. -/
def execAddi (d a : BitVec 5) (i : BitVec 16) : State → Host.Outcome State Fault Refusal :=
  aluA (.addi d a i) d a fun x => x + sext i

/-- ANDI. -/
def execAndi (d a : BitVec 5) (i : BitVec 16) : State → Host.Outcome State Fault Refusal :=
  aluA (.andi d a i) d a fun x => x &&& zext i

/-- ORI. -/
def execOri (d a : BitVec 5) (i : BitVec 16) : State → Host.Outcome State Fault Refusal :=
  aluA (.ori d a i) d a fun x => x ||| zext i

/-- XORI. -/
def execXori (d a : BitVec 5) (i : BitVec 16) : State → Host.Outcome State Fault Refusal :=
  aluA (.xori d a i) d a fun x => x ^^^ zext i

/-- LDHI: SignExtend(imm21) × 65,536. -/
def execLdhi (d : BitVec 5) (i : BitVec 21) : State → Host.Outcome State Fault Refusal :=
  scalarDest (.ldhi d i) d fun s => .done (s.putS d (sext i <<< (16 : Nat)) [])

/-- ADDPC: PC + SignExtend(imm21) × 4. -/
def execAddpc (d : BitVec 5) (i : BitVec 21) : State → Host.Outcome State Fault Refusal :=
  scalarDest (.addpc d i) d fun s => .done (s.putS d (s.cur.pc + sext i <<< (2 : Nat)) [])

/-! ### Bit fields and immediate shifts, major 0x07 (R164) -/

/-- SLLI. -/
def execSlli (d a : BitVec 5) (p : BitVec 6) : State → Host.Outcome State Fault Refusal :=
  aluA (.slli d a p) d a fun x => x <<< p.toNat

/-- SRLI. -/
def execSrli (d a : BitVec 5) (p : BitVec 6) : State → Host.Outcome State Fault Refusal :=
  aluA (.srli d a p) d a fun x => x >>> p.toNat

/-- SRAI. -/
def execSrai (d a : BitVec 5) (p : BitVec 6) : State → Host.Outcome State Fault Refusal :=
  aluA (.srai d a p) d a fun x => x.sshiftRight p.toNat

/-- RORI. -/
def execRori (d a : BitVec 5) (p : BitVec 6) : State → Host.Outcome State Fault Refusal :=
  aluA (.rori d a p) d a fun x => x.rotateRight p.toNat

/-- BEXT: the field, zero-extended. -/
def execBext (d a : BitVec 5) (p l : BitVec 6) : State → Host.Outcome State Fault Refusal :=
  aluA (.bext d a p l) d a fun x => BitVec.ofNat 64 (fieldOf x p l)

/-- BEXTS: the field, sign-extended. -/
def execBexts (d a : BitVec 5) (p l : BitVec 6) : State → Host.Outcome State Fault Refusal :=
  aluA (.bexts d a p l) d a fun x => BitVec.ofInt 64 (signedOf l.toNat (fieldOf x p l))

/-- BCLRF. -/
def execBclrf (d a : BitVec 5) (p l : BitVec 6) : State → Host.Outcome State Fault Refusal :=
  aluA (.bclrf d a p l) d a fun x => x &&& ~~~(fieldMask p l)

/-- BSETF. -/
def execBsetf (d a : BitVec 5) (p l : BitVec 6) : State → Host.Outcome State Fault Refusal :=
  aluA (.bsetf d a p l) d a fun x => x ||| fieldMask p l

/-- BINS: S[d] with the field replaced by the low bits of A; d is a source too. -/
def execBins (d a : BitVec 5) (p l : BitVec 6) : State → Host.Outcome State Fault Refusal :=
  aluAB (.bins d a p l) d a d fun x y =>
    (y &&& ~~~(fieldMask p l)) ||| (x <<< p.toNat &&& fieldMask p l)

/-! ### Multiply and divide, major 0x08 (R165) -/

/-- Bits [127:64] of an exact product. -/
def highOf (p : Int) : Word := BitVec.ofInt 64 (p / 2 ^ 64)

/-- QUOI: truncated toward zero; 0 where B = 0; the most negative number by −1 gives itself. -/
def quoSigned (x y : Word) : Word := if y = 0 then 0 else BitVec.ofInt 64 (x.toInt.tdiv y.toInt)

/-- REMI: with the sign of the dividend; A where B = 0. -/
def remSigned (x y : Word) : Word := if y = 0 then x else BitVec.ofInt 64 (x.toInt.tmod y.toInt)

/-- MULLO. -/
def execMullo (d a b : BitVec 5) : State → Host.Outcome State Fault Refusal :=
  aluAB (.mullo d a b) d a b fun x y => x * y

/-- MULHNN. -/
def execMulhnn (d a b : BitVec 5) : State → Host.Outcome State Fault Refusal :=
  aluAB (.mulhnn d a b) d a b fun x y => highOf (x.toNat * y.toNat : Nat)

/-- MULHII. -/
def execMulhii (d a b : BitVec 5) : State → Host.Outcome State Fault Refusal :=
  aluAB (.mulhii d a b) d a b fun x y => highOf (x.toInt * y.toInt)

/-- MULHIN. -/
def execMulhin (d a b : BitVec 5) : State → Host.Outcome State Fault Refusal :=
  aluAB (.mulhin d a b) d a b fun x y => highOf (x.toInt * (y.toNat : Int))

/-- QUON: 0 where B = 0. -/
def execQuon (d a b : BitVec 5) : State → Host.Outcome State Fault Refusal :=
  aluAB (.quon d a b) d a b fun x y => if y = 0 then 0 else BitVec.ofNat 64 (x.toNat / y.toNat)

/-- QUOI. -/
def execQuoi (d a b : BitVec 5) : State → Host.Outcome State Fault Refusal :=
  aluAB (.quoi d a b) d a b fun x y => quoSigned x y

/-- REMN: A where B = 0. -/
def execRemn (d a b : BitVec 5) : State → Host.Outcome State Fault Refusal :=
  aluAB (.remn d a b) d a b fun x y => if y = 0 then x else BitVec.ofNat 64 (x.toNat % y.toNat)

/-- REMI. -/
def execRemi (d a b : BitVec 5) : State → Host.Outcome State Fault Refusal :=
  aluAB (.remi d a b) d a b fun x y => remSigned x y

/-! ### Compares and predicate logic, majors 0x0B to 0x0D (R166-R168) -/

/-- Write a predicate by cm (R166). -/
def Thread.combine (t : Thread) (p : BitVec 3) (c : BitVec 2) (r : Bool) : Thread :=
  match c.toNat with
  | 0 => t.setP p r
  | 1 => t.setP p (t.getP p && r)
  | _ => t.setP p (t.getP p || r)

/-- An instruction that writes a predicate; disabled with ZM it clears it (R166). -/
def predDest (i : Instr) (p : BitVec 3) (body : State → Res) : State → Host.Outcome State Fault Refusal :=
  issue i (accepts (bits (encode i).toNat 26 6))
    (fun s => .done { s with cur := s.cur.setP p false }) (fun _ s => body s)

/-- A compare of two registers; poisoned operands are consumed, a first (R166). -/
def cmpAB (i : Instr) (p : BitVec 3) (c : BitVec 2) (a b : BitVec 5) (f : Word → Word → Bool) :
    State → Host.Outcome State Fault Refusal :=
  predDest i p (consume [(a, 0), (b, 1)] fun s =>
    .done { s with cur := s.cur.combine p c (f (s.cur.getS a) (s.cur.getS b)) })

/-- A compare with a constant (R167). -/
def cmpAI (i : Instr) (p : BitVec 3) (c : BitVec 2) (a : BitVec 5) (k : Word) (f : Word → Word → Bool) :
    State → Host.Outcome State Fault Refusal :=
  predDest i p (consume [(a, 0)] fun s =>
    .done { s with cur := s.cur.combine p c (f (s.cur.getS a) k) })

/-- A floating compare: `strict` sets NV for any NaN, otherwise only for a signalling one (R166). -/
def fcmpAB (i : Instr) (p : BitVec 3) (c : BitVec 2) (a b : BitVec 5) (fm : BitVec 2) (strict : Bool)
    (f : FVal → FVal → Bool) : State → Host.Outcome State Fault Refusal :=
  predDest i p (consume [(a, 0), (b, 1)] fun s =>
    let x := (fmtOfCode fm).read (s.cur.getS a)
    let y := (fmtOfCode fm).read (s.cur.getS b)
    let nv := x.isSig || y.isSig || (strict && (x.isNan || y.isNan))
    .done { s with cur := (s.cur.combine p c (f x y)).orFlags (if nv then fNV else 0) })

/-- CMPEQ. -/
def execCmpeq (p : BitVec 3) (c : BitVec 2) (a b : BitVec 5) : State → Host.Outcome State Fault Refusal :=
  cmpAB (.cmpeq p c a b) p c a b fun x y => x == y

/-- CMPEQI. -/
def execCmpeqi (p : BitVec 3) (c : BitVec 2) (a : BitVec 5) (i : BitVec 11) : State → Host.Outcome State Fault Refusal :=
  cmpAI (.cmpeqi p c a i) p c a (sext i) fun x y => x == y

/-- CMPNE. -/
def execCmpne (p : BitVec 3) (c : BitVec 2) (a b : BitVec 5) : State → Host.Outcome State Fault Refusal :=
  cmpAB (.cmpne p c a b) p c a b fun x y => x != y

/-- CMPNEI. -/
def execCmpnei (p : BitVec 3) (c : BitVec 2) (a : BitVec 5) (i : BitVec 11) : State → Host.Outcome State Fault Refusal :=
  cmpAI (.cmpnei p c a i) p c a (sext i) fun x y => x != y

/-- CMPLT. -/
def execCmplt (p : BitVec 3) (c : BitVec 2) (a b : BitVec 5) : State → Host.Outcome State Fault Refusal :=
  cmpAB (.cmplt p c a b) p c a b fun x y => decide (x.toInt < y.toInt)

/-- CMPLTI. -/
def execCmplti (p : BitVec 3) (c : BitVec 2) (a : BitVec 5) (i : BitVec 11) : State → Host.Outcome State Fault Refusal :=
  cmpAI (.cmplti p c a i) p c a (sext i) fun x y => decide (x.toInt < y.toInt)

/-- CMPGE. -/
def execCmpge (p : BitVec 3) (c : BitVec 2) (a b : BitVec 5) : State → Host.Outcome State Fault Refusal :=
  cmpAB (.cmpge p c a b) p c a b fun x y => decide (y.toInt ≤ x.toInt)

/-- CMPGEI. -/
def execCmpgei (p : BitVec 3) (c : BitVec 2) (a : BitVec 5) (i : BitVec 11) : State → Host.Outcome State Fault Refusal :=
  cmpAI (.cmpgei p c a i) p c a (sext i) fun x y => decide (y.toInt ≤ x.toInt)

/-- CMPLTU. -/
def execCmpltu (p : BitVec 3) (c : BitVec 2) (a b : BitVec 5) : State → Host.Outcome State Fault Refusal :=
  cmpAB (.cmpltu p c a b) p c a b fun x y => decide (x.toNat < y.toNat)

/-- CMPLTUI. -/
def execCmpltui (p : BitVec 3) (c : BitVec 2) (a : BitVec 5) (i : BitVec 11) : State → Host.Outcome State Fault Refusal :=
  cmpAI (.cmpltui p c a i) p c a (sext i) fun x y => decide (x.toNat < y.toNat)

/-- CMPGEU. -/
def execCmpgeu (p : BitVec 3) (c : BitVec 2) (a b : BitVec 5) : State → Host.Outcome State Fault Refusal :=
  cmpAB (.cmpgeu p c a b) p c a b fun x y => decide (y.toNat ≤ x.toNat)

/-- CMPGEUI. -/
def execCmpgeui (p : BitVec 3) (c : BitVec 2) (a : BitVec 5) (i : BitVec 11) : State → Host.Outcome State Fault Refusal :=
  cmpAI (.cmpgeui p c a i) p c a (sext i) fun x y => decide (y.toNat ≤ x.toNat)

/-- FCMPEQ. -/
def execFcmpeq (p : BitVec 3) (c : BitVec 2) (a b : BitVec 5) (f : BitVec 2) : State → Host.Outcome State Fault Refusal :=
  fcmpAB (.fcmpeq p c a b f) p c a b f false fun x y => numEq x y

/-- FCMPLT. -/
def execFcmplt (p : BitVec 3) (c : BitVec 2) (a b : BitVec 5) (f : BitVec 2) : State → Host.Outcome State Fault Refusal :=
  fcmpAB (.fcmplt p c a b f) p c a b f true fun x y => numLt x y

/-- FCMPLE. -/
def execFcmple (p : BitVec 3) (c : BitVec 2) (a b : BitVec 5) (f : BitVec 2) : State → Host.Outcome State Fault Refusal :=
  fcmpAB (.fcmple p c a b f) p c a b f true fun x y => (numLt x y || numEq x y)

/-- FCMPUN. -/
def execFcmpun (p : BitVec 3) (c : BitVec 2) (a b : BitVec 5) (f : BitVec 2) : State → Host.Outcome State Fault Refusal :=
  fcmpAB (.fcmpun p c a b f) p c a b f false fun x y => (x.isNan || y.isNan)

/-- PLOG: the truth-table bit at 2 × P[pa] + P[pb] (R168). -/
def execPlog (p : BitVec 3) (c : BitVec 2) (a b : BitVec 3) (t : BitVec 4) :
    State → Host.Outcome State Fault Refusal :=
  predDest (.plog p c a b t) p fun s =>
    let k := (if s.cur.getP a then 2 else 0) + (if s.cur.getP b then 1 else 0)
    .done { s with cur := s.cur.combine p c (t.getLsbD k) }

/-- SEL: A if P[c], else B; both are read (R169). -/
def execSel (d a b : BitVec 5) (c : BitVec 3) : State → Host.Outcome State Fault Refusal :=
  scalarDest (.sel d a b c) d fun s =>
    .done (s.putS d (if s.cur.getP c then s.cur.getS a else s.cur.getS b) [a, b])

/-! ### Floating point, majors 0x0F and 0x10 (R170, R171) -/

/-- R156: the rounding mode of a scalar word. -/
def Thread.mode (t : Thread) (r : BitVec 3) : RMode := rmodeOf r.toNat t.rmode

/-- Write a floating result and its flags. -/
def State.putF (s : State) (d : BitVec 5) (r : Word × FFlags) (srcs : List (BitVec 5)) : State :=
  let s := s.putS d r.1 srcs
  { s with cur := s.cur.orFlags r.2 }

/-- d := RoundTo(f(A, B)). -/
def fpAB (i : Instr) (d a b : BitVec 5) (r : BitVec 3) (f : BitVec 2)
    (g : RMode → FVal → FVal → FVal × FFlags) : State → Host.Outcome State Fault Refusal :=
  scalarDest i d fun s =>
    let m := s.cur.mode r
    let fm := fmtOfCode f
    .done (s.putF d (fm.write m (g m (fm.read (s.cur.getS a)) (fm.read (s.cur.getS b)))) [a, b])

/-- The bits of a scalar format in a register. -/
def fmtBits (f : BitVec 2) (w : Word) : Nat := w.toNat % 2 ^ (fmtOfCode f).width

/-- An operation on the bits of A that sets no flag. -/
def fpBits (i : Instr) (d a : BitVec 5) (f : BitVec 2) (g : Nat → Nat → Nat) :
    State → Host.Outcome State Fault Refusal :=
  scalarDest i d fun s =>
    .done (s.putS d (BitVec.ofNat 64 (g (fmtOfCode f).width (fmtBits f (s.cur.getS a)))) [a])

/-- FADD. -/
def execFadd (d a b : BitVec 5) (r : BitVec 3) (f : BitVec 2) : State → Host.Outcome State Fault Refusal :=
  fpAB (.fadd d a b r f) d a b r f fun m x y => fAdd m x y

/-- FSUB. -/
def execFsub (d a b : BitVec 5) (r : BitVec 3) (f : BitVec 2) : State → Host.Outcome State Fault Refusal :=
  fpAB (.fsub d a b r f) d a b r f fun m x y => fSub m x y

/-- FMUL. -/
def execFmul (d a b : BitVec 5) (r : BitVec 3) (f : BitVec 2) : State → Host.Outcome State Fault Refusal :=
  fpAB (.fmul d a b r f) d a b r f fun _ x y => fMul x y

/-- FDIV. -/
def execFdiv (d a b : BitVec 5) (r : BitVec 3) (f : BitVec 2) : State → Host.Outcome State Fault Refusal :=
  fpAB (.fdiv d a b r f) d a b r f fun _ x y => fDiv x y

/-- FSQRT. -/
def execFsqrt (d a : BitVec 5) (r : BitVec 3) (f : BitVec 2) : State → Host.Outcome State Fault Refusal :=
  scalarDest (.fsqrt d a r f) d fun s =>
    let fm := fmtOfCode f
    .done (s.putF d (fm.write (s.cur.mode r) (fSqrt (fm.read (s.cur.getS a)))) [a])

/-- FMIN by R148. -/
def execFmin (d a b : BitVec 5) (f : BitVec 2) : State → Host.Outcome State Fault Refusal :=
  fpAB (.fmin d a b f) d a b 0 f fun _ x y => fMinMax false x y

/-- FMAX by R148. -/
def execFmax (d a b : BitVec 5) (f : BitVec 2) : State → Host.Outcome State Fault Refusal :=
  fpAB (.fmax d a b f) d a b 0 f fun _ x y => fMinMax true x y

/-- FNEG: the sign bit inverted. -/
def execFneg (d a : BitVec 5) (f : BitVec 2) : State → Host.Outcome State Fault Refusal :=
  fpBits (.fneg d a f) d a f fun w x => (x + 2 ^ (w - 1)) % 2 ^ w

/-- FABS: the sign bit cleared. -/
def execFabs (d a : BitVec 5) (f : BitVec 2) : State → Host.Outcome State Fault Refusal :=
  fpBits (.fabs d a f) d a f fun w x => x % 2 ^ (w - 1)

/-- FCPYS: A's magnitude with B's sign. -/
def execFcpys (d a b : BitVec 5) (f : BitVec 2) : State → Host.Outcome State Fault Refusal :=
  scalarDest (.fcpys d a b f) d fun s =>
    let w := (fmtOfCode f).width
    let x := fmtBits f (s.cur.getS a) % 2 ^ (w - 1)
    let y := fmtBits f (s.cur.getS b) / 2 ^ (w - 1)
    .done (s.putS d (BitVec.ofNat 64 (y * 2 ^ (w - 1) + x)) [a, b])

/-- The kind code of R170. -/
def Fmt.kind (f : Fmt) (x : Nat) : Nat :=
  let sign := if x.testBit (f.width - 1) then 8 else 0
  let e := bits x f.m f.e
  let m := bits x 0 f.m
  sign + (match f.value x with
    | .inf _ => 3
    | .nan _ sig _ => if sig then 5 else 4
    | .num _ _ _ => if e = 0 ∧ f ≠ .mxi8 then (if m = 0 then 0 else 1) else 2)

/-- FKIND. -/
def execFkind (d a : BitVec 5) (f : BitVec 2) : State → Host.Outcome State Fault Refusal :=
  scalarDest (.fkind d a f) d fun s =>
    .done (s.putS d (BitVec.ofNat 64 ((fmtOfCode f).kind (fmtBits f (s.cur.getS a)))) [a])

/-- FCVT: from the format of code g into the format of code f; equal formats copy the bits, except
that a signalling NaN is quieted. -/
def execFcvt (d a : BitVec 5) (g : BitVec 2) (r : BitVec 3) (f : BitVec 2) :
    State → Host.Outcome State Fault Refusal :=
  scalarDest (.fcvt d a g r f) d fun s =>
    let x := (fmtOfCode g).read (s.cur.getS a)
    .done (s.putF d ((fmtOfCode f).write (s.cur.mode r) (x, 0)) [a])

/-- FCVTI: into an integer tag (R143), extended to 64 bits by its signedness. -/
def execFcvti (d a t : BitVec 5) (r : BitVec 3) (f : BitVec 2) : State → Host.Outcome State Fault Refusal :=
  scalarDest (.fcvti d a t r f) d fun s =>
    let (x, fl) := ((fmtOfCode f).read (s.cur.getS a)).toInt (s.cur.mode r) (tagSigned t) (tagWidth t)
    .done (s.putF d (BitVec.ofInt 64 (tagIntVal t x), fl) [a])

/-- FCVTF: from an integer tag, the 32-bit ones in [31:0]. -/
def execFcvtf (d a t : BitVec 5) (r : BitVec 3) (f : BitVec 2) : State → Host.Outcome State Fault Refusal :=
  scalarDest (.fcvtf d a t r f) d fun s =>
    let x := intVal (tagIntVal t (s.cur.getS a).toNat)
    .done (s.putF d ((fmtOfCode f).write (s.cur.mode r) (x, 0)) [a])

/-- d := RoundTo(± A × B + C), one rounding (R171). -/
def fpFma (i : Instr) (d a b c : BitVec 5) (f : BitVec 2) (r : BitVec 3) (neg : Bool) :
    State → Host.Outcome State Fault Refusal :=
  scalarDest i d fun s =>
    let m := s.cur.mode r
    let fm := fmtOfCode f
    .done (s.putF d (fm.write m (fFma m neg (fm.read (s.cur.getS a)) (fm.read (s.cur.getS b))
      (fm.read (s.cur.getS c)))) [a, b, c])

/-- FMADD. -/
def execFmadd (d a b c : BitVec 5) (f : BitVec 2) (r : BitVec 3) : State → Host.Outcome State Fault Refusal :=
  fpFma (.fmadd d a b c f r) d a b c f r false

/-- FNMADD: the product negated. -/
def execFnmadd (d a b c : BitVec 5) (f : BitVec 2) (r : BitVec 3) : State → Host.Outcome State Fault Refusal :=
  fpFma (.fnmadd d a b c f r) d a b c f r true

/-! ### Branch and call, majors 0x11 to 0x13 (R172-R174) -/

/-- BR: to PC + SignExtend(off22) × 4 when P[pn] xor neg; a disabled branch is not taken (R85). -/
def execBr (p : BitVec 3) (n : BitVec 1) (o : BitVec 22) : State → Host.Outcome State Fault Refusal :=
  plainOp (.br p n o) fun s =>
    if s.cur.getP p != (n == 1) then .jump (s.cur.pc + sext o <<< (2 : Nat)) s else .done s

/-- CALL: the link is written after the target is formed. -/
def execCall (d : BitVec 5) (i : BitVec 21) : State → Host.Outcome State Fault Refusal :=
  scalarDest (.call d i) d fun s =>
    .jump (s.cur.pc + sext i <<< (2 : Nat)) (s.putS d (s.cur.pc + 4) [])

/-- CALLR: A is read before the link is written; a poisoned A is consumed (R72). -/
def execCallr (d a : BitVec 5) : State → Host.Outcome State Fault Refusal :=
  scalarDest (.callr d a) d (consume [(a, 0)] fun s =>
    .jump (s.cur.getS a &&& ~~~(3 : Word)) (s.putS d (s.cur.pc + 4) []))

end Sys2Proof.Machine
end

