-- ==== Sys2Proof/Machine/Csr.lean ====
section
/-!
DEFINITION. The control and status registers with their numbers and access rules (R7, R116-R127, R175, R252, R451), and what an unassigned word does (R68).
-/

namespace Sys2Proof.Machine

/-! ### Register numbers (R126, R252, R451) -/

/-- Whether a number names a register. -/
def csrAssigned (n : Nat) : Bool :=
  n == 0x000 || n == 0x001 || (decide (0x010 ≤ n) && decide (n ≤ 0x014)) ||
  (decide (0x020 ≤ n) && decide (n ≤ 0x024)) || n == 0x030 || n == 0x031 ||
  (decide (0x040 ≤ n) && decide (n ≤ 0x043)) || (decide (0x050 ≤ n) && decide (n ≤ 0x057)) ||
  n == 0x060 || n == 0x061 || (decide (0x100 ≤ n) && decide (n ≤ 0x104)) ||
  (decide (0x200 ≤ n) && decide (n ≤ 0x211)) || (decide (0x800 ≤ n) && decide (n ≤ 0x803))

/-- R127: in user state every number from 0x800 up counts as assigned. -/
def Thread.csrKnown (t : Thread) (n : Nat) : Bool := csrAssigned n || (decide (0x800 ≤ n) && !t.st stSYS)

/-- R125: `mgnctl`. -/
def CoreSt.mgnctl (c : CoreSt) : Word :=
  BitVec.ofNat 64 (c.step.toNat + 16 * c.top.toNat + (if c.guard then 256 else 0))

/-- R125: `rplcnt`. -/
def CoreSt.rplcnt (c : CoreSt) : Word := BitVec.ofNat 64 (c.rplTotal.toNat + c.rplWin.toNat * 2 ^ 32)

/-- R451: `clkst` of a cluster. -/
def State.clkst (s : State) (k : Nat × Nat) : Word :=
  let c := s.cluster k
  BitVec.ofNat 64 (c.mhz % 4096 + (if s.throttled then 0x1000 else 0) +
    (if c.thc then 0x2000 else 0) + (if c.cuc then 0x4000 else 0) + (if c.bst then 0x8000 else 0) +
    c.lvl.toNat * 0x10000)

/-- R451: `pbud` or `sbud`. -/
def Budget.word (b : Budget) : Word :=
  BitVec.ofNat 64 (b.own.toNat + b.lent.toNat * 2 ^ 16 + b.borr.toNat * 2 ^ 32)

/-- R451: a counter register of a core; none where the number is not one of the table. -/
def State.counterReg (s : State) (core n : Nat) : Option Word :=
  if n = 0x100 then some (BitVec.ofNat 64 s.dtime)
  else if n = 0x101 then some (BitVec.ofNat 64 (s.ccyc core))
  else if n = 0x102 then some (s.clkst (clusterOf s.blend core))
  else if n = 0x103 then some (s.die (dieOf core)).peak.word
  else if n = 0x104 then some (s.die (dieOf core)).sust.word
  else if 0x200 ≤ n ∧ n ≤ 0x211 then some ((s.core core).counters[n - 0x200]?.getD 0)
  else none

/-- The value of an assigned register. The counters sc0 to sc7 are apart (R387). -/
def State.csrValue (s : State) (n : Nat) : Word :=
  let t := s.cur
  match n with
  | 0x000 => (t.pw ||| 1).setWidth 64
  | 0x001 => t.tstat
  | 0x010 => t.vl
  | 0x011 => t.vspace
  | 0x012 => t.vfill
  | 0x013 => t.vesr
  | 0x014 => t.tshape
  | 0x020 => t.trpc
  | 0x021 => t.trcause
  | 0x022 => t.trval
  | 0x023 => t.trelem
  | 0x024 => t.trvec
  | 0x030 => t.xferid
  | 0x031 => t.ulipc
  | 0x040 | 0x041 | 0x042 | 0x043 => (t.dom[n - 0x040]?.getD 0).setWidth 64
  | 0x060 => (s.core t.core).mgnctl
  | 0x061 => (s.core t.core).rplcnt
  | 0x800 => s.systvec
  | 0x801 => s.devfeat
  | 0x802 => s.devrev
  | 0x803 => s.pdefault
  | _ => (s.counterReg t.core n).getD 0

/-- The bits of a register that a write replaces (access RW, R7); no other register has any. -/
def csrRW (n : Nat) : Word :=
  match n with
  | 0x000 => 0xFE
  | 0x001 => 0x7FFF0500
  | 0x011 => 3
  | 0x012 => 0xFFFFFFFFFFFFFFFF
  | 0x013 => 0xFFF
  | 0x020 | 0x031 => 0xFFFFFFFFFFFFFFFC
  | 0x024 | 0x800 => 0xFFFFFFFFFFFFFF00
  | 0x050 | 0x051 | 0x052 | 0x053 | 0x054 | 0x055 | 0x056 | 0x057 => 0xFFFFFFFF
  | 0x803 => 0xFFFF
  | _ => 0

/-- The bits that a written 1 clears (access RW1C): the sticky flags (R119). -/
def csrW1C (n : Nat) : Word := if n = 0x001 then 0x3F else 0

/-- Replace the value of a register that a write can change. -/
def State.csrStore (s : State) (n : Nat) (v : Word) : State :=
  let t := s.cur
  match n with
  | 0x000 => { s with cur := { t with pw := v.setWidth 8 ||| 1 } }
  | 0x001 => { s with cur := { t with tstat := v } }
  | 0x011 => { s with cur := { t with vspace := v } }
  | 0x012 => { s with cur := { t with vfill := v } }
  | 0x013 => { s with cur := { t with vesr := v } }
  | 0x020 => { s with cur := { t with trpc := v } }
  | 0x024 => { s with cur := { t with trvec := v } }
  | 0x031 => { s with cur := { t with ulipc := v } }
  | 0x800 => { s with systvec := v }
  | 0x803 => { s with pdefault := if v = 0 then 50 else v }
  | _ => s

/-- R387: sc_j as a CSR access sees it: the save block while the counters live there; reserved bits read as zero
(R7, R124). -/
def State.scRead (s : State) (j : Nat) : State × Option Word :=
  if s.cur.scAway = false then (s, some (s.cur.sc[j]?.getD 0))
  else match s.saveRead (0x40 + 8 * j) 1 with
    | (s, some v) => (s, some (BitVec.ofNat 64 v &&& 0x1FFFFFFFFFFFF))
    | (s, none) => (s, none)

/-- Replace sc_j; while a transfer of an earlier core runs the save block takes the value too. -/
def State.scWrite (s : State) (j : Nat) (v : Word) : State × Bool :=
  let s := { s with cur := { s.cur with sc := s.cur.sc.setIfInBounds j v } }
  if s.cur.scAway = false then (s, true) else s.saveWrite (0x40 + 8 * j) 1 v.toNat

/-- Whether a register number is one of sc0 to sc7. -/
def isSc (n : Nat) : Bool := decide (0x050 ≤ n) && decide (n ≤ 0x057)

/-- Read an assigned register; a read of tstat waits for the vector instructions (R120). A save block
that cannot be read ends the thread (R493). -/
def State.csrRead (s : State) (n : Nat) : State × Option Word :=
  let s := if n = 0x001 then s.drain else s
  if isSc n then s.scRead (n - 0x050) else (s, some (s.csrValue n))

/-- R175: the three ways a write changes a register. -/
inductive CsrOp where
  | write | set | clear
  deriving DecidableEq, Repr

/-- The value after a write of A to a register that holds `old` (R7, R175). -/
def csrNew (op : CsrOp) (n : Nat) (old a : Word) : Word :=
  let rw := csrRW n
  let c := csrW1C n
  match op with
  | .write => (old &&& ~~~rw &&& ~~~(a &&& c)) ||| (a &&& rw)
  | .set => old ||| (a &&& rw)
  | .clear => old &&& ~~~(a &&& (rw ||| c))

/-- Write an assigned register. -/
def State.csrWrite (s : State) (op : CsrOp) (n : Nat) (a : Word) : State × Bool :=
  match s.csrRead n with
  | (s, none) => (s, false)
  | (s, some old) =>
    if isSc n then s.scWrite (n - 0x050) (csrNew op n old a) else (s.csrStore n (csrNew op n old a), true)

/-! ### Unassigned words (R65, R68, R69) -/

/-- R69: the poison fates have no other effect; a second destination is poisoned as well. -/
def State.poisonS2 (s : State) (d : BitVec 5) : State :=
  let t := s.cur.poisonS d
  match s.cur.latch with
  | some l => { s with cur := if lDE l then t.poisonS (lD2 l) else t }
  | none => { s with cur := t }

/-- A vector register tagged poison, its contents kept (R68). -/
def Thread.poisonV (t : Thread) (v : BitVec 5) : Thread := t.setV v { t.getV v with tag := 0x1F }

def State.poisonV2 (s : State) (v : BitVec 5) : State :=
  let t := s.cur.poisonV v
  match s.cur.latch with
  | some l => { s with cur := if lDE l then t.poisonV (lD2 l) else t }
  | none => { s with cur := t }

/-- What an unassigned word does on a class that implements its major; a poison fate changes no other state (R69). -/
def State.fate (s : State) (w : BitVec 32) : Fate → Res
  | .illegal r => .trap (illegal w r.toNat) s
  | .noSuitableClass => .trap (noSuitable w false) s
  | .poisonS d => .nop (s.poisonS2 d)
  | .poisonV v => .nop (s.poisonV2 v)

/-! ### The CSR instructions (R175) -/

/-- R247: the privileged fault of a word. -/
def privileged (w : BitVec 32) (csr : Nat) : Trap :=
  .plain 5 (BitVec.ofNat 64 (w.toNat + csr * 2 ^ 32))

/-- Steps 6 to 8 of R67 for a CSR access: an unassigned number meets the fate of the major before a
prefix is looked at (R127); the major accepts no prefix; a poisoned A comes before the privileged
fault (R250). -/
def csrOp (i : Instr) (csr : BitVec 12) (fate : Fate) (srcs : List (BitVec 5 × Nat)) (body : State → Res)
    (s : State) : Host.Outcome State Fault Refusal :=
  let w := encode i
  if s.cur.csrKnown csr.toNat = false then (s.fate w fate).out 0x14
  else plainOp i (consume srcs fun s =>
    if 0x800 ≤ csr.toNat ∧ s.cur.st stSYS = false then .trap (privileged w csr.toNat) s
    else body s) s

/-- A read form's fate: poison of s(d), or reason 0 where d is s0 (R68). -/
def readFate (d : BitVec 5) : Fate := if d = 0 then .illegal 0 else .poisonS d

/-- RDCSR: with d = s0 the read is still performed. -/
def execRdcsr (d : BitVec 5) (c : BitVec 12) : State → Host.Outcome State Fault Refusal :=
  csrOp (.rdcsr d c) c (readFate d) [] fun s =>
    match s.csrRead c.toNat with
    | (s, some v) => .done (s.putS d v [])
    | (s, none) => .held s.fatal

/-- A write form without a destination. -/
def csrWriteOp (i : Instr) (op : CsrOp) (a : BitVec 5) (c : BitVec 12) :
    State → Host.Outcome State Fault Refusal :=
  csrOp i c (.illegal 0) [(a, 0)] fun s =>
    match s.csrWrite op c.toNat (s.cur.getS a) with
    | (s, true) => .done s
    | (s, false) => .held s.fatal

/-- WRCSR. -/
def execWrcsr (a : BitVec 5) (c : BitVec 12) : State → Host.Outcome State Fault Refusal :=
  csrWriteOp (.wrcsr a c) .write a c

/-- SETCSR. -/
def execSetcsr (a : BitVec 5) (c : BitVec 12) : State → Host.Outcome State Fault Refusal :=
  csrWriteOp (.setcsr a c) .set a c

/-- CLRCSR. -/
def execClrcsr (a : BitVec 5) (c : BitVec 12) : State → Host.Outcome State Fault Refusal :=
  csrWriteOp (.clrcsr a c) .clear a c

/-- XCHCSR: d := the old value; then write. -/
def execXchcsr (d a : BitVec 5) (c : BitVec 12) : State → Host.Outcome State Fault Refusal :=
  csrOp (.xchcsr d a c) c (.illegal 0) [(a, 0)] fun s =>
    match s.csrRead c.toNat with
    | (s, none) => .held s.fatal
    | (s, some old) =>
      match s.csrWrite .write c.toNat (s.cur.getS a) with
      | (s, true) => .done (s.putS d old [])
      | (s, false) => .held s.fatal

/-- A word that is no assigned encoding (R67 to R69): the hint majors and the migration trap come
before its fate. `w` may be any word; one that is assigned changes nothing. -/
def execUnassignedEncoding (w : BitVec 32) (s : State) : Host.Outcome State Fault Refusal :=
  let major := bits w.toNat 26 6
  match decode w with
  | .ok _ => .next s
  | .error f =>
    match s.cls s.cur.core with
    | none => .next s
    | some k =>
      if major = 1 ∧ s.cur.latch.isSome then .next (s.trap (illegal w 2))
      else if inMark major k = false then .next (s.classTrap w major)
      else (s.fate w f).out major

/-! ### Hints (R78, R355, R371) -/

/-- A hint accepts any prefix, writes nothing, and counts as a retired instruction. -/
def hintOp (f : Thread → Thread) (s : State) : Host.Outcome State Fault Refusal :=
  match s.cls s.cur.core with
  | none => .next s
  | some _ => (Res.done { s with cur := f s.cur }).out 0x3C

/-- PF_L2R: no effect. -/
def execPfL2r (_a : BitVec 5) (_i : BitVec 16) : State → Host.Outcome State Fault Refusal := hintOp id

/-- PF_L2W: no effect. -/
def execPfL2w (_a : BitVec 5) (_i : BitVec 16) : State → Host.Outcome State Fault Refusal := hintOp id

/-- PF_L1: no effect. -/
def execPfL1 (_a : BitVec 5) (_i : BitVec 16) : State → Host.Outcome State Fault Refusal := hintOp id

/-- PRI: sets the thread's service priority (R371). -/
def execPri (n : BitVec 4) : State → Host.Outcome State Fault Refusal := hintOp fun t => { t with priority := n }

/-- Every other hint word; major 0x3C with kind 0x10 to 0x1F still sets the priority, whatever its
other fields hold (R371). -/
def execHint (h : BitVec 1) (_a k : BitVec 5) (_i : BitVec 16) : State → Host.Outcome State Fault Refusal :=
  hintOp fun t => if h = 0 ∧ 16 ≤ k.toNat then { t with priority := k.setWidth 4 } else t

end Sys2Proof.Machine
end

