-- ==== Sys2Proof/Machine/Draw.lean ====
section
/-!
DEFINITION. Power accounting: what each cluster, HBM4E stack and O-die draws at its measured activity, what a die is
charged, its holdings and averages (R21-R23, R42, R429, R443-R445), and the heat that a launch unit sees (R362).

Draws are whole numbers of 1 / 550,800,000 of a power budget unit of 0.5 W, in which every rate of R22 is exact:
activity counts in thousandths of full rate, and full rate is that of 1,800 MHz.
-/

namespace Sys2Proof.Machine

/-- A power budget unit (R443). -/
def powerUnit : Nat := 306 * 1000 * 1800

/-- R22: the draw of a cluster for each thousandth of activity and each MHz: 175 W a T-die of 18 clusters, 200 W a
V-die of 16; the C-cores are in the base. -/
def drawRate : Option Cls → Nat
  | some .t => 5950
  | some .v => 7650
  | _ => 0

/-- The base of R22, 400 W, in equal shares of the 17 dies. The spec does not divide it (DESIGN CHOICE, log entry
41). -/
def baseDraw : Nat := 14400 * 1000 * 1800

/-- The clusters of a die (R14). -/
def clustersOn (b : Blend) (die : Nat) : Nat :=
  match Config.dieClass b die with
  | some k => Config.coresOn k / Config.clusterSize k
  | none => 0

/-- Every cluster of a product. -/
def allClusters (b : Blend) : List (Nat × Nat) :=
  (List.range 12).flatMap fun d => (List.range (clustersOn b d)).map fun k => (d, k)

/-- R22: the draw of a cluster at its clock and measured activity. -/
def State.clusterDraw (s : State) (q : Nat × Nat) : Nat :=
  drawRate (Config.dieClass s.blend q.1) * (s.cluster q).activity * (s.cluster q).mhz

/-- R22: the draw of a die's HBM4E stack, a twelfth of 800 W at full rate, or of its optics, a quarter of 100 W to
390 W. -/
def State.unitDraw (s : State) (die : Nat) : Nat :=
  if die < 12 then 40800 * 1800 * (s.die die).activity
  else if 13 ≤ die then 306 * 1800 * (50 * 1000 + 145 * (s.die die).activity)
  else 0

/-- R429: the extra draw of a core whose step is above its plan's START; the spec does not state how much. -/
def CoreSt.stepDraw (c : CoreSt) : Nat :=
  if c.step ≤ c.age.plan.start then 0 else Config.stepDraw (c.step.toNat - c.age.plan.start.toNat) * powerUnit

/-! ### Barrier boost (R42) -/

def Domain.member (d : Domain) (t : Thread) : Bool :=
  t.ctx == d.ctx && t.launch == d.launch && t.domAt d.level == some d.num
def Domain.arrived (d : Domain) (t : Thread) : Bool := d.member t && t.wait == some (.bar d.level)

/-- The clusters that hold members of a domain that have not arrived. -/
def State.unarrived (s : State) (d : Domain) : List (Nat × Nat) :=
  (allClusters s.blend).filter fun q =>
    s.all.any fun t => d.member t && !d.arrived t && clusterOf s.blend t.core == q

/-- R42: a grant ends at the release of its phase, or when its cluster holds no member that has not arrived. -/
def State.boostLive (s : State) (g : BoostGrant) : Bool :=
  s.domains.any fun d => d.is g.ctx g.launch g.level g.num && d.phase == g.phase && (s.unarrived d).contains g.cluster
def State.liveBoosts (s : State) : List BoostGrant := s.boosts.filter s.boostLive

/-- The budget that clock gating frees on the cores of members waiting bound at a BAR, in whole units: at most their
full-rate draw. The spec does not say how much of it is freed (log entry 41). -/
def State.freedBound (s : State) (d : Domain) : Nat :=
  let cores := ((s.all.filter fun t => d.arrived t && t.run == .waitb).map (·.core)).eraseDups
  (cores.foldl (fun n c =>
    n + (match s.cls c with
      | some k => drawRate (some k) * 1000 * 1800 / Config.clusterSize k
      | none => 0)) 0) / powerUnit

/-- R42: the division of a freed budget among the clusters of a domain; one that has a grant gets no other. -/
def State.shareBoost (s : State) (d : Domain) (units : Nat) : State :=
  let l := s.unarrived d
  let share (q : Nat × Nat) : Nat := units / l.length + (if l.head? = some q then units % l.length else 0)
  let fresh := l.filter fun q => !s.liveBoosts.any (·.cluster == q)
  { s with boosts := s.liveBoosts ++ fresh.map fun q =>
      { ctx := d.ctx, launch := d.launch, level := d.level, num := d.num, phase := d.phase, cluster := q,
        units := share q } }

/-- The power manager may spend what the waiting members of a domain free, once in a phase: a free choice of how
much. -/
def State.offerBoost (s : State) (d : Domain) : State :=
  let open' := s.all.any d.arrived &&
    !s.liveBoosts.any fun g => d.is g.ctx g.launch g.level g.num && g.phase == d.phase
  if open' then
    let (n, s) := s.fresh
    let units := n % (s.freedBound d + 1)
    if units = 0 then s else s.shareBoost d units
  else s

/-- The frequency that a grant of units allows a cluster: the highest step up to 2,200 MHz whose draw above that of
1,800 MHz the units cover. The step of 50 MHz, which R445 gives for caps, is the model's choice for a grant
(DESIGN CHOICE, log entry 41). -/
def State.boostMhz (s : State) (q : Nat × Nat) (units : Nat) : Option Nat :=
  let rate := drawRate (Config.dieClass s.blend q.1) * (s.cluster q).activity * 50
  let steps := if rate = 0 then 8 else min 8 (units * powerUnit / rate)
  if steps = 0 then none else some (1800 + 50 * steps)

/-- The boost grant of a cluster (R446): of R42, or the standing boost of the manifest; the higher of the two. A grant of
R42 is in steps of 50 MHz (DESIGN CHOICE, log entry 41). -/
def State.boostGrant (s : State) (q : Nat × Nat) : State × Option Nat :=
  let s := s.domains.foldl State.offerBoost { s with boosts := s.liveBoosts }
  let standing := (s.manifest.boost.map (min 2200)).getD 0
  let own := ((s.boosts.find? (·.cluster == q)).bind fun g => s.boostMhz q g.units).getD 0
  (s, if max standing own = 0 then none else some (max standing own))

/-! ### A die's charge and its holdings (R443) -/

/-- What a die is charged beside the draws of its clusters: its base, its stack or optics, raised margin steps and boost
grants. -/
def State.sideDraw (s : State) (die : Nat) : Nat :=
  let steps := (s.cores.filter (dieOf ·.1 == die)).foldl (fun n e => n + e.2.stepDraw) 0
  let boosts := (s.liveBoosts.filter (·.cluster.1 == die)).foldl (fun n g => n + g.units * powerUnit) 0
  baseDraw + s.unitDraw die + steps + boosts

/-- The charged draw of a die, at the clocks and activities that its clusters have. -/
def State.dieDraw (s : State) (die : Nat) : Nat :=
  (List.range (clustersOn s.blend die)).foldl (fun n k => n + s.clusterDraw (die, k)) (s.sideDraw die)

/-- R444: the charged draw of a die over the last control interval. -/
def State.dieDrew (s : State) (die : Nat) : Nat :=
  (List.range (clustersOn s.blend die)).foldl (fun n k => n + (s.cluster (die, k)).drew) (s.sideDraw die)

/-- R21: the package's draw. -/
def State.packageDraw (s : State) : Nat := (List.range 17).foldl (fun n d => n + s.dieDraw d) 0

def State.budget (s : State) (die : Nat) (sustained : Bool) : Budget :=
  if sustained then (s.die die).sust else (s.die die).peak

/-- R443: a holding: the allocation, less what is lent, with what is borrowed. -/
def Budget.holding (b : Budget) : Nat := b.own.toNat + b.borr.toNat - b.lent.toNat

/-- The sum over time of a measure of samples between two device times, the samples newest first. -/
def summed (f : Sample → Nat) (lo : Nat) : Nat → List Sample → Nat
  | _, [] => 0
  | hi, x :: rest => f x * (hi - max lo x.since) + (if x.since ≤ lo then 0 else summed f lo (min hi x.since) rest)

/-- The samples of a window, newest first: those since its start, and the one before. -/
def windowed (lo : Nat) : List Sample → List Sample
  | [] => []
  | x :: rest => if x.since ≤ lo then [x] else x :: windowed lo rest

/-- The windows of R445 and R362, in ns. -/
def longWindow : Nat := 10 ^ 10
def heatWindow : Nat := 10 ^ 5

/-- The charged draw and the sustained holding of a die are as they are from now on. -/
def State.sampleDie (s : State) (die : Nat) : State :=
  let d := s.die die
  let x : Sample := { since := s.dtime, draw := s.dieDraw die, hold := d.sust.holding * powerUnit }
  s.setDie die { d with samples := x :: windowed (s.dtime - longWindow) d.samples }

/-- The samples with a measured draw in place of the one expected from `lo` to `hi`. -/
def amend (lo hi draw : Nat) : List Sample → List Sample
  | [] => []
  | x :: rest =>
    if hi ≤ x.since then x :: amend lo hi draw rest
    else if lo < x.since then { x with draw := draw } :: amend lo hi draw rest
    else if x.since = lo then { x with draw := draw } :: rest
    else { since := lo, draw := draw, hold := x.hold } :: x :: rest

/-- The length of a control interval (R445). -/
def interval : Nat := 10000

/-- What a die drew over the control interval that ends now. -/
def State.amendDie (s : State) (die : Nat) : State :=
  let d := s.die die
  s.setDie die { d with samples := amend (s.dtime - interval) s.dtime (s.dieDrew die) d.samples }

/-- Every die whose charge or sustained holding has changed has a sample of it. -/
def State.sampleDies (s : State) : Nat → State
  | 0 => s
  | d + 1 =>
    let now (x : Sample) : Bool := x.draw == s.dieDraw d && x.hold == (s.die d).sust.holding * powerUnit
    (if ((s.die d).samples.head?).any now then s else s.sampleDie d).sampleDies d

/-- A sum of a die's samples over the last 10 s. -/
def State.lately (s : State) (die : Nat) (f : Sample → Nat) : Nat :=
  summed f (s.dtime - longWindow) s.dtime (s.die die).samples

/-- R445: the charged draw averaged over the last 10 s is at or above the sustained holding averaged over them. -/
def State.overSustained (s : State) (die : Nat) : Bool :=
  decide (0 < s.lately die fun _ => 1) && decide (s.lately die (·.hold) ≤ s.lately die (·.draw))

/-- R444: a die's demand of a kind, in units rounded up: its charged draw over the last control interval, or that averaged
over the last 10 s. -/
def State.demand (s : State) (die : Nat) (sustained : Bool) : Nat :=
  let span := s.lately die fun _ => 1
  if sustained ∧ 0 < span then (s.lately die (·.draw) + span * powerUnit - 1) / (span * powerUnit)
  else (s.dieDrew die + powerUnit - 1) / powerUnit

/-! ### Clusters -/

/-- A cluster's clock changes now: its cycles so far are kept (R448). -/
def Cluster.reclock (c : Cluster) (now mhz : Nat) (thc cuc bst : Bool) : Cluster :=
  { c with cycBase := c.cycles now, nsBase := now, mhz := mhz, thc := thc, cuc := cuc, bst := bst }

/-- A cluster draws as it does from now on. -/
def State.sampleCluster (s : State) (q : Nat × Nat) : State :=
  let c := s.cluster q
  let x : Sample := { since := s.dtime, draw := s.clusterDraw q, hold := 0 }
  s.setCluster q { c with samples := x :: windowed (s.dtime - 2 * heatWindow) c.samples }

/-- R362: the draw of a cluster over the 100 µs before the latest boundary of 10 µs, as a fraction of its full-rate draw
from 0 to 255. -/
def State.heat (s : State) (q : Nat × Nat) : Nat :=
  let hi := s.dtime / 10000 * 10000
  let l := (s.cluster q).samples
  let full := drawRate (Config.dieClass s.blend q.1) * 1000 * 1800 * summed (fun _ => 1) (hi - heatWindow) hi l
  min 255 (255 * summed (·.draw) (hi - heatWindow) hi l / full)

/-- R443, R445: the activity of a cluster over the control interval that ends now, with what it drew at the clock it had
there. -/
def State.measured (s : State) (q : Nat × Nat) (activity : Nat) : State :=
  let c := { s.cluster q with activity := activity }
  let span := s.dtime - c.mark.1
  let rate := drawRate (Config.dieClass s.blend q.1) * activity
  let drew := if span = 0 then rate * c.mhz else rate * ((c.cycles s.dtime - c.mark.2) * 1000) / span
  (s.setCluster q { c with drew := drew, mark := (s.dtime, c.cycles s.dtime),
                           samples := amend (s.dtime - interval) s.dtime drew c.samples }).amendDie q.1

/-- R445: what a die's draw must fit within: its peak holding, and its sustained one while its average has reached it. -/
def State.drawLimit (s : State) (die : Nat) : Nat :=
  let peak := (s.budget die false).holding
  if s.overSustained die then min peak (s.budget die true).holding else peak

/-- R445: the current cap of a cluster: the highest step of 50 MHz at which its draw fits within the die's holding
together with the rest of what the die is charged, or 450 MHz. -/
def State.currentCap (s : State) (q : Nat × Nat) : Nat :=
  let limit := s.drawLimit q.1
  let rest := s.dieDraw q.1 - s.clusterDraw q
  let rate := drawRate (Config.dieClass s.blend q.1) * (s.cluster q).activity
  ((List.range 36).map fun n => 2200 - 50 * n).find? (fun f => decide (rest + rate * f ≤ limit * powerUnit)) |>.getD 450

end Sys2Proof.Machine
end

