-- ==== Sys2Proof/Machine/Save.lean ====
section
/-!
DEFINITION. Saving a thread and bringing it back: the vector save block and the register images (R48,
R131, R493), lazy loads (R49), the matrix save (R245), migration packets (R44-R51, R375), yields (R54)
and the saving of one thread for a pre-emption (R261, R262).
-/

namespace Sys2Proof.Machine

/-! ### Residency (R49) -/

/-- Some live vector register is not resident. -/
def Thread.someAway (t : Thread) : Bool := t.v.toList.any fun x => x.tag != 0 && !x.resident

/-- VSM as its field says it (R119). -/
def Thread.refreshVsm (t : Thread) : Thread := t.setSt stVSM t.someAway

/-- R49: load the contents of one register from its image. A T-core holds no contents (R109). A register without a
valid image (R131) has kept the contents of its last holder (R113, R130; DEDUCED, log entry 18). -/
def State.loadV (s : State) (v : BitVec 5) : State × Bool :=
  if (s.cur.getV v).resident || s.cls s.cur.core == some .t then (s, true)
  else if (s.cur.getV v).saved = false then
    ({ s with cur := (s.cur.setV v { s.cur.getV v with resident := true }).refreshVsm }, true)
  else match s.saveRead (0x1000 + 0x400 * v.toNat) (s.sliceBits s.cur.core / 64) with
    | (s, none) => (s, false)
    | (s, some n) =>
      let x := s.cur.getV v
      let t := s.cur.setV v { x with bits := BitVec.ofNat 8192 (n % 2 ^ x.bound), resident := true }
      ({ s with cur := t.refreshVsm }, true)

/-- Load several registers, in order. -/
def State.loadVs (s : State) : List (BitVec 5) → State × Bool
  | [] => (s, true)
  | v :: rest => match s.loadV v with
    | (s, true) => s.loadVs rest
    | r => r

/-- R109, R113: the image of a register that the holder does not have becomes whole before a stream transfer lands in
it: zero above the slices that the thread has moved to, or, where no image was valid, the contents kept. -/
def State.wholeImage (s : State) (v : BitVec 5) : State × Bool :=
  let x := s.cur.getV v
  let low := if x.saved then x.bound else 0
  if low = 8192 then (s, true)
  else match s.saveWrite (0x1000 + 0x400 * v.toNat + low / 8) ((8192 - low) / 64) (if x.saved then 0 else x.bits.toNat) with
    | (s, false) => (s, false)
    | (s, true) => ({ s with cur := s.cur.setV v { s.cur.getV v with saved := true, bound := 8192 } }, true)

/-! ### The save block and the images (R48, R131) -/

/-- The tag bytes of the save block. -/
def Thread.tagBytes (t : Thread) : Nat :=
  t.v.toList.foldr (fun x n => x.tag.toNat + (if x.saved then 0x80 else 0) + 256 * n) 0

/-- A list of words as one number, the first lowest. -/
def packWords (l : List Word) : Nat := l.foldr (fun x n => x.toNat + 2 ^ 64 * n) 0

/-- The masks m1 to m7 as one number. -/
def Thread.maskBits (t : Thread) : Nat := (t.m.toList.drop 1).foldr (fun x n => x.toNat + 2 ^ 2048 * n) 0

/-- Write fields of the save area: offset, words and value. -/
def State.saveFields (s : State) : List (Nat × Nat × Nat) → State × Bool
  | [] => (s, true)
  | (off, n, v) :: rest => match s.saveWrite off n v with
    | (s, true) => s.saveFields rest
    | r => r

/-- R131: write the vector save block. While the counters live there (R387) their fields are kept. -/
def State.saveBlock (s : State) : State × Bool :=
  let t := s.cur
  let sc := if t.scAway then [] else [(0x040, 8, packWords t.sc.toList)]
  s.saveFields ([(0x000, 4, packWords [t.vl, t.vspace, t.vfill, t.vesr]), (0x020, 4, t.tagBytes)] ++ sc ++
    [(0x080, 8, packWords [t.trpc, t.trcause, t.trval, t.trelem, t.trvec, t.xferid, t.ulipc, 0]),
     (0x0C0, 8, t.convoy.word), (0x100, 224, t.maskBits)])

/-- R48: write the images of the registers from index 32 - k on that are live, resident and without a
valid image; they are then no longer resident. -/
def State.saveImages (s : State) : Nat → State × Bool
  | 0 => (s, true)
  | k + 1 =>
    let v : BitVec 5 := BitVec.ofNat 5 (31 - k)
    let x := s.cur.getV v
    if x.tag = 0 ∨ x.resident = false ∨ s.cls s.cur.core = some .t then s.saveImages k
    else
      let away (s : State) : State :=
        { s with cur := s.cur.setV v { s.cur.getV v with resident := false, saved := true
                                                         bound := if x.saved then x.bound else 8192 } }
      if x.saved then (away s).saveImages k
      else match s.saveWrite (0x1000 + 0x400 * v.toNat) 128 (x.bits.toNat % 2 ^ s.sliceBits s.cur.core) with
        | (s, true) => (away s).saveImages k
        | r => r

/-! ### The matrix save (R245) -/

/-- Accumulator rows and columns of a granted shape (R118, R221, R231). -/
def shapeN (tshape : Word) : Nat :=
  match tshape.toNat % 4 with
  | 0 => 512
  | 1 => 256
  | 2 => 128
  | _ => 64
def shapeK (tshape : Word) : Nat := 32768 / shapeN tshape
def shapeM (tshape : Word) : Nat := bits tshape.toNat 8 9

/-- R245: save the matrix state of a thread that holds its core's grant, and release the grant. -/
def State.matrixSave (s : State) : State × Bool :=
  let c := s.core s.cur.core
  if c.tile.holder = some s.cur.ref then
    let sh := s.cur.tshape
    let loaded := match c.tile.loaded with
      | some (a, b, w) => packWords [1, w.setWidth 64, a, b]
      | none => 0
    match s.saveFields [(0x800, 1, sh.toNat), (0x808, 4, loaded), (0x828, 251, 0),
        (0x9000, shapeM sh * shapeN sh / 2, c.tile.acc.toNat % 2 ^ (32 * (shapeM sh * shapeN sh)))] with
    | (s, false) => (s, false)
    | (s, true) =>
      let s := s.releaseTile
      let t := s.cur.setSt stMSM true
      ({ s with cur := { t with tshape := putBit t.tshape 31 false } }, true)
  else (s, true)

/-! ### Leaving a core -/

/-- R87: the latch goes into PP and PFXL; without one both become 0, except in a trap handler (R88). There the latch
of a waiting load stays with its registration (R31), and PP keeps what the handler's return needs. -/
def Thread.stowLatch (t : Thread) : Thread :=
  match t.latch with
  | some l =>
    if t.st stINTRAP && t.wait.isSome then { t with latch := none }
    else { (t.setSt stPP true).setPfxl l with latch := none }
  | none => if t.st stINTRAP then t else (t.setSt stPP false).setPfxl 0

/-- R88: the latch as arrival and restore reload it. -/
def Thread.arriveLatch (t : Thread) : Thread := if t.st stINTRAP then t else t.reloadLatch

/-- The counters of a thread that a transfer is still to update (R50). -/
def State.inFlight (s : State) (r : TRef) : BitVec 8 :=
  s.cores.foldl (fun w e =>
    (e.2.streamQ ++ e.2.xfer.toList).foldl
      (fun w x => if x.ref = r then putBit w x.ctr.toNat true else w) w) 0

/-- Everything of the current thread that goes to its save area: the matrix state, the images and the
block; then VSM is 1 and SCBUSY names the transfers in flight (R46-R50, R245). -/
def State.saveAll (s : State) : State × Bool :=
  let s := { s with cur := s.cur.stowLatch }.drain
  match s.matrixSave with
  | (s, false) => (s, false)
  | (s, true) => match s.saveImages 32 with
    | (s, false) => (s, false)
    | (s, true) =>
      match s.saveBlock with
      | (s, false) => (s, false)
      | (s, true) =>
        let t := s.cur.setSt stVSM true
        let busy := s.inFlight t.ref
        ({ s with cur := { t with scbusy := busy, scAway := t.scAway || busy != 0 } }, true)

/-- R30: the monitor record of the current thread is gone (R261, R351). -/
def State.disarm (s : State) : State :=
  { s with monitors := s.monitors.filter (·.ref != s.cur.ref) }

/-- R129, R185, R262: every vector register dead, m1 to m7 zero. -/
def Thread.killAll (t : Thread) : Thread :=
  let dead (x : VReg) : VReg := { x with tag := 0 }
  let t := { t with v := t.v.map dead, m := (Vector.replicate 8 0).set 0 (BitVec.allOnes 2048) }
  t.setSt stVSM false

/-- R54: a marked thread gives up its holder and enters the tail of the ready order. -/
def State.yield (s : State) : State :=
  let s := s.serveYield
  { s with cur := { s.cur with run := .ready } }.enterReady s.cur.ref s.cur.core

/-- R254, R273: a thread forced out in the middle of a convoy under restart records what is left. -/
def Thread.recordRest (t : Thread) : Thread :=
  match t.reissue with
  | none => t
  | some r =>
    let e : ConvoyEntry :=
      { iaddr := BitVec.ofNat 32 (t.pc.toNat / 4), start := t.vesr.setWidth 12, vl := t.vl.setWidth 12,
        pp := t.latch.isSome, pfxl := t.latch.getD 0 }
    { t with convoy := { valid := true, resume := r.resume, entries := e :: r.rest }, vl := r.vl,
             reissue := none, latch := none, pc := r.resume }

/-- R370: a save starts after the transfer in progress on the thread's core. -/
def State.engineBusy (s : State) : Bool := (s.core s.cur.core).xfer.isSome

/-- R375: the messages of the current thread that still wait come before its save. -/
def State.ageMessages (s : State) : State :=
  { s with cores := s.cores.map fun e =>
      if e.2.retry.any (·.sender == s.cur.ref) then
        (e.1, { e.2 with retry := e.2.retry.map fun m => if m.sender = s.cur.ref then { m with old := true } else m })
      else e }

/-- R261: save the current thread for a pre-emption of its context, whatever its state, once the core's transfer in
progress has ended (R370). -/
def State.saveThread (s : State) : State :=
  if s.engineBusy then s
  else
    let s := s.leaveReady s.cur.ref s.cur.core
    let s := { s with cur := { s.cur.recordRest with stall := none } }.disarm
    match s.ageMessages.saveAll with
    | (s, false) => s.fatal
    | (s, true) =>
      let t := (s.cur.setSt stPREQ false).setSt stYIELD false
      { s with cur := { t with run := .saved, before := some s.cur.run, restoredRun := false, deadline := none
                               leaving := false } }

/-! ### Injection and arrival (R44-R51, R375) -/

/-- Whether a TOKEN, ORDERED or CONTROL message of a thread waits in a retry buffer (R375). -/
def State.messagesWait (s : State) (r : TRef) : Bool :=
  s.cores.any fun e => e.2.retry.any fun m => m.sender == r && m.cls != 1

/-- R46-R48: the packet of the current thread, in TRANSIT, is injected. The window counts and the hold of R45, for which
the packet has no field, go with the thread (DESIGN CHOICE, log entry 42). -/
def State.inject (s : State) : State :=
  match s.cur.mig with
  | none => s
  | some m =>
    if s.cur.run ≠ .transit ∨ m.injected ∨ s.messagesWait s.cur.ref ∨ s.engineBusy then s
    else
      let s := { s with cur := { s.cur.recordRest with stall := none } }.disarm
      match s.saveAll with
      | (s, false) => s.fatal
      | (s, true) =>
        let s := (s.openGuard s.cur.core).count s.cur.core 3
        let s := if m.cause = 1 then s.serveYield else s
        let t := s.cur
        { s with cur := { t with mig := some { m with injected := true }, target := none,
                                 hold := if m.sched then 4 else t.hold } }

/-- The vector registers as the tags of a save block give them, on a core that holds their contents or not: a live
register is in the save area, a dead one keeps its bits below the smaller slice (R49, R109, R113). -/
def arriveV (x : VReg) (b slice : Nat) (holds : Bool) : VReg :=
  let tag := tagFromMem (BitVec.ofNat 5 b)
  { bits := BitVec.ofNat 8192 (x.bits.toNat % 2 ^ slice), tag := tag, resident := holds && tag == 0, saved := b.testBit 7
    bound := min x.bound slice }

/-- R49: read the vector control items, tags, masks, counters and trap registers of the save block; with a matrix
save, also its shape, without the grant (R118, R245). -/
def State.loadBlock (s : State) : State × Bool :=
  match s.saveRead 0 256 with
  | (s, none) => (s, false)
  | (s, some n) =>
    let w (off : Nat) : Word := BitVec.ofNat 64 (bits n (8 * off) 64)
    let slice := s.sliceBits s.cur.core
    let t := s.cur
    let t := { t with
      vl := w 0x00 &&& 0xFFF, vspace := w 0x08 &&& 3, vfill := w 0x10, vesr := w 0x18 &&& 0xFFF
      v := Vector.ofFn fun i => arriveV t.v[i] (bits n (8 * (0x20 + i.val)) 8) slice (s.cls t.core != some Cls.t)
      sc := Vector.ofFn fun i => w (0x40 + 8 * i.val) &&& 0x1FFFFFFFFFFFF
      scAway := t.scbusy != 0
      trpc := w 0x80 &&& ~~~(3 : Word), trcause := w 0x88 &&& 0x3FF, trval := w 0x90
      trelem := w 0x98 &&& 0xFFF, trvec := w 0xA0 &&& ~~~(0xFF : Word)
      xferid := w 0xA8 &&& 0x7FFFFFFFF, ulipc := w 0xB0 &&& ~~~(3 : Word)
      convoy := .ofNat (bits n (8 * 0xC0) 512)
      m := Vector.ofFn fun i => if i.val = 0 then BitVec.allOnes 2048
        else BitVec.ofNat 2048 (bits n (8 * (0x100 + 256 * (i.val - 1))) 2048) }
    let s := { s with cur := t.refreshVsm }
    if t.st stMSM = false then (s, true)
    else match s.saveRead 0x800 1 with
      | (s, none) => (s, false)
      | (s, some h) => ({ s with cur := { s.cur with tshape := BitVec.ofNat 64 h &&& 0x1FF03 } }, true)

/-- R351: a thread moved or restored while it waited in WAITA completes with the value read there; a LOCAL address
is that of the core it is now on. -/
def State.wakeWaita (s : State) : State :=
  match s.cur.wait with
  | some (.waita va pa priv wide _ d loc) =>
    let place : Place :=
      { pa := if loc then windowBase s.cur.core + va.toNat else pa, attr := if priv then 1 else 0 }
    let (s, v) := s.loadAt (dieOf s.cur.core) place (if wide then 8 else 4)
    { s with cur := s.cur.finishWait (some (d, BitVec.ofNat 64 v)) 0x29 }
  | _ => s

/-- R254, R267: a convoy recorded outside a trap handler is restarted (R273); otherwise a pending prefix
is reloaded (R88). -/
def State.restartConvoy (s : State) : State × Bool :=
  let t := s.cur
  if t.convoy.valid ∧ t.st stINTRAP = false then
    let r : Reissue := { rest := t.convoy.entries, resume := t.convoy.resume, vl := t.vl }
    let t := ({ t.setSt stPP false with convoy := { t.convoy with valid := false } }).nextEntry r
    { s with cur := t }.saveWrite 0x0C0 1 (t.convoy.word % 2 ^ 64)
  else ({ s with cur := t.arriveLatch }, true)

/-- The current thread takes a run-queue entry of a core: READY, or WAITU while its wait lasts (R30). -/
def State.settle (s : State) (core : Nat) : State :=
  let fwd := match s.cur.mig with
    | some m => if s.cur.grantFwd = 0 then 0 else m.fwd
    | none => 0
  let s := { s with cur := { s.cur with core := core, priority := 8, mig := none, grantFwd := fwd } }
  match s.loadBlock with
  | (s, false) => s.fatal
  | (s, true) =>
    match s.restartConvoy with
    | (s, false) => s.fatal
    | (s, true) =>
      let s := s.wakeWaita
      if s.cur.wait.isSome then { s with cur := { s.cur with run := .waitu } }
      else { s with cur := { s.cur with run := .ready } }.enterReady s.cur.ref core

/-- Whether a physical core is available to a context (R408). -/
def State.serves (s : State) (ctx core : Nat) : Bool :=
  (s.coreEntries ctx).any fun e => s.available ctx e.1 == some core

/-- Whether a core may take the current thread: it serves its context, and R28 does not exclude it. -/
def State.takes (s : State) (core : Nat) : Bool := s.serves s.cur.ctx core && s.vlFits s.cur core

/-- Whether a context's threads are being saved (R263). -/
def State.savingCtx (s : State) (ctx : Nat) : Bool := (s.ctxSt ctx).saving.isSome

/-- R44, R254, R431: a thread leaves a quarantined or fenced core for the nearest core of its class; with
none it ends by a fatal fault (R260). One whose instruction has not completed leaves at the next boundary. -/
def State.evacuateThread (s : State) : State :=
  if s.cur.run = .run ∧ s.cur.stall.isSome then { s with cur := { s.cur with leaving := true } }
  else match s.cur.run, s.cls s.cur.core with
  | .ready, some k | .run, some k | .waitb, some k | .waitu, some k | .saved, some k =>
    match s.chooseCore k false with
    | none => s.fatal
    | some d => s.startMigration { dest := d, src := s.cur.core, cause := 3, fwd := 0, sys := false, fixed := false,
                                   sched := false, injected := false }
  | _, _ => s

/-- A thread takes a run-queue entry of a core; where the core may not have it, it leaves again at once (R44). -/
def State.letIn (s : State) (core : Nat) : State :=
  let s := s.settle core
  if s.takes core ∨ s.cur.run = .done then s else s.evacuateThread

/-- R51, R260: the nearest other eligible core of the destination's class. -/
def State.forwardTo (s : State) (core : Nat) (sys : Bool) : Option Nat :=
  match s.cls core with
  | none => none
  | some k => { s with cur := { s.cur with core := core } }.chooseCore k sys

/-- R367: the current thread waits in a core's arrival buffer, of 16 places, behind those that were refused before
it; one that finds it full is refused and keeps its order. -/
def State.waitArrival (s : State) (core : Nat) : State :=
  let c := s.core core
  let r := s.cur.ref
  if c.arrivals.contains r ∨ c.refusals.contains r then s
  else if c.arrivals.length < 16 ∧ c.refusals = [] then
    let s := s.setCore core { c with arrivals := c.arrivals ++ [r] }
    if s.cur.mig.isSome then s.count core 5 else s
  else s.setCore core { c with refusals := c.refusals ++ [r] }

/-- R367: refused packets take the free places of a core's arrival buffer, in the order of their first refusal. -/
def State.refillArrivals (s : State) (core : Nat) : Nat → State
  | 0 => s
  | n + 1 =>
    let c := s.core core
    match c.refusals with
    | [] => s
    | a :: rest =>
      if c.arrivals.length < 16 then
        ((s.setCore core { c with arrivals := c.arrivals ++ [a], refusals := rest }).count core 5).refillArrivals core n
      else s

/-- A thread leaves a core's arrival buffer and the packets refused there, and the oldest refused packet takes the
place (R367). -/
def State.leaveArrivals (s : State) (r : TRef) (core : Nat) : State :=
  let c := s.core core
  (s.setCore core { c with arrivals := c.arrivals.filter (· != r), refusals := c.refusals.filter (· != r) }).refillArrivals
    core 16

/-- R47, R51, R261, R367: the packet of the current thread arrives. It is accepted, forwarded, put into
the arrival buffer, or offered again later. -/
def State.arrive (s : State) : State :=
  match s.cur.mig with
  | none => s
  | some m =>
    let c := s.core m.dest
    if s.cur.run ≠ .transit ∨ m.injected = false then s
    else if s.savingCtx s.cur.ctx ∧ s.cur.st stPREQ then
      match { s.leaveArrivals s.cur.ref m.dest with cur := { s.cur with core := m.dest } }.loadBlock with
      | (s, false) => s.fatal
      | (s, true) =>
        let t := (s.cur.setSt stPREQ false).setSt stYIELD false
        let t := { t.setSt stVSM true with mig := none, run := .saved, restoredRun := false,
                                           before := some (if t.wait.isSome then .waitu else .ready) }
        { s with cur := t }
    else if c.arrivals.contains s.cur.ref ∨ c.refusals.contains s.cur.ref then s
    else if s.takes m.dest ∧ (s.queue m.dest).length < 64 ∧ c.arrivals = [] ∧ c.refusals = [] then s.settle m.dest
    else
      let onward := if 7 ≤ m.fwd ∨ (m.fixed ∧ s.takes m.dest) then none else s.forwardTo m.dest m.sys
      match onward with
      | some d =>
        let s := s.count m.dest 4
        { s with cur := { s.cur with mig := some { m with src := m.dest, dest := d, fwd := m.fwd + 1 } } }
      | none => s.waitArrival m.dest

/-- R367: a freed run-queue entry of a core goes to the oldest packet of its arrival buffer. -/
def State.takeArrivals (s : State) (core : Nat) : State :=
  match (s.core core).arrivals with
  | [] => s
  | r :: _ =>
    if (s.queue core).length < 64 then
      (s.leaveArrivals r core).onThread r fun s =>
        match s.cur.run with
        | .saved =>
          let s := { s with cur := { s.cur with restoredRun := true } }
          if s.takes core then s else s.evacuateThread
        | _ => s.letIn core
    else s

end Sys2Proof.Machine
end

