-- ==== Sys2Proof/Machine/VFrame.lean ====
section
/-!
DEFINITION. The frame of the vector instructions: how sources are read and converted (R145-R147,
R177, R178), the vector-length check (R180), enables and START (R85, R271), and writing vector,
mask and second destinations (R85, R138, R179).
-/

namespace Sys2Proof.Machine

/-! ### Tags (R145, R146, R178) -/

/-- R145: the computation tag of a source tag. -/
def compTag (t : BitVec 5) : BitVec 5 :=
  match t.toNat with
  | 0x0F => 0x01
  | 0x0D | 0x0E => 0x0C
  | 0x10 | 0x11 | 0x12 => 0x0A
  | _ => t

/-- R146: the combined tag of two computation tags. -/
def combineTags (a b : BitVec 5) : BitVec 5 :=
  let wa := tagWidth a
  let wb := tagWidth b
  let mixed (i f : BitVec 5) : BitVec 5 :=
    if tagWidth f = 16 ∧ 16 ≤ tagWidth i then 0x0A
    else if f = 0x0A ∧ tagWidth i = 64 then 0x09
    else f
  if a = b then a
  else if tagInt a && tagInt b then
    if wa = wb then (if tagSigned a then a else b) else if wa < wb then b else a
  else if tagInt a then mixed a b
  else if tagInt b then mixed b a
  else if wa = wb then 0x0A
  else if wa < wb then b else a

/-- The tag a source counts with when tags are combined: poison counts as dead (R85). -/
def Thread.srcTag (t : Thread) (v : BitVec 5) : BitVec 5 :=
  let x := (t.getV v).tag
  if tagPoison x then 0 else x

/-- R178: the resolved tag of a dead source among the tags of an instruction's vector sources. -/
def resolvedTag (dflt : BitVec 5) (tags : List (BitVec 5)) : BitVec 5 :=
  match tags.filter (· != 0) with
  | [] => dflt
  | a :: rest => rest.foldl (fun k t => combineTags k (compTag t)) (compTag a)

/-- R177, step 3: the combined tag of the sources, in order. -/
def combinedTag (dflt : BitVec 5) (tags : List (BitVec 5)) : BitVec 5 :=
  let rd := resolvedTag dflt tags
  match tags.map fun t => compTag (if t = 0 then rd else t) with
  | [] => dflt
  | a :: rest => rest.foldl combineTags a

/-- R71, R138: a vector source is poisoned by its own tag, or by its companion's. -/
def Thread.poisonedV (t : Thread) (v : BitVec 5) : Bool :=
  let x := (t.getV v).tag
  tagPoison x || (tagBlock x && tagPoison (t.getV (companion v)).tag)

/-! ### Reading elements -/

/-- A vector source as an instruction reads it: its resolved tag, its bits and scales, or the fill
value of a dead register (R138, R178). -/
structure VSrc where
  tag : BitVec 5
  data : BitVec 8192
  scales : BitVec 8192
  fill : Option Nat

def Thread.readV (t : Thread) (v : BitVec 5) (tag : BitVec 5) : VSrc :=
  let x := t.getV v
  let c := t.getV (companion v)
  { tag := tag, data := x.bits, fill := if tagDead x.tag then some t.vfill.toNat else none,
    scales := if tagDead c.tag then BitVec.ofNat 8192 ((2 ^ 8192 - 1) / 255 * 0x7F) else c.bits }

/-- The code of element e. -/
def VSrc.code (x : VSrc) (e : Nat) : Nat :=
  match x.fill with
  | some f => f % 2 ^ tagWidth x.tag
  | none => elemOf x.data (tagWidth x.tag) e

/-- The scale byte of element e's block. -/
def VSrc.scale (x : VSrc) (e : Nat) : Nat := elemOf x.scales 8 (e / 32)

/-- The floating format of a tag's codes. -/
def codeFmt (t : BitVec 5) : Option Fmt :=
  match t.toNat with
  | 0x10 => some .e2m1
  | 0x11 => some .e4m3
  | 0x12 => some .mxi8
  | _ => fmtOfTag t

/-- A value times a power of two. -/
def FVal.scaled (v : FVal) (k : Int) : FVal :=
  match v with
  | .num n m e => .num n m (e + k)
  | v => v

/-- The exact value of an element (R132, R133, R137). -/
def elemVal (t : BitVec 5) (code scale : Nat) : FVal :=
  match codeFmt t with
  | none => intVal (tagIntVal t code)
  | some f =>
    if tagBlock t then
      if scale = 0xFF then .invalid else (f.value code).scaled ((scale : Int) - 127)
    else f.value code

/-- R147: an element converted to the combined tag. -/
def convElem (k : BitVec 5) (mode : RMode) (t : BitVec 5) (code scale : Nat) : Nat × FFlags :=
  if t = k then (code % 2 ^ tagWidth k, 0)
  else match fmtOfTag k with
    | none => (wrapInt (tagWidth k) (tagIntVal t code), 0)
    | some f =>
      if tagBlock t then
        let (c, f1) := Fmt.f32.ofVal .rne false (elemVal t code scale)
        if f = .f32 then (c, f1)
        else
          let (c, f2) := f.ofVal .rne false (Fmt.f32.value c)
          (c, f1 ||| f2)
      else if (codeFmt t).isNone then f.ofVal mode false (elemVal t code scale)
      else f.ofVal .rne false (elemVal t code scale)

/-- A source operand of a vector instruction (R93): a register, a scalar, or an immediate. -/
inductive VOpd where
  | reg (v : BitVec 5)
  | sca (r : BitVec 5)
  | imm (i : BitVec 5)

/-- The operand that the ok field selects. -/
def opdOf (k : BitVec 2) (b : BitVec 5) : VOpd :=
  if k = 0 then .reg b else if k = 1 then .sca b else .imm b

/-- R177, step 5: an immediate in a tag. -/
def immElem (k : BitVec 5) (i : BitVec 5) : Nat :=
  match fmtOfTag k with
  | none => wrapInt (tagWidth k) i.toInt
  | some f => (f.ofVal .rne false (intVal i.toInt)).1

def VOpd.poisoned (t : Thread) : VOpd → Bool
  | .reg v => t.poisonedV v
  | .sca r => t.poisonedS r
  | .imm _ => false

/-- The registers whose contents an operand reads: none where it is dead; a block-scaled register's
companion as well. -/
def Thread.contents (t : Thread) (v : BitVec 5) : List (BitVec 5) :=
  let x := (t.getV v).tag
  if tagDead x then []
  else if tagBlock x && !tagDead (t.getV (companion v)).tag then [v, companion v] else [v]

def VOpd.contents (t : Thread) : VOpd → List (BitVec 5)
  | .reg v => t.contents v
  | _ => []

/-- The source tags of the operands, in order. -/
def opdTags (t : Thread) : List VOpd → List (BitVec 5)
  | [] => []
  | .reg v :: rest => t.srcTag v :: opdTags t rest
  | _ :: rest => opdTags t rest

/-- Every vector source among some operands is tagged poison. -/
def noneLive (t : Thread) (ops : List VOpd) : Bool :=
  ops.all fun o => match o with
    | .reg v => tagPoison (t.getV v).tag
    | _ => true

/-- R180: the widest of a register source's stored and computation tags; poison has none. -/
def srcWidth (t : Thread) (rd : BitVec 5) : VOpd → Nat
  | .reg v =>
    let x := (t.getV v).tag
    if tagPoison x then 0
    else
      let x := if tagDead x then rd else x
      max (tagWidth x) (tagWidth (compTag x))
  | _ => 0

/-- The code of an operand's element in K, with the flags of its conversion (R177, steps 4 to 6). -/
def VOpd.read (t : Thread) (k rd : BitVec 5) (mode : RMode) (e : Nat) : VOpd → Nat × FFlags
  | .reg v =>
    let x := (t.getV v).tag
    let src := t.readV v (if tagDead x then rd else x)
    convElem k mode src.tag (src.code e) (src.scale e)
  | .sca r => ((t.getS r).toNat % 2 ^ tagWidth k, 0)
  | .imm i => (immElem k i, 0)

/-- All operands of an element, with the flags of their conversions. -/
def readAll (t : Thread) (k rd : BitVec 5) (mode : RMode) (e : Nat) : List VOpd → List Nat × FFlags
  | [] => ([], 0)
  | o :: rest =>
    let (c, f) := o.read t k rd mode e
    let (cs, fs) := readAll t k rd mode e rest
    (c :: cs, f ||| fs)

/-! ### Enables, START and the vector-length check -/

/-- R85: the enable of an element under a latch. -/
def Thread.enabled (t : Thread) (l : Option (BitVec 12)) (e : Nat) : Bool :=
  match l with
  | some l => if lPK l then (t.getM (lPN l)).getLsbD e != lPI l else true
  | none => true

/-- Whether disabled elements are written as zero. -/
def zeroing (l : Option (BitVec 12)) : Bool :=
  match l with
  | some l => lPK l && lZM l
  | none => false

/-- Whether a latch leaves every element enabled. -/
def unmasked (l : Option (BitVec 12)) : Bool :=
  match l with
  | some l => !lPK l
  | none => true

/-- The second destination of a latch. -/
def second (l : Option (BitVec 12)) : Option (BitVec 5) :=
  match l with
  | some l => if lDE l then some (lD2 l) else none
  | none => none

def Thread.start (t : Thread) : Nat := t.vesr.toNat

/-- R180: the vector-length fault; `conv` where the instruction is convoy-eligible. -/
def lengthTrap (s : State) (w : BitVec 32) (width : Nat) (conv : Bool) : Trap :=
  { code := 6, val := BitVec.ofNat 64 (w.toNat + s.vlmax s.cur.core width * 2 ^ 32), elem := none,
    start := if conv then some (s.groupStart s.cur.core width s.cur.start) else none }

/-- Whether `vl` exceeds VLMAX at a width; a width of 0 checks nothing. -/
def State.tooLong (s : State) (width : Nat) : Bool :=
  width != 0 && decide (s.vlmax s.cur.core width < s.cur.vl.toNat)

/-- The registers that transfers of a thread are still to write (R382). -/
def State.gathers (s : State) (r : TRef) : List (BitVec 5) :=
  s.cores.flatMap fun e => (e.2.streamQ ++ e.2.xfer.toList).flatMap fun x =>
    match x.kind with
    | .gather d nf _ => if x.ref = r then (List.range nf).map fun k => d + BitVec.ofNat 5 k else []
    | _ => []

/-- R382: whether an instruction that reads or writes some registers waits for a transfer. -/
def State.streaming (s : State) (l : List (BitVec 5)) : Bool :=
  let g := s.gathers s.cur.ref
  !g.isEmpty && l.any fun v => g.contains v

/-! ### Destinations -/

/-- The low n bits of one number and the others of another. -/
def mergeBits {m : Nat} (n : Nat) (low high : BitVec m) : BitVec m :=
  let k : BitVec m := BitVec.ofNat m (2 ^ n - 1)
  (low &&& k) ||| (high &&& ~~~k)

/-- R85: CopyDest for a vector destination: elements 0 to vl − 1 and the tag; a tag without a width
carries no elements. -/
def Thread.copyV (t : Thread) (l : Option (BitVec 12)) (d : BitVec 5) : Thread :=
  match second l with
  | none => t
  | some d2 =>
    if d2 = d then t
    else
      let x := t.getV d
      let y := t.getV d2
      let w := tagWidth x.tag
      if w = 0 then t.setV d2 { y with tag := x.tag }
      else t.setV d2 { bits := mergeBits (t.vl.toNat * w) x.bits y.bits, tag := x.tag,
                       resident := true, saved := false }

/-- R117, R120, R253: the instruction enters the queue with W of R180 and its flags, from an element on, and its
completion clears `vesr`. -/
def Thread.vdone (t : Thread) (i : Instr) (start w : Nat) (f : FFlags) : Thread :=
  ({ t with vesr := 0 }.enqueue (t.entryOf i (bits (encode i).toNat 26 6) start w f)).refreshVsm

/-- R71: a poisoned result: the tags, with the contents unchanged. -/
def State.poisonDest (s : State) (i : Instr) (w : Nat) (l : Option (BitVec 12)) (d : BitVec 5) : State :=
  let t := s.cur.poisonV d
  let t := match second l with
    | some d2 => t.poisonV d2
    | none => t
  { s with cur := t.vdone i 0 w 0 }

/-- What a vector instruction with a vector destination does, as its issue decides it. -/
structure VPlan where
  /-- A named source is poisoned (R71). -/
  poisoned : Bool
  /-- W of R180, with a source tagged poison taken as dead (R85). -/
  width : Nat
  /-- W of R180 where the instruction is enabled: a source tagged poison adds no width. -/
  live : Nat := width
  /-- The result tag. -/
  tag : BitVec 5
  /-- Registers whose contents are read. -/
  reads : List (BitVec 5)
  /-- The code and flags of an enabled element, given the enables. -/
  elem : Thread → (Nat → Bool) → Nat → Nat × FFlags
  /-- The scale byte of a block, for a block-scaled result. -/
  scale : Thread → (Nat → Bool) → Nat → Nat

/-- Codes and flags of elements from e on. -/
def runElems (f : Nat → Nat × FFlags) (en : Nat → Bool) (z : Bool) :
    Nat → Nat → List (Option Nat) × FFlags
  | _, 0 => ([], 0)
  | e, n + 1 =>
    let (cs, fs) := runElems f en z (e + 1) n
    if en e then
      let (c, fl) := f e
      (some c :: cs, fl ||| fs)
    else ((if z then some 0 else none) :: cs, fs)

/-- The scale bytes of the blocks that hold an element below `vl` (R138). -/
def writeScales (t : Thread) (d : BitVec 5) (f : Nat → Nat) : Thread :=
  let n := (t.vl.toNat + 31) / 32
  let c := t.getV (companion d)
  t.setV (companion d) { bits := setElems c.bits 8 0 ((List.range n).map fun k => some (f k)), tag := 0x05,
                         resident := true, saved := false }

/-- Whether elements 0 to vl − 1 under a tag are the whole slice of a register. -/
def State.coversAll (s : State) (tag : BitVec 5) : Bool :=
  decide (s.vlmax s.cur.core (tagWidth tag) ≤ s.cur.vl.toNat)

/-- R49, R179: load what an instruction reads, and the destinations that it does not write whole. -/
def State.prepare (s : State) (reads : List (BitVec 5)) (l : Option (BitVec 12)) (d : BitVec 5)
    (tag : BitVec 5) (start : Nat) : State × Bool :=
  let all := s.coversAll tag
  let full := unmasked l || zeroing l || (List.range s.cur.vl.toNat).all (s.cur.enabled l)
  let whole := start == 0 && full && all
  if s.cur.st stVSM = false then (s, true)
  else s.loadVs (reads ++ (if whole then [] else [d]) ++ (if all then [] else (second l).toList) ++
    (if tagBlock tag then [companion d] else []))

/-- The registers that an instruction with a vector destination reads or writes. -/
def VPlan.regs (p : VPlan) (l : Option (BitVec 12)) (d : BitVec 5) : List (BitVec 5) :=
  p.reads ++ [d] ++ (second l).toList ++ (if tagBlock p.tag then [companion d] else [])

/-- Write zero to every element of a destination under its result tag (ZeroDest, R85). With vl = 0 there is nothing to
write: the majors 0x17 to 0x1E keep `vesr`, a memory instruction completes (R181, R271, log 16). -/
def zeroDest (i : Instr) (d : BitVec 5) (p : VPlan) (conv : Bool) (s : State) : Res :=
  if s.cur.vl = 0 then (if bits (encode i).toNat 26 6 < 0x26 then .nop s else .done s)
  else if s.tooLong p.width then .trap (lengthTrap s (encode i) p.width conv) s
  else if s.streaming (p.regs s.cur.latch d) then .held s
  else
    let l := s.cur.latch
    if p.tag = 0 then
      .done { s with cur := ((s.cur.setV d { s.cur.getV d with tag := 0 }).copyV l d).vdone i 0 p.width 0 }
    else match s.prepare [] l d p.tag 0 with
      | (s, false) => .held s.fatal
      | (s, true) =>
        let t := s.cur
        let x := t.getV d
        let t := t.setV d { bits := mergeBits (t.vl.toNat * tagWidth p.tag) 0 x.bits, tag := p.tag,
                            resident := true, saved := false }
        let t := if tagBlock p.tag then writeScales t d fun _ => 0 else t
        .done { s with cur := (t.copyV l d).vdone i 0 p.width 0 }

/-- The elements of a vector destination from `start` on, its scales, its tag, and the copy. -/
def writeDest (i : Instr) (d : BitVec 5) (p : VPlan) (l : Option (BitVec 12)) (start : Nat) (s : State) : Res :=
  match s.prepare p.reads l d p.tag start with
  | (s, false) => .held s.fatal
  | (s, true) =>
    let t := s.cur
    let en := t.enabled l
    let (cs, fs) := runElems (p.elem t en) en (zeroing l) start (t.vl.toNat - start)
    let x := t.getV d
    let t' := t.setV d { bits := setElems x.bits (tagWidth p.tag) start cs, tag := p.tag,
                         resident := true, saved := false }
    let t' := if tagBlock p.tag then writeScales t' d (p.scale t en) else t'
    .done { s with cur := (t'.copyV l d).vdone i start p.width fs }

/-- An instruction with a vector destination. `conv`: it is convoy-eligible and begins at `vesr`.START
(R253, R271). -/
def vecDest (i : Instr) (acc : Bool × Bool × Bool) (d : BitVec 5) (conv : Bool) (plan : Thread → VPlan)
    (s : State) : Host.Outcome State Fault Refusal :=
  issue i acc (fun s => zeroDest i d (plan s.cur) conv s)
    (fun l s =>
      let p := plan s.cur
      if s.cur.vl = 0 then .nop s
      else if s.tooLong p.live then .trap (lengthTrap s (encode i) p.live conv) s
      else if s.streaming (p.regs l d) then .held s
      else if p.poisoned then .done (s.poisonDest i p.live l d)
      else if p.tag = 0 then
        .done { s with cur := ((s.cur.setV d { s.cur.getV d with tag := 0 }).copyV l d).vdone i 0 p.width 0 }
      else writeDest i d p l (if conv then s.cur.start else 0) s) s

/-- R75: the `trval` of a poisoned vector register. -/
def poisonVal (v : BitVec 5) (pos : Nat) : Word := BitVec.ofNat 64 (v.toNat + 32 + 64 * pos)

/-- The first poisoned operand, counted from a position. -/
def firstPoisoned (t : Thread) : Nat → List VOpd → Option Word
  | _, [] => none
  | pos, o :: rest =>
    if o.poisoned t then some (match o with
      | .reg v => poisonVal v pos
      | .sca r => BitVec.ofNat 64 (r.toNat + 64 * pos)
      | .imm _ => 0)
    else firstPoisoned t (pos + 1) rest

/-- What a compare or a mask instruction does, as its issue decides it. -/
structure MPlan where
  opds : List VOpd
  width : Nat
  bit : Thread → Nat → Bool × FFlags

/-- Bits and flags from e on. -/
def runBits (f : Nat → Bool × FFlags) (en : Nat → Bool) (z : Bool) :
    Nat → Nat → List (Option Bool) × FFlags
  | _, 0 => ([], 0)
  | e, n + 1 =>
    let (bs, fs) := runBits f en z (e + 1) n
    if en e then
      let (b, fl) := f e
      (some b :: bs, fl ||| fs)
    else ((if z then some false else none) :: bs, fs)

/-- An instruction with a mask destination (R85, R113, R114, R193): bits 0 to vl − 1 of m(d). -/
def maskDest (i : Instr) (acc : Bool × Bool × Bool) (d : BitVec 3) (conv : Bool) (plan : Thread → MPlan)
    (s : State) : Host.Outcome State Fault Refusal :=
  issue i acc
    (fun s =>
      if s.cur.vl = 0 then .nop s
      else if s.tooLong (plan s.cur).width then .trap (lengthTrap s (encode i) (plan s.cur).width conv) s
      else
        let t := s.cur.setM d (mergeBits s.cur.vl.toNat 0 (s.cur.getM d))
        .done { s with cur := t.vdone i 0 (plan s.cur).width 0 })
    (fun l s =>
      let p := plan s.cur
      if s.cur.vl = 0 then .nop s
      else match firstPoisoned s.cur 0 p.opds with
        | some v =>
          let start := if conv then some (s.groupStart s.cur.core p.width s.cur.start) else none
          .trap { code := 2, val := v, elem := none, start := start } s
        | none =>
          if s.tooLong p.width then .trap (lengthTrap s (encode i) p.width conv) s
          else if s.streaming (p.opds.flatMap (·.contents s.cur)) then .held s
          else match s.loadVs (p.opds.flatMap (·.contents s.cur)) with
            | (s, false) => .held s.fatal
            | (s, true) =>
              let t := s.cur
              let start := if conv then t.start else 0
              let (bs, fs) := runBits (p.bit t) (t.enabled l) (zeroing l) start (t.vl.toNat - start)
              .done { s with cur := (t.setM d (setMaskBits (t.getM d) start bs)).vdone i start p.width fs }) s

end Sys2Proof.Machine
end

