-- ==== Sys2Proof/Machine/Vector.lean ====
section
/-!
DEFINITION. Vector configuration (R185-R187), arithmetic, compares, conversions, quantisation and
approximate functions: majors 0x16 to 0x1C (R188-R200).
-/

namespace Sys2Proof.Machine

/-! ### Major 0x16 -/

/-- SETVL. A pending pre-emption, scheduler migration or yield comes first and leaves PC at SETVL; every
vector register is then dead and every mask zero (R262). -/
def execSetvl (d a t : BitVec 5) : State → Host.Outcome State Fault Refusal :=
  let i : Instr := .setvl d a t
  plainOp i (consume [(a, 0)] fun s =>
    let grant (s : State) : Res :=
      let new := min (s.cur.getS a).toNat (s.vlmax s.cur.core (tagWidth t))
      let th := { s.cur with vl := BitVec.ofNat 64 new }
      let th := th.setS d (BitVec.ofNat 64 new) false
      let away (x : VReg) : VReg := if x.resident || tagDead x.tag then x else { x with tag := 0 }
      let th := if th.st stVSM then { th.setSt stVSM false with v := th.v.map away } else th
      .done { s with cur := th }
    let later (s : State) : Res :=
      if s.cur.st stYIELD then .held { s with cur := s.cur.killAll }.yield else grant s
    if !(s.gathers s.cur.ref).isEmpty then .held s
    else if s.cur.st stPREQ ∧ s.engineBusy then .held s
    else if s.cur.st stPREQ then .held { s with cur := s.cur.killAll }.saveThread
    else match s.cur.target with
      | none => later s
      | some k =>
        if s.cur.st stNOSCHED then later s
        else match s.chooseCore k false with
          | none => later { s with cur := { s.cur with target := none } }
          | some dest =>
            .held ({ s with cur := s.cur.killAll }.startMigration
              { dest := dest, src := s.cur.core, cause := 2, fwd := 0, sys := false, fixed := false,
                sched := true, injected := false }))

/-- VCFG: the tag alone; poison stays (R186). -/
def execVcfg (v t : BitVec 5) : State → Host.Outcome State Fault Refusal :=
  plainOp (.vcfg v t) fun s =>
    if s.streaming [v] then .held s
    else
      let x := s.cur.getV v
      .done { s with cur := (if tagPoison x.tag then s.cur else s.cur.setV v { x with tag := t }).refreshVsm }

/-- Make registers dead from a number on. -/
def killFrom (t : Thread) (v : Nat) : Nat → Thread
  | 0 => t
  | n + 1 =>
    let r : BitVec 5 := BitVec.ofNat 5 v
    killFrom (t.setV r { t.getV r with tag := 0 }) (v + 1) n

/-- VKILL: the tags from va to vb become dead, poison included (R187). -/
def execVkill (a b : BitVec 5) : State → Host.Outcome State Fault Refusal :=
  plainOp (.vkill a b) fun s =>
    let n := b.toNat + 1 - a.toNat
    if s.streaming ((List.range n).map fun k => a + BitVec.ofNat 5 k) then .held s
    else .done { s with cur := (killFrom s.cur a.toNat n).refreshVsm }

/-! ### Plans -/

/-- The plan of an elementwise instruction (R177, R180): operands, default tag, K from the combined tag,
the rounding code, the result tag from K, and the operation on codes in K. With every vector source tagged poison an
enabled instruction has no K, and only a result tag that its entry names has a width (DEDUCED, log entry 20). -/
def elemPlan (dflt : BitVec 5) (adj : BitVec 5 → BitVec 5) (ops : List VOpd) (rm : Nat)
    (res : BitVec 5 → BitVec 5) (f : BitVec 5 → RMode → List Nat → Nat × FFlags) (t : Thread) : VPlan :=
  let tags := opdTags t ops
  let rd := resolvedTag dflt tags
  let k := adj (combinedTag dflt tags)
  let mode := rmodeOf rm t.rmode
  let width := (ops.map (srcWidth t rd)).foldl max (max (tagWidth k) (tagWidth (res k)))
  { poisoned := ops.any (·.poisoned t)
    width := width
    live := if noneLive t ops then tagWidth (res 0) else width
    tag := res k
    reads := ops.flatMap (·.contents t)
    elem := fun t _ e =>
      let (cs, f1) := readAll t k rd mode e ops
      let (c, f2) := f k mode cs
      (c, f1 ||| f2)
    scale := fun _ _ _ => 0 }

/-- The first, second and third of a list of codes. -/
def arg (l : List Nat) (n : Nat) : Nat := l[n]?.getD 0

/-- An operation on values in K, rounded into K. -/
def floatOp (k : BitVec 5) (mode : RMode) (sat : Bool) (g : (Nat → FVal) → FVal × FFlags) (cs : List Nat) :
    Nat × FFlags :=
  match fmtOfTag k with
  | none => (0, 0)
  | some f =>
    let (v, f1) := g fun n => f.value (arg cs n)
    let (c, f2) := f.ofVal mode sat v
    (c, f1 ||| f2)

/-- An operation of major 0x17: on exact integers where K is an integer, else on values (R189). -/
def arith17 (gi : (signed : Bool) → (w : Nat) → Int → Int → Int) (sat : Bool)
    (gf : RMode → FVal → FVal → FVal × FFlags) (k : BitVec 5) (mode : RMode) (cs : List Nat) : Nat × FFlags :=
  if tagInt k then
    let w := tagWidth k
    (wrapInt w (gi (tagSigned k) w (tagIntVal k (arg cs 0)) (tagIntVal k (arg cs 1))), 0)
  else floatOp k mode sat (fun x => gf mode (x 0) (x 1)) cs

/-- An operation on the bits of both operands, whatever K. -/
def bitOp (g : Nat → Nat → Nat) (_k : BitVec 5) (_m : RMode) (cs : List Nat) : Nat × FFlags :=
  (g (arg cs 0) (arg cs 1), 0)

/-- An instruction of major 0x17 with a register, scalar or immediate b. -/
def vop17 (i : Instr) (d a b : BitVec 5) (k : BitVec 2) (rm : Nat)
    (f : BitVec 5 → RMode → List Nat → Nat × FFlags) : State → Host.Outcome State Fault Refusal :=
  vecDest i (accepts 0x17) d true (elemPlan 0x04 id [.reg a, opdOf k b] rm id f)

/-- b − a with the NaN rule in the order a, b (R136, R189). -/
def fRsub (mode : RMode) (a b : FVal) : FVal × FFlags :=
  match firstNan [a, b] with
  | some r => (r, sigFlag [a, b])
  | none => fSub mode b a

/-- VADD. -/
def execVadd (d a b : BitVec 5) (k : BitVec 2) (r : BitVec 3) : State → Host.Outcome State Fault Refusal :=
  vop17 (.vadd d a b k r) d a b k r.toNat (arith17 (fun _ _ x y => x + y) false fAdd)

/-- VSUB. -/
def execVsub (d a b : BitVec 5) (k : BitVec 2) (r : BitVec 3) : State → Host.Outcome State Fault Refusal :=
  vop17 (.vsub d a b k r) d a b k r.toNat (arith17 (fun _ _ x y => x - y) false fSub)

/-- VRSUB. -/
def execVrsub (d a b : BitVec 5) (k : BitVec 2) (r : BitVec 3) : State → Host.Outcome State Fault Refusal :=
  vop17 (.vrsub d a b k r) d a b k r.toNat (arith17 (fun _ _ x y => y - x) false fRsub)

/-- VMUL. -/
def execVmul (d a b : BitVec 5) (k : BitVec 2) (r : BitVec 3) : State → Host.Outcome State Fault Refusal :=
  vop17 (.vmul d a b k r) d a b k r.toNat (arith17 (fun _ _ x y => x * y) false fun _ => fMul)

/-- VMULH: with a floating K the canonical NaN with NV. -/
def execVmulh (d a b : BitVec 5) (k : BitVec 2) : State → Host.Outcome State Fault Refusal :=
  vop17 (.vmulh d a b k) d a b k 0
    (arith17 (fun _ w x y => x * y / 2 ^ w) false fun _ _ _ => (.invalid, fNV))

/-- VMIN. -/
def execVmin (d a b : BitVec 5) (k : BitVec 2) : State → Host.Outcome State Fault Refusal :=
  vop17 (.vmin d a b k) d a b k 0 (arith17 (fun _ _ x y => min x y) false fun _ => fMinMax false)

/-- VMAX. -/
def execVmax (d a b : BitVec 5) (k : BitVec 2) : State → Host.Outcome State Fault Refusal :=
  vop17 (.vmax d a b k) d a b k 0 (arith17 (fun _ _ x y => max x y) false fun _ => fMinMax true)

/-- VADDS. -/
def execVadds (d a b : BitVec 5) (k : BitVec 2) (r : BitVec 3) : State → Host.Outcome State Fault Refusal :=
  vop17 (.vadds d a b k r) d a b k r.toNat (arith17 (fun s w x y => clampInt s w (x + y)) true fAdd)

/-- VSUBS. -/
def execVsubs (d a b : BitVec 5) (k : BitVec 2) (r : BitVec 3) : State → Host.Outcome State Fault Refusal :=
  vop17 (.vsubs d a b k r) d a b k r.toNat (arith17 (fun s w x y => clampInt s w (x - y)) true fSub)

/-- VAND. -/
def execVand (d a b : BitVec 5) (k : BitVec 2) : State → Host.Outcome State Fault Refusal :=
  vop17 (.vand d a b k) d a b k 0 (bitOp fun x y => x &&& y)

/-- VOR. -/
def execVor (d a b : BitVec 5) (k : BitVec 2) : State → Host.Outcome State Fault Refusal :=
  vop17 (.vor d a b k) d a b k 0 (bitOp fun x y => x ||| y)

/-- VXOR. -/
def execVxor (d a b : BitVec 5) (k : BitVec 2) : State → Host.Outcome State Fault Refusal :=
  vop17 (.vxor d a b k) d a b k 0 (bitOp fun x y => x ^^^ y)

/-- The shift count: the operand's own bits (R189). -/
def VOpd.raw (t : Thread) (e : Nat) : VOpd → Nat
  | .reg v =>
    let x := (t.getV v).tag
    if tagDead x then t.vfill.toNat else (t.readV v x).code e
  | .sca r => (t.getS r).toNat
  | .imm i => (sext i).toNat

/-- The plan of a shift: K is va's computation tag alone, and b is not converted (R189). -/
def shiftPlan (a : BitVec 5) (o : VOpd) (g : Nat → Nat → Nat → Nat) (t : Thread) : VPlan :=
  let p := elemPlan 0x04 id [.reg a] 0 id (fun _ _ cs => (arg cs 0, 0)) t
  let w := tagWidth p.tag
  { p with
    poisoned := p.poisoned || o.poisoned t
    width := max p.width (srcWidth t 0 o)
    live := max p.live (srcWidth t 0 o)
    reads := p.reads ++ o.contents t
    elem := fun t en e =>
      let (c, f) := p.elem t en e
      (g w c (o.raw t e % w) % 2 ^ w, f) }

/-- A shift of major 0x17. -/
def vshift (i : Instr) (d a b : BitVec 5) (k : BitVec 2) (g : Nat → Nat → Nat → Nat) :
    State → Host.Outcome State Fault Refusal :=
  vecDest i (accepts 0x17) d true (shiftPlan a (opdOf k b) g)

/-- VSLL. -/
def execVsll (d a b : BitVec 5) (k : BitVec 2) : State → Host.Outcome State Fault Refusal :=
  vshift (.vsll d a b k) d a b k fun _ x n => x * 2 ^ n

/-- VSRL. -/
def execVsrl (d a b : BitVec 5) (k : BitVec 2) : State → Host.Outcome State Fault Refusal :=
  vshift (.vsrl d a b k) d a b k fun _ x n => x / 2 ^ n

/-- VSRA. -/
def execVsra (d a b : BitVec 5) (k : BitVec 2) : State → Host.Outcome State Fault Refusal :=
  vshift (.vsra d a b k) d a b k fun w x n => wrapInt w (signedOf w x / 2 ^ n)

/-- The acceptance of an instruction whose result may be block-scaled: no second destination then
(R138). -/
def noSecond (acc : Bool × Bool × Bool) (block : Bool) : Bool × Bool × Bool :=
  (acc.1, acc.2.1, acc.2.2 && !block)

/-- VMOV, register form: the bits and the stored tag (R190). -/
def execVmovVv (d a : BitVec 5) (s : State) : Host.Outcome State Fault Refusal :=
  vecDest (.vmovVv d a) (noSecond (accepts 0x17) (tagBlock (s.cur.getV a).tag)) d true (fun t =>
    let tag := t.srcTag a
    { poisoned := t.poisonedV a
      width := max (tagWidth tag) (tagWidth (compTag tag))
      tag := tag
      reads := t.contents a
      elem := fun t _ e => ((t.readV a tag).code e, 0)
      scale := fun t _ k => (t.readV a tag).scale (32 * k) }) s

/-- VMOV of a scalar under a named tag (R190). -/
def execVmovVs (d t b : BitVec 5) : State → Host.Outcome State Fault Refusal :=
  vecDest (.vmovVs d t b) (accepts 0x17) d true fun th =>
    { poisoned := th.poisonedS b, width := tagWidth t, tag := t, reads := []
      elem := fun th _ _ => ((th.getS b).toNat % 2 ^ tagWidth t, 0), scale := fun _ _ _ => 0 }

/-- VMOV of an immediate under a named tag (R190). -/
def execVmovVi (d t i : BitVec 5) : State → Host.Outcome State Fault Refusal :=
  vecDest (.vmovVi d t i) (accepts 0x17) d true fun _ =>
    { poisoned := false, width := tagWidth t, tag := t, reads := []
      elem := fun _ _ _ => (immElem t i, 0), scale := fun _ _ _ => 0 }

/-! ### Major 0x18 (R191) -/

/-- R177, step 3: K of major 0x18. -/
def floatK (k : BitVec 5) : BitVec 5 := if tagInt k then combineTags k 0x0A else k

/-- A binary instruction of major 0x18. -/
def vop18 (i : Instr) (d a b : BitVec 5) (k : BitVec 2) (rm : Nat)
    (f : BitVec 5 → RMode → List Nat → Nat × FFlags) : State → Host.Outcome State Fault Refusal :=
  vecDest i (accepts 0x18) d true (elemPlan 0x0A floatK [.reg a, opdOf k b] rm id f)

/-- A unary instruction of major 0x18. -/
def vop18u (i : Instr) (d a : BitVec 5) (rm : Nat) (res : BitVec 5 → BitVec 5)
    (f : BitVec 5 → RMode → List Nat → Nat × FFlags) : State → Host.Outcome State Fault Refusal :=
  vecDest i (accepts 0x18) d true (elemPlan 0x0A floatK [.reg a] rm res f)

/-- VFADD. -/
def execVfadd (d a b : BitVec 5) (k : BitVec 2) (r : BitVec 3) : State → Host.Outcome State Fault Refusal :=
  vop18 (.vfadd d a b k r) d a b k r.toNat fun k m => floatOp k m false fun x => fAdd m (x 0) (x 1)

/-- VFSUB. -/
def execVfsub (d a b : BitVec 5) (k : BitVec 2) (r : BitVec 3) : State → Host.Outcome State Fault Refusal :=
  vop18 (.vfsub d a b k r) d a b k r.toNat fun k m => floatOp k m false fun x => fSub m (x 0) (x 1)

/-- VFMUL. -/
def execVfmul (d a b : BitVec 5) (k : BitVec 2) (r : BitVec 3) : State → Host.Outcome State Fault Refusal :=
  vop18 (.vfmul d a b k r) d a b k r.toNat fun k m => floatOp k m false fun x => fMul (x 0) (x 1)

/-- VFDIV. -/
def execVfdiv (d a b : BitVec 5) (k : BitVec 2) (r : BitVec 3) : State → Host.Outcome State Fault Refusal :=
  vop18 (.vfdiv d a b k r) d a b k r.toNat fun k m => floatOp k m false fun x => fDiv (x 0) (x 1)

/-- VFSQRT. -/
def execVfsqrt (d a : BitVec 5) (r : BitVec 3) : State → Host.Outcome State Fault Refusal :=
  vop18u (.vfsqrt d a r) d a r.toNat id fun k m => floatOp k m false fun x => fSqrt (x 0)

/-- VFMIN. -/
def execVfmin (d a b : BitVec 5) (k : BitVec 2) : State → Host.Outcome State Fault Refusal :=
  vop18 (.vfmin d a b k) d a b k 0 fun k m => floatOp k m false fun x => fMinMax false (x 0) (x 1)

/-- VFMAX. -/
def execVfmax (d a b : BitVec 5) (k : BitVec 2) : State → Host.Outcome State Fault Refusal :=
  vop18 (.vfmax d a b k) d a b k 0 fun k m => floatOp k m false fun x => fMinMax true (x 0) (x 1)

/-- The sign bit of K. -/
def signOf (k : BitVec 5) : Nat := 2 ^ (tagWidth k - 1)

/-- VFNEG: NaN payloads are kept and no flag is set. -/
def execVfneg (d a : BitVec 5) : State → Host.Outcome State Fault Refusal :=
  vop18u (.vfneg d a) d a 0 id fun k _ cs => (arg cs 0 ^^^ signOf k, 0)

/-- VFABS. -/
def execVfabs (d a : BitVec 5) : State → Host.Outcome State Fault Refusal :=
  vop18u (.vfabs d a) d a 0 id fun k _ cs => (arg cs 0 % signOf k, 0)

/-- VFCPYS: a's magnitude with b's sign. -/
def execVfcpys (d a b : BitVec 5) (k : BitVec 2) : State → Host.Outcome State Fault Refusal :=
  vop18 (.vfcpys d a b k) d a b k 0 fun k _ cs => (arg cs 0 % signOf k + arg cs 1 / signOf k * signOf k, 0)

/-- VFKIND: the kind code of R170 under the tag n16. -/
def execVfkind (d a : BitVec 5) : State → Host.Outcome State Fault Refusal :=
  vop18u (.vfkind d a) d a 0 (fun _ => 0x06) fun k _ cs =>
    match fmtOfTag k with
    | some f => (f.kind (arg cs 0), 0)
    | none => (0, 0)

/-! ### Major 0x19 (R192) -/

/-- A three-source instruction: integer and floating meaning. -/
def vop19 (i : Instr) (d a b c : BitVec 5) (k : BitVec 2) (gi : Int → Int → Int → Int) (neg sub : Bool) :
    State → Host.Outcome State Fault Refusal :=
  let third : VOpd := if k = 1 then .sca c else .reg c
  vecDest i (accepts 0x19) d true (elemPlan 0x04 id [.reg a, .reg b, third] 7 id fun k m cs =>
    if tagInt k then
      (wrapInt (tagWidth k) (gi (tagIntVal k (arg cs 0)) (tagIntVal k (arg cs 1)) (tagIntVal k (arg cs 2))), 0)
    else floatOp k m false (fun x =>
      fFma m neg (x 0) (x 1) (if sub && !(x 2).isNan then (x 2).negate else x 2)) cs)

/-- VMADD. -/
def execVmadd (d a b c : BitVec 5) (k : BitVec 2) : State → Host.Outcome State Fault Refusal :=
  vop19 (.vmadd d a b c k) d a b c k (fun x y z => x * y + z) false false

/-- VMSUB. -/
def execVmsub (d a b c : BitVec 5) (k : BitVec 2) : State → Host.Outcome State Fault Refusal :=
  vop19 (.vmsub d a b c k) d a b c k (fun x y z => x * y - z) false true

/-- VNMADD. -/
def execVnmadd (d a b c : BitVec 5) (k : BitVec 2) : State → Host.Outcome State Fault Refusal :=
  vop19 (.vnmadd d a b c k) d a b c k (fun x y z => -(x * y) + z) true false

/-! ### Major 0x1A (R193) -/

/-- A compare: the integer relation, the relation on numbers, its value on a NaN, and whether a quiet
NaN sets NV. -/
def vcompare (i : Instr) (d : BitVec 3) (a b : BitVec 5) (k : BitVec 2) (gi : Int → Int → Bool)
    (gf : FVal → FVal → Bool) (onNan quiet : Bool) : State → Host.Outcome State Fault Refusal :=
  let ops := [VOpd.reg a, opdOf k b]
  maskDest i (accepts 0x1A) d true fun t =>
    let tags := opdTags t ops
    let rd := resolvedTag 0x04 tags
    let k := combinedTag 0x04 tags
    { opds := ops
      width := (ops.map (srcWidth t rd)).foldl max (tagWidth k)
      bit := fun t e =>
        let (cs, f) := readAll t k rd .rne e ops
        match fmtOfTag k with
        | none => (gi (tagIntVal k (arg cs 0)) (tagIntVal k (arg cs 1)), f)
        | some m =>
          let x := m.value (arg cs 0)
          let y := m.value (arg cs 1)
          let nv : FFlags := if x.isSig || y.isSig || (quiet && (x.isNan || y.isNan)) then fNV else 0
          (if x.isNan || y.isNan then onNan else gf x y, f ||| nv) }

/-- VCMPEQ. -/
def execVcmpeq (m : BitVec 3) (a b : BitVec 5) (k : BitVec 2) : State → Host.Outcome State Fault Refusal :=
  vcompare (.vcmpeq m a b k) m a b k (fun x y => x == y) numEq false false

/-- VCMPNE. -/
def execVcmpne (m : BitVec 3) (a b : BitVec 5) (k : BitVec 2) : State → Host.Outcome State Fault Refusal :=
  vcompare (.vcmpne m a b k) m a b k (fun x y => x != y) (fun x y => !numEq x y) true false

/-- VCMPLT. -/
def execVcmplt (m : BitVec 3) (a b : BitVec 5) (k : BitVec 2) : State → Host.Outcome State Fault Refusal :=
  vcompare (.vcmplt m a b k) m a b k (fun x y => decide (x < y)) numLt false true

/-- VCMPLE. -/
def execVcmple (m : BitVec 3) (a b : BitVec 5) (k : BitVec 2) : State → Host.Outcome State Fault Refusal :=
  vcompare (.vcmple m a b k) m a b k (fun x y => decide (x ≤ y)) (fun x y => numLt x y || numEq x y) false true

/-- VCMPGT. -/
def execVcmpgt (m : BitVec 3) (a b : BitVec 5) (k : BitVec 2) : State → Host.Outcome State Fault Refusal :=
  vcompare (.vcmpgt m a b k) m a b k (fun x y => decide (y < x)) (fun x y => numLt y x) false true

/-- VCMPGE. -/
def execVcmpge (m : BitVec 3) (a b : BitVec 5) (k : BitVec 2) : State → Host.Outcome State Fault Refusal :=
  vcompare (.vcmpge m a b k) m a b k (fun x y => decide (y ≤ x)) (fun x y => numLt y x || numEq x y) false true

/-- VCMPUN: no integer is unordered. -/
def execVcmpun (m : BitVec 3) (a b : BitVec 5) (k : BitVec 2) : State → Host.Outcome State Fault Refusal :=
  vcompare (.vcmpun m a b k) m a b k (fun _ _ => false) (fun _ _ => false) true false

/-! ### Major 0x1B (R194-R196) -/

/-- R195: one conversion of an element from its exact value under a stored tag. -/
def convert (dt : BitVec 5) (mode : RMode) (sat : Bool) (t : BitVec 5) (code scale : Nat) : Nat × FFlags :=
  let v := elemVal t code scale
  match fmtOfTag dt with
  | none =>
    if (codeFmt t).isNone then
      let x := tagIntVal t code
      (wrapInt (tagWidth dt) (if sat || dt == 0x0F then clampInt (tagSigned dt) (tagWidth dt) x else x), 0)
    else v.toInt mode (tagSigned dt) (tagWidth dt)
  | some f => if t = dt ∧ v.isSig = false then (code, 0) else f.ofVal mode sat v

/-- The stored tag of va as a conversion reads it, and the widths of R180. -/
def convTag (t : Thread) (a dead : BitVec 5) : BitVec 5 :=
  let x := t.srcTag a
  if x = 0 then dead else x

def convWidth (t : Thread) (a dead dt : BitVec 5) : Nat := max (srcWidth t dead (.reg a)) (tagWidth dt)

/-- VCVT and VCVTS. -/
def vconvert (i : Instr) (d a : BitVec 5) (r : BitVec 3) (dt : BitVec 5) (sat : Bool) :
    State → Host.Outcome State Fault Refusal :=
  vecDest i (accepts 0x1B) d true fun t =>
    let st := convTag t a dt
    { poisoned := t.poisonedV a, width := convWidth t a dt dt, tag := dt, reads := t.contents a
      elem := fun t _ e =>
        let src := t.readV a st
        convert dt (rmodeOf r.toNat t.rmode) sat st (src.code e) (src.scale e)
      scale := fun _ _ _ => 0 }

/-- VCVT: modulo or unsaturated. -/
def execVcvt (d a : BitVec 5) (r : BitVec 3) (t : BitVec 5) : State → Host.Outcome State Fault Refusal :=
  vconvert (.vcvt d a r t) d a r t false

/-- VCVTS: saturating. -/
def execVcvts (d a : BitVec 5) (r : BitVec 3) (t : BitVec 5) : State → Host.Outcome State Fault Refusal :=
  vconvert (.vcvts d a r t) d a r t true

/-- R139: emax of a block-scaled tag. -/
def blockEmax (dt : BitVec 5) : Int :=
  match dt.toNat with
  | 0x10 => 2
  | 0x11 => 8
  | _ => 0

/-- The exponent of the largest of some magnitudes: ⌊log2⌋, or none where all are zero; the flag says
that a NaN or an infinity is among them. -/
def blockTop : List FVal → Option Int × Bool
  | [] => (none, false)
  | v :: rest =>
    let (top, bad) := blockTop rest
    match v with
    | .num _ m e =>
      if m = 0 then (top, bad)
      else
        let x := e + (bitLen m : Int) - 1
        (some (match top with
          | some y => max x y
          | none => x), bad)
    | _ => (top, true)

/-- R139: the scale byte of a block. -/
def blockScale (dt : BitVec 5) (l : List FVal) : Nat :=
  match blockTop l with
  | (_, true) => 0xFF
  | (none, false) => 0
  | (some x, false) => (max 0 (min 254 (x - blockEmax dt + 127))).toNat

/-- The values of a block's enabled elements below `vl`. -/
def blockVals (t : Thread) (en : Nat → Bool) (src : VSrc) (k : Nat) : List FVal :=
  ((List.range 32).filter fun j => en (32 * k + j) && decide (32 * k + j < t.vl.toNat)).map fun j =>
    elemVal src.tag (src.code (32 * k + j)) (src.scale (32 * k + j))

/-- VQUANT. A dead va reads as f32 (R196). -/
def execVquant (d a : BitVec 5) (r : BitVec 3) (t : BitVec 2) : State → Host.Outcome State Fault Refusal :=
  let dt : BitVec 5 := 0x10 + t.setWidth 5
  vecDest (.vquant d a r t) (noSecond (accepts 0x1B) true) d true fun th =>
    let st := convTag th a 0x0A
    { poisoned := th.poisonedV a, width := convWidth th a 0x0A dt, tag := dt, reads := th.contents a
      elem := fun th en e =>
        let src := th.readV a st
        let vals := blockVals th en src (e / 32)
        let x := blockScale dt vals
        let v := elemVal st (src.code e) (src.scale e)
        match codeFmt dt with
        | none => (0, 0)
        | some f =>
          if x = 0xFF then (0, fNV)
          else if vals.all FVal.isZero then (0, 0)
          else f.ofVal (rmodeOf r.toNat th.rmode) true (v.scaled (127 - (x : Int)))
      scale := fun th en k => blockScale dt (blockVals th en (th.readV a st) k) }

/-! ### Major 0x1C (R197-R200) -/

/-- K of major 0x1C: f32, bf16 or f16. -/
def approxK (k : BitVec 5) : BitVec 5 :=
  let k := floatK k
  if k = 0x09 then 0x0A else k

/-- The largest number from 0 to 255 that meets a condition which 0 meets, bit by bit from 2^k. -/
def largest (ok : Nat → Bool) : Nat → Nat → Nat
  | 0, r => r
  | k + 1, r => largest ok k (if ok (r + 2 ^ k) then r + 2 ^ k else r)

/-- The top n fraction bits of a number's significand. -/
def topFrac (m n : Nat) : Nat := m * 2 ^ n / 2 ^ (bitLen m - 1) % 2 ^ n

/-- R198: the exact value of VRCP. -/
def rcpVal : FVal → FVal × FFlags
  | .nan n s f => (.nan n false (f ||| 2 ^ 51), if s then fNV else 0)
  | .inf n => (.num n 0 0, 0)
  | .num n m e =>
    if m = 0 then (.inf n, fDZ)
    else
      let i := topFrac m 7
      let t := (512 * (255 - 2 * i) + 257 + 2 * i) / (514 + 4 * i)
      (.num n (256 + t) (-(e + (bitLen m : Int) - 1) - 9), 0)

/-- R199: the exact value of VRSQRT. -/
def rsqrtVal : FVal → FVal × FFlags
  | .nan n s f => (.nan n false (f ||| 2 ^ 51), if s then fNV else 0)
  | .inf n => if n then (.invalid, fNV) else (.num false 0 0, 0)
  | .num n m e =>
    if m = 0 then (.inf n, fDZ)
    else if n then (.invalid, fNV)
    else
      let x := e + (bitLen m : Int) - 1
      let q := (129 + 2 * topFrac m 6) * (if x % 2 = 0 then 1 else 2)
      let t := largest (fun t => decide (q * (511 + 2 * t) ^ 2 ≤ 134217728)) 8 0
      (.num false (256 + t) (-(x / 2) - 9), 0)

/-- R200: the exact value of VEXP2. Exponents beyond ±1000 round alike in every K. -/
def exp2Val : FVal → FVal × FFlags
  | .nan n s f => (.nan n false (f ||| 2 ^ 51), if s then fNV else 0)
  | .inf n => (if n then .num false 0 0 else .inf false, 0)
  | .num n m e =>
    let x : Int := if n then -(m : Int) else m
    let y : Int := if 0 ≤ e + 8 then x * 2 ^ (e + 8).toNat else x / 2 ^ (-(e + 8)).toNat
    let i := (y % 256).toNat
    let t := largest (fun t => decide ((511 + 2 * t) ^ 512 ≤ 2 ^ (4609 + 2 * i))) 8 0
    (.num false (256 + t) (max (-1000) (min 1000 (y / 256)) - 8), 0)

/-- An approximate function: NX is never set alone (R197). -/
def vapprox (i : Instr) (d a : BitVec 5) (g : FVal → FVal × FFlags) : State → Host.Outcome State Fault Refusal :=
  vecDest i (accepts 0x1C) d true (elemPlan 0x0A approxK [.reg a] 0 id fun k _ cs =>
    match fmtOfTag k with
    | none => (0, 0)
    | some f =>
      let (v, f1) := g (f.value (arg cs 0))
      let (c, f2) := f.ofVal .rne false v
      (c, f1 ||| (if f2 &&& (fOF ||| fUF) = 0 then f2 &&& ~~~fNX else f2)))

/-- VRCP. -/
def execVrcp (d a : BitVec 5) : State → Host.Outcome State Fault Refusal :=
  vapprox (.vrcp d a) d a rcpVal

/-- VRSQRT. -/
def execVrsqrt (d a : BitVec 5) : State → Host.Outcome State Fault Refusal :=
  vapprox (.vrsqrt d a) d a rsqrtVal

/-- VEXP2. -/
def execVexp2 (d a : BitVec 5) : State → Host.Outcome State Fault Refusal :=
  vapprox (.vexp2 d a) d a exp2Val

end Sys2Proof.Machine
end

