-- ==== Sys2Proof/Machine/Permute.lean ====
section
/-!
DEFINITION. Index generation, permutation, reduction, scans, conflict detection and mask operations:
majors 0x1D, 0x1E and 0x1F (R201-R219).
-/

namespace Sys2Proof.Machine

/-! ### Major 0x1D (R202, R207-R211) -/

/-- R202: the tag under which a source is moved; block-scaled codes move raw. -/
def moveTag (t : BitVec 5) : BitVec 5 :=
  if t = 0x10 then 0x0F else if t = 0x11 ∨ t = 0x12 then 0x05 else t

/-- A source that is moved: its companion is neither read nor able to poison it. -/
def Thread.ownPoison (t : Thread) (v : BitVec 5) : Bool := tagPoison (t.getV v).tag

def Thread.ownContents (t : Thread) (v : BitVec 5) : List (BitVec 5) :=
  if tagDead (t.getV v).tag then [] else [v]

/-- The stored bits of element e of a moved source. -/
def Thread.moved (t : Thread) (v : BitVec 5) (e : Nat) : Nat :=
  elemOf (t.getV v).bits (tagWidth (moveTag (t.getV v).tag)) e

/-- FILL at the width of a tag. -/
def Thread.fillOf (t : Thread) (tag : BitVec 5) : Nat := t.vfill.toNat % 2 ^ tagWidth tag

/-- The plan of an instruction that moves elements of va; `width` is what other sources add to W. -/
def movePlan (a : BitVec 5) (bad : Thread → Bool) (width : Thread → Nat) (more : Thread → List (BitVec 5))
    (elem : Thread → Nat → Nat × FFlags) (t : Thread) : VPlan :=
  let tag := moveTag (t.srcTag a)
  { poisoned := t.ownPoison a || bad t
    width := max (tagWidth tag) (width t)
    tag := tag
    reads := t.ownContents a ++ more t
    elem := fun t _ => elem t
    scale := fun _ _ _ => 0 }

/-- VIDX: start + e × step (R208). -/
def execVidx (d : BitVec 5) (s t : BitVec 8) (g : BitVec 2) : State → Host.Outcome State Fault Refusal :=
  let tag : BitVec 5 := g.setWidth 5 + 1
  vecDest (.vidx d s t g) (accepts 0x1D) d false fun _ =>
    { poisoned := false, width := tagWidth tag, tag := tag, reads := []
      elem := fun _ _ e => (wrapInt (tagWidth tag) ((s.toNat : Int) + e * t.toInt), 0)
      scale := fun _ _ _ => 0 }

/-- The index of element e of VGATHER (R209). -/
def gatherIndex (t : Thread) (e : Nat) : VOpd → Nat
  | .reg v => if tagDead (t.getV v).tag then t.vfill.toNat % 65536
      else elemOf (t.getV v).bits (tagWidth (t.getV v).tag) e
  | .sca r => (t.getS r).toNat
  | .imm i => (sext i).toNat

/-- The width that VGATHER's index operand adds to W. -/
def gatherWidth (t : Thread) : VOpd → Nat
  | .reg v => if tagDead (t.getV v).tag then 16 else tagWidth (t.getV v).tag
  | _ => 0

/-- VGATHER. -/
def execVgather (d a b : BitVec 5) (k : BitVec 2) (s : State) : Host.Outcome State Fault Refusal :=
  let o := opdOf k b
  let bad (t : Thread) : Bool := match o with
    | .reg v => t.ownPoison v
    | o => o.poisoned t
  let more (t : Thread) : List (BitVec 5) := match o with
    | .reg v => t.ownContents v
    | _ => []
  vecDest (.vgather d a b k) (accepts 0x1D) d false (movePlan a bad (fun t => gatherWidth t o) more
    fun t e =>
      let tag := moveTag (t.getV a).tag
      let i := gatherIndex t e o
      if i < t.vl.toNat then (t.moved a i, 0)
      else (t.fillOf tag, if i < s.vlmax s.cur.core (tagWidth tag) then 0 else fOOR)) s

/-- A slide (R210): the result for element e from the amount or inserted value. -/
def slide (i : Instr) (d a : BitVec 5) (o : VOpd) (f : Thread → Nat → Nat → Nat) :
    State → Host.Outcome State Fault Refusal :=
  vecDest i (accepts 0x1D) d false (movePlan a (o.poisoned ·) (fun _ => 0) (fun _ => []) fun t e =>
    let x := match o with
      | .sca r => (t.getS r).toNat
      | .imm i => i.toNat
      | .reg _ => 0
    (f t x e, 0))

/-- VSLIDEUP. -/
def execVslideup (d a b : BitVec 5) (k : BitVec 2) : State → Host.Outcome State Fault Refusal :=
  slide (.vslideup d a b k) d a (opdOf k b) fun t n e =>
    if n ≤ e then t.moved a (e - n) else t.fillOf (moveTag (t.getV a).tag)

/-- VSLIDEDN. -/
def execVslidedn (d a b : BitVec 5) (k : BitVec 2) : State → Host.Outcome State Fault Refusal :=
  slide (.vslidedn d a b k) d a (opdOf k b) fun t n e =>
    if e + n < t.vl.toNat then t.moved a (e + n) else t.fillOf (moveTag (t.getV a).tag)

/-- VSLIDE1UP. -/
def execVslide1up (d a b : BitVec 5) : State → Host.Outcome State Fault Refusal :=
  slide (.vslide1up d a b) d a (.sca b) fun t x e =>
    if e = 0 then x % 2 ^ tagWidth (moveTag (t.getV a).tag) else t.moved a (e - 1)

/-- VSLIDE1DN. -/
def execVslide1dn (d a b : BitVec 5) : State → Host.Outcome State Fault Refusal :=
  slide (.vslide1dn d a b) d a (.sca b) fun t x e =>
    if e + 1 = t.vl.toNat then x % 2 ^ tagWidth (moveTag (t.getV a).tag) else t.moved a (e + 1)

/-- R205: VCOMPRESS and VEXPAND refuse a mask predicate. -/
def noMask (acc : Bool × Bool × Bool) : Bool × Bool × Bool := (acc.1, false, acc.2.2)

/-- The elements below `vl` that a mask selects, in order (R211). -/
def Thread.selected (t : Thread) (m : BitVec 3) : List Nat :=
  (List.range t.vl.toNat).filter fun e => (t.getM m).getLsbD e

/-- VCOMPRESS. -/
def execVcompress (d a : BitVec 5) (m : BitVec 3) : State → Host.Outcome State Fault Refusal :=
  vecDest (.vcompress d a m) (noMask (accepts 0x1D)) d false
    (movePlan a (fun _ => false) (fun _ => 0) (fun _ => []) fun t =>
      let l := t.selected m
      fun e => match l[e]? with
        | some i => (t.moved a i, 0)
        | none => (t.fillOf (moveTag (t.getV a).tag), 0))

/-- VEXPAND. -/
def execVexpand (d a : BitVec 5) (m : BitVec 3) : State → Host.Outcome State Fault Refusal :=
  vecDest (.vexpand d a m) (noMask (accepts 0x1D)) d false
    (movePlan a (fun _ => false) (fun _ => 0) (fun _ => []) fun t =>
      let l := t.selected m
      fun e =>
        if (t.getM m).getLsbD e then (t.moved a (l.filter (· < e)).length, 0)
        else (t.fillOf (moveTag (t.getV a).tag), 0))

/-! ### Reductions (R148, R213) -/

inductive RedOp where
  | sum | max | min | and | or
  deriving DecidableEq, Repr

/-- The operator's identity in K. -/
def RedOp.identity (op : RedOp) (k : BitVec 5) : Nat :=
  let w := tagWidth k
  match op, fmtOfTag k with
  | .and, _ => 2 ^ w - 1
  | .or, _ => 0
  | .sum, none => 0
  | .max, none => wrapInt w (intMin (tagSigned k) w)
  | .min, none => wrapInt w (intMax (tagSigned k) w)
  | .sum, some f => f.sign true
  | .max, some f => (f.ofVal .rne false (.inf true)).1
  | .min, some f => (f.ofVal .rne false (.inf false)).1

/-- One combination in K, rounded once. -/
def RedOp.apply (op : RedOp) (k : BitVec 5) (mode : RMode) (a b : Nat) : Nat × FFlags :=
  match op with
  | .and => (a &&& b, 0)
  | .or => (a ||| b, 0)
  | .sum => arith17 (fun _ _ x y => x + y) false fAdd k mode [a, b]
  | .max => arith17 (fun _ _ x y => Max.max x y) false (fun _ => fMinMax true) k .rne [a, b]
  | .min => arith17 (fun _ _ x y => Min.min x y) false (fun _ => fMinMax false) k .rne [a, b]

/-- One level of the tree: neighbours combined. -/
def pairUp (f : Nat → Nat → Nat × FFlags) : List Nat → List Nat × FFlags
  | a :: b :: rest =>
    let (c, f1) := f a b
    let (r, f2) := pairUp f rest
    (c :: r, f1 ||| f2)
  | l => (l, 0)

/-- The tree of R148 over 2^n values. -/
def treeRed (f : Nat → Nat → Nat × FFlags) : Nat → List Nat → Nat × FFlags
  | 0, l => (l.headD 0, 0)
  | n + 1, l =>
    let (l', f1) := pairUp f l
    let (r, f2) := treeRed f n l'
    (r, f1 ||| f2)

/-- R148 over a list of values with an operator and its identity, without a scalar operand. -/
def reduceList (f : Nat → Nat → Nat × FFlags) (ident : Nat) (l : List Nat) : Nat × FFlags :=
  let n := bitLen (l.length - 1)
  treeRed f n (l ++ List.replicate (2 ^ n - l.length) ident)

/-- The elements of va below `vl` in K, disabled ones as the identity, with the conversions' flags. -/
def convAll (t : Thread) (a k rd : BitVec 5) (mode : RMode) (en : Nat → Bool) (ident : Nat) :
    Nat → Nat → List Nat × FFlags
  | _, 0 => ([], 0)
  | e, n + 1 =>
    let (c, f1) := if en e then VOpd.read t k rd mode e (.reg a) else (ident, 0)
    let (cs, f2) := convAll t a k rd mode en ident (e + 1) n
    (c :: cs, f1 ||| f2)

/-- K of a value extended to 64 bits (R213). -/
def extendK (k : BitVec 5) (x : Nat) : Word :=
  if tagInt k then BitVec.ofInt 64 (tagIntVal k x) else BitVec.ofNat 64 x

/-- W of R180 for a reduction or a scan of va in K; nothing where va is tagged poison (R201). -/
def foldWidth (t : Thread) (a k rd : BitVec 5) : Nat :=
  if tagPoison (t.getV a).tag then 0 else max (srcWidth t rd (.reg a)) (tagWidth k)

/-- A reduction: S[d] from the elements of va and S[b]. -/
def reduction (i : Instr) (op : RedOp) (d a b : BitVec 5) (rm : Nat) :
    State → Host.Outcome State Fault Refusal :=
  let plan (t : Thread) : BitVec 5 × BitVec 5 × Nat :=
    let tags := [t.srcTag a]
    let rd := resolvedTag 0x04 tags
    let k := combinedTag 0x04 tags
    (k, rd, max (srcWidth t rd (.reg a)) (tagWidth k))
  let put (l : Option (BitVec 12)) (w : Nat) (v : Word) (p : Bool) (f : FFlags) (s : State) : Res :=
    let t := s.cur.setS d v p
    let t := if l.isSome then t.copyS d else t
    .done { s with cur := t.vdone i 0 w f }
  issue i (accepts 0x1E)
    (fun s =>
      if s.cur.vl = 0 then .nop { s with cur := s.cur.setS d 0 false }
      else
        let (_, _, w) := plan s.cur
        if s.tooLong w then .trap (lengthTrap s (encode i) w false) s
        else .done { s with cur := (s.cur.setS d 0 false).copyS d })
    (fun l s =>
      if s.cur.vl = 0 then .nop { s with cur := s.cur.setS d (s.cur.getS b) (s.cur.poisonedS b) }
      else
        let (k, rd, _) := plan s.cur
        let w := foldWidth s.cur a k rd
        if s.tooLong w then .trap (lengthTrap s (encode i) w false) s
        else if s.cur.poisonedV a then put l w (s.cur.getS b) true 0 s
        else if s.streaming (s.cur.contents a) then .held s
        else match s.loadVs (s.cur.contents a) with
          | (s, false) => .held s.fatal
          | (s, true) =>
            let t := s.cur
            let mode := if op = .sum then rmodeOf rm t.rmode else .rne
            let f := op.apply k mode
            let ident := op.identity k
            let (es, f1) := convAll t a k rd mode (t.enabled l) ident 0 t.vl.toNat
            let (x, f2) := reduceList f ident es
            let (r, f3) := f ((t.getS b).toNat % 2 ^ tagWidth k) x
            let flags := if op = .and ∨ op = .or then 0 else f1 ||| f2 ||| f3
            put l w (extendK k r) (t.poisonedS b) flags s)

/-- VREDSUM. -/
def execVredsum (d a b : BitVec 5) (r : BitVec 3) : State → Host.Outcome State Fault Refusal :=
  reduction (.vredsum d a b r) .sum d a b r.toNat

/-- VREDMAX. -/
def execVredmax (d a b : BitVec 5) : State → Host.Outcome State Fault Refusal :=
  reduction (.vredmax d a b) .max d a b 0

/-- VREDMIN. -/
def execVredmin (d a b : BitVec 5) : State → Host.Outcome State Fault Refusal :=
  reduction (.vredmin d a b) .min d a b 0

/-- VREDAND. -/
def execVredand (d a b : BitVec 5) : State → Host.Outcome State Fault Refusal :=
  reduction (.vredand d a b) .and d a b 0

/-- VREDOR. -/
def execVredor (d a b : BitVec 5) : State → Host.Outcome State Fault Refusal :=
  reduction (.vredor d a b) .or d a b 0

/-! ### Scans (R214) -/

/-- One step of a scan at distance d: `back` holds the values d places earlier. -/
def scanStep (f : Nat → Nat → Nat × FFlags) : List Nat → List Nat → List Nat × FFlags
  | b :: back, x :: xs =>
    let (c, f1) := f b x
    let (r, f2) := scanStep f back xs
    (c :: r, f1 ||| f2)
  | _, _ => ([], 0)

/-- The doubling steps; at most n of them. -/
def scanSteps (f : Nat → Nat → Nat × FFlags) : Nat → Nat → List Nat → List Nat × FFlags
  | 0, _, l => (l, 0)
  | n + 1, d, l =>
    if d < l.length then
      let (r, f1) := scanStep f l (l.drop d)
      let (l', f2) := scanSteps f n (2 * d) (l.take d ++ r)
      (l', f1 ||| f2)
    else (l, 0)

/-- A scan; the flags of its steps are given to the first element that is written. -/
def scan (i : Instr) (op : RedOp) (excl : Bool) (d a b : BitVec 5) (rm : Nat) :
    State → Host.Outcome State Fault Refusal :=
  vecDest i (accepts 0x1E) d false fun t =>
    let tags := [t.srcTag a]
    let rd := resolvedTag 0x04 tags
    let k := combinedTag 0x04 tags
    { poisoned := t.poisonedV a || t.poisonedS b
      width := max (srcWidth t rd (.reg a)) (tagWidth k)
      live := foldWidth t a k rd
      tag := k
      reads := t.contents a
      elem := fun t en =>
        let mode := if op = .sum then rmodeOf rm t.rmode else .rne
        let f := op.apply k mode
        let (es, f1) := convAll t a k rd mode en (op.identity k) 0 t.vl.toNat
        let (l, f2) := scanSteps f 12 1 es
        let x := (t.getS b).toNat % 2 ^ tagWidth k
        fun e =>
          let (c, f3) :=
            if excl = false then f x (l[e]?.getD 0)
            else if e = 0 then (x, 0)
            else f x (l[e - 1]?.getD 0)
          (c, f1 ||| f2 ||| f3)
      scale := fun _ _ _ => 0 }

/-- VSCANSUM. -/
def execVscansum (d a b : BitVec 5) (r : BitVec 3) : State → Host.Outcome State Fault Refusal :=
  scan (.vscansum d a b r) .sum false d a b r.toNat

/-- VSCANMAX. -/
def execVscanmax (d a b : BitVec 5) : State → Host.Outcome State Fault Refusal :=
  scan (.vscanmax d a b) .max false d a b 0

/-- VSCANMIN. -/
def execVscanmin (d a b : BitVec 5) : State → Host.Outcome State Fault Refusal :=
  scan (.vscanmin d a b) .min false d a b 0

/-- VXSCANSUM. -/
def execVxscansum (d a b : BitVec 5) (r : BitVec 3) : State → Host.Outcome State Fault Refusal :=
  scan (.vxscansum d a b r) .sum true d a b r.toNat

/-- VXSCANMAX. -/
def execVxscanmax (d a b : BitVec 5) : State → Host.Outcome State Fault Refusal :=
  scan (.vxscanmax d a b) .max true d a b 0

/-- VXSCANMIN. -/
def execVxscanmin (d a b : BitVec 5) : State → Host.Outcome State Fault Refusal :=
  scan (.vxscanmin d a b) .min true d a b 0

/-- VCONF: earlier enabled elements with the same bits; a dead va compares every element equal (R215). -/
def execVconf (d a : BitVec 5) : State → Host.Outcome State Fault Refusal :=
  vecDest (.vconf d a) (accepts 0x1E) d false fun t =>
    { poisoned := t.ownPoison a
      width := max 16 (tagWidth (moveTag (t.srcTag a)))
      tag := 0x06
      reads := t.ownContents a
      elem := fun t en e =>
        (((List.range e).filter fun j => en j && t.moved a j == t.moved a e).length % 65536, 0)
      scale := fun _ _ _ => 0 }

/-! ### Mask counts and mask operations (R216-R219) -/

/-- The enabled elements below `vl` with a mask bit set, in order. -/
def Thread.hits (t : Thread) (m : BitVec 3) : List Nat :=
  (List.range t.vl.toNat).filter fun e => (t.getM m).getLsbD e && t.enabled t.latch e

/-- MPOPC and MFIRST. With `vl` = 0 no second destination is written (R203). -/
def maskCount (i : Instr) (d : BitVec 5) (f : Thread → Word) : State → Host.Outcome State Fault Refusal :=
  let put (v : Word) (s : State) : Res :=
    let t := s.cur.setS d v false
    if t.vl = 0 then .nop { s with cur := t } else .done { s with cur := (t.copyS d).vdone i 0 0 0 }
  issue i (accepts 0x1E) (put 0) (fun _ s => put (f s.cur) s)

/-- MPOPC. -/
def execMpopc (d : BitVec 5) (m : BitVec 3) : State → Host.Outcome State Fault Refusal :=
  maskCount (.mpopc d m) d fun t => BitVec.ofNat 64 (t.hits m).length

/-- MFIRST. -/
def execMfirst (d : BitVec 5) (m : BitVec 3) : State → Host.Outcome State Fault Refusal :=
  maskCount (.mfirst d m) d fun t => match t.hits m with
    | [] => BitVec.allOnes 64
    | e :: _ => BitVec.ofNat 64 e

/-- R219: what a mask operation leaves in the queue: an entry without a place on a V-core or C-core, nothing on a
T-core, whose scalar pipe executes it. -/
def State.maskDone (s : State) (i : Instr) (t : Thread) : State :=
  { s with cur := if s.cls t.core = some .t then t else t.enqueue (t.entryOf i 0x1F 0 0 0) }

/-- An instruction of major 0x1F: bits 0 to vl − 1 of m(d); it takes no place in the vector queue. -/
def maskOp (i : Instr) (d : BitVec 3) (f : Thread → Nat → Bool) : State → Host.Outcome State Fault Refusal :=
  issue i (accepts 0x1F)
    (fun s => .done (s.maskDone i (s.cur.setM d (mergeBits s.cur.vl.toNat 0 (s.cur.getM d)))))
    (fun l s =>
      let t := s.cur
      let g := f t
      let (bs, _) := runBits (fun e => (g e, 0)) (t.enabled l) (zeroing l) 0 t.vl.toNat
      .done (s.maskDone i (t.setM d (setMaskBits (t.getM d) 0 bs))))

/-- MLOG: a truth table on two masks. -/
def execMlog (d a b : BitVec 3) (tt : BitVec 4) : State → Host.Outcome State Fault Refusal :=
  maskOp (.mlog d a b tt) d fun t e =>
    tt.getLsbD ((if (t.getM a).getLsbD e then 2 else 0) + (if (t.getM b).getLsbD e then 1 else 0))

/-- The lowest enabled element below `vl` with a mask bit set, or `vl` (R218). -/
def Thread.firstHit (t : Thread) (m : BitVec 3) : Nat := (t.hits m).headD t.vl.toNat

/-- MSBF: set before the first. -/
def execMsbf (d a : BitVec 3) : State → Host.Outcome State Fault Refusal :=
  maskOp (.msbf d a) d fun t => let f := t.firstHit a; fun e => decide (e < f)

/-- MSIF: set including the first. -/
def execMsif (d a : BitVec 3) : State → Host.Outcome State Fault Refusal :=
  maskOp (.msif d a) d fun t => let f := t.firstHit a; fun e => decide (e ≤ f)

/-- MSOF: set only the first. -/
def execMsof (d a : BitVec 3) : State → Host.Outcome State Fault Refusal :=
  maskOp (.msof d a) d fun t => let f := t.firstHit a; fun e => decide (e = f)

end Sys2Proof.Machine
end

