-- ==== Sys2Proof/Machine/Memory.lean ====
section
/-!
DEFINITION. Scalar memory instructions: loads, stores, group loads, ordered and full-empty accesses,
atomics, fences, WAITA, write-back and stash mapping (majors 0x22 to 0x25 and 0x29, R332-R338,
R345-R354). Accesses are performed one after another, in program order: one of the orders that R315
allows (log entry 1).
-/

namespace Sys2Proof.Machine

/-! ### Shared -/

/-- A scalar access: misaligned first, then the faults of its place (R250, R332). -/
def State.access (s : State) (space : Nat) (addr : Word) (n : Nat) (k : Want) : State × Except Trap Place :=
  if addr.toNat % n ≠ 0 then (s, .error (.plain 8 addr))
  else match s.locate space addr n k with
    | (s, .error (c, v)) => (s, .error (.plain c v))
    | (s, .ok p) => (s, .ok p)

/-- An instruction that loads S[d]: a poisoned address performs nothing and poisons d (R73). -/
def loadDest (i : Instr) (d a : BitVec 5) (body : State → Res) : State → Host.Outcome State Fault Refusal :=
  scalarDest i d fun s =>
    if s.cur.poisonedS a then
      .done (if d = 0 then { s with cur := { s.cur with latch := none } } else { s with cur := s.cur.poisonS d })
    else body s

/-- Load n bytes at an address and write S[d]. -/
def loadInto (d : BitVec 5) (space : Nat) (addr : Word) (n : Nat) (k : Want) (ext : Nat → Word)
    (s : State) : Res :=
  match s.access space addr n k with
  | (s, .error x) => .trap x s
  | (s, .ok p) =>
    let (s, v) := s.load space addr p n
    .done (s.putS d (ext v) [])

/-- Store the low n bytes of a value at an address. -/
def storeFrom (space : Nat) (addr : Word) (n : Nat) (v : Nat) (s : State) : Res :=
  match s.access space addr n wantStore with
  | (s, .error x) => .trap x s
  | (s, .ok p) => .done (s.store space addr p n v)

/-- Zero-extension of a loaded value. -/
def zeroExt (v : Nat) : Word := BitVec.ofNat 64 v

/-- Bytes of a size code, and its extension (R335). -/
def sizeBytes (z : Nat) : Nat := 2 ^ (z % 4)
def sizeExt (z : Nat) (v : Nat) : Word :=
  if 4 ≤ z then BitVec.ofInt 64 (signedOf (8 * sizeBytes z) v) else zeroExt v

/-! ### Majors 0x22 and 0x23 (R335) -/

/-- LD. -/
def execLd (d a : BitVec 5) (z : BitVec 3) (p : BitVec 2) (o : BitVec 11) :
    State → Host.Outcome State Fault Refusal :=
  loadDest (.ld d a z p o) d a fun s =>
    let n := sizeBytes z.toNat
    loadInto d p.toNat (s.cur.getS a + sext o * BitVec.ofNat 64 n) n wantLoad (sizeExt z.toNat) s

/-- ST. -/
def execSt (d a : BitVec 5) (z p : BitVec 2) (o : BitVec 11) : State → Host.Outcome State Fault Refusal :=
  plainOp (.st d a z p o) (consume [(a, 0), (d, 3)] fun s =>
    let n := sizeBytes z.toNat
    storeFrom p.toNat (s.cur.getS a + sext o * BitVec.ofNat 64 n) n (s.cur.getS d).toNat s)

/-! ### Group loads (R287, R336, R345, R346, R413) -/

/-- R413: the members of a group, as logical cores; none where no logical core is named. -/
def State.groupMembers (s : State) (ctx handle : Nat) : Option (List (Option Nat)) :=
  let w := s.table 5 ctx handle 0
  let base := tfield w 6 2
  let stride := signedOf 16 (tfield w 8 2)
  let member (j : Nat) : Option Nat :=
    if w.getLsbD 1 then
      if base + j / 16 < 1024 then some (tfield (s.table 6 ctx (base + j / 16) 0) (2 * (j % 16)) 2) else none
    else
      let x : Int := base + j * stride
      if 0 ≤ x ∧ x < 16384 then some x.toNat else none
  if tvalid w then some ((List.range (tfield w 4 1 + 1)).map member) else none

/-- R423: a member with the physical core that its core entry names as the load issues. -/
def State.memberCore (s : State) (ctx : Nat) (m : Option Nat) : Option (Nat × Nat) :=
  m.bind fun l => (s.coreNamed ctx l).map fun core => (l, core)

/-- R287: the members that a GROUP address of n bytes reads, or none for a bound fault. -/
def State.groupPlace (s : State) (addr : Word) (n : Nat) : Option (List (Option (Nat × Nat))) :=
  if addr.toNat / 2 ^ 32 ≠ 0 then none
  else match s.groupMembers s.cur.ctx (bits addr.toNat 20 12) with
    | none => none
    | some l =>
      let l := l.map (s.memberCore s.cur.ctx)
      let inside (m : Option (Nat × Nat)) : Bool := match m with
        | some q => decide (addr.toNat % 2 ^ 20 + n ≤ s.localBytes q.2)
        | none => true
      if l.all inside then some l else none

/-- What a member answers when the request reaches it (R345, R346): its state is that of this moment. -/
def State.memberReply (s : State) (ctx off n : Nat) (m : Option (Nat × Nat)) : MemberReply :=
  match m with
  | none => .absent
  | some (l, core) =>
    if (s.available ctx l).isNone then .absent
    else if s.badRange (windowBase core + off) n then .failed
    else .value (BitVec.ofNat 64 (readNat s.mem (windowBase core + off) n))

/-- The operator of a group code (R336). -/
def groupOp (c : Nat) : RedOp :=
  match c with
  | 0 => .sum
  | 1 => .max
  | 2 => .min
  | 3 => .and
  | _ => .or

/-- R150: the replies combined in the element tag; absent members give the identity. -/
def groupCombine (op : RedOp) (tag : BitVec 5) (l : List MemberReply) : Nat × FFlags :=
  let value (r : MemberReply) : Nat := match r with
    | .value v => v.toNat
    | _ => op.identity tag
  reduceList (op.apply tag .rne) (op.identity tag) (l.map value)

/-- R346: record each member whose bytes could not be read. -/
def State.recordFailures (s : State) (handle : Nat) : Nat → List MemberReply → State
  | _, [] => s
  | j, r :: rest =>
    let s := if r = .failed then
        s.record (dieOf s.cur.core) 0x08 s.cur.core (Config.eventArg 0x08 [j, handle])
      else s
    s.recordFailures handle (j + 1) rest

/-- The number of absent members. -/
def absences (l : List MemberReply) : Nat := (l.filter (· == .absent)).length

/-- R336: the combined element in the status word. -/
def groupStatus (tag : BitVec 5) (v absent : Nat) : Word :=
  BitVec.ofNat 64 ((if tagInt tag then wrapInt 32 (tagIntVal tag v) else v) + absent * 2 ^ 32)

/-- The members that have not answered answer now, and the load completes. -/
def groupFinish (d : BitVec 5) (op : BitVec 3) (tag : BitVec 5) (addr : Word)
    (members : List (Option (Nat × Nat) × MemberReply)) (s : State) : Res :=
  let n := tagWidth tag / 8
  let settle (m : Option (Nat × Nat) × MemberReply) : MemberReply :=
    if m.2 = .pending then s.memberReply s.cur.ctx (addr.toNat % 2 ^ 20) n m.1 else m.2
  let replies := members.map settle
  let s := { s with cur := { s.cur with stall := none } }
  let s := s.recordFailures (bits addr.toNat 20 12) 0 replies
  if replies.contains .failed then
    .done { s with cur := s.cur.setS d (groupStatus tag 0 (absences replies)) true }
  else
    let (v, f) := groupCombine (groupOp op.toNat) tag replies
    .done { s with cur := (s.cur.setS d (groupStatus tag v (absences replies)) false).orFlags f }

/-- The scalar group load: it sends one request to each member and completes once all have answered. -/
def execLdGrp (d a : BitVec 5) (o : BitVec 3) (t : BitVec 5) : State → Host.Outcome State Fault Refusal :=
  loadDest (.ldGrp d a o t) d a fun s =>
    let addr := s.cur.getS a
    let n := tagWidth t / 8
    match s.cur.stall with
    | some (.group _ op tag _ members) => groupFinish d op tag addr members s
    | _ =>
      if addr.toNat % n ≠ 0 then .trap (.plain 8 addr) s
      else match s.groupPlace addr n with
        | none => .trap (.plain 9 addr) s
        | some l =>
          let ask := l.map fun m => (m, MemberReply.pending)
          .held { s with cur := { s.cur with stall := some (.group d o t (addr.toNat % 2 ^ 20) ask) } }

/-- GROUP_MEMBER_REQUEST: the request of a group load reaches member j, which is decided then (R345). -/
def execGroupMemberRequest (c t j : Nat) (s : State) : Host.Outcome State Fault Refusal :=
  .next (s.onThread { ctx := c, tid := t } fun s =>
    match s.cur.stall with
    | some (.group d op tag off members) =>
      match members[j]? with
      | some (m, .pending) =>
        let r := s.memberReply c off (tagWidth tag / 8) m
        { s with cur := { s.cur with stall := some (.group d op tag off (members.set j (m, r))) } }
      | _ => s
    | _ => s)

/-! ### Major 0x24 (R337, R288) -/

/-- Bytes of the w field. -/
def wordBytes (w : BitVec 1) : Nat := if w = 1 then 8 else 4

/-- LD with semantics. -/
def execLdSem (d a : BitVec 5) (c : BitVec 3) (e : BitVec 2) (w p : BitVec 1) :
    State → Host.Outcome State Fault Refusal :=
  loadDest (.ldSem d a c e w p) d a fun s =>
    loadInto d p.toNat (s.cur.getS a) (wordBytes w) wantLoad zeroExt s

/-- A .fe or .fc load: it waits at an empty granule; a .fc load empties it. -/
def fullEmptyLoad (d a : BitVec 5) (w p : BitVec 1) (clear : Bool) (s : State) : Res :=
  let addr := s.cur.getS a
  let n := wordBytes w
  match s.access p.toNat addr n { wantLoad with w := clear, window := true } with
  | (s, .error x) => .trap x s
  | (s, .ok pl) =>
    let g := pl.pa / 16
    if s.full.contains g then
      let (s, v) := s.load p.toNat addr pl n
      let s := if clear then { s with full := removeNat s.full g } else s
      .done (s.putS d (zeroExt v) [])
    else
      let s := s.enterWait (.fullEmpty addr pl.pa clear (w == 1) (pl.attr == 2) d s.cur.latch)
      .held { s with feWaiters := s.feWaiters ++ [s.cur.ref] }

/-- LD.fe. -/
def execLdFe (d a : BitVec 5) (c : BitVec 3) (e : BitVec 2) (w p : BitVec 1) :
    State → Host.Outcome State Fault Refusal :=
  loadDest (.ldFe d a c e w p) d a (fullEmptyLoad d a w p false)

/-- LD.fc: it modifies the granule, so a poisoned address is consumed (R72). -/
def execLdFc (d a : BitVec 5) (c : BitVec 3) (e : BitVec 2) (w p : BitVec 1) :
    State → Host.Outcome State Fault Refusal :=
  scalarDest (.ldFc d a c e w p) d (consume [(a, 0)] (fullEmptyLoad d a w p true))

/-- The acceptance of a store of major 0x24: no second destination (R84). -/
def storeOp24 (i : Instr) (d a : BitVec 5) (body : State → Res) : State → Host.Outcome State Fault Refusal :=
  issue i (true, false, false) .done (fun _ => consume [(a, 0), (d, 3)] body)

/-- ST with semantics. -/
def execStSem (d a : BitVec 5) (c : BitVec 3) (e : BitVec 2) (w p : BitVec 1) :
    State → Host.Outcome State Fault Refusal :=
  storeOp24 (.stSem d a c e w p) d a fun s =>
    storeFrom p.toNat (s.cur.getS a) (wordBytes w) (s.cur.getS d).toNat s

/-- ST.fe: the data and the granule's bit in one step. -/
def execStFe (d a : BitVec 5) (c : BitVec 3) (e : BitVec 2) (w p : BitVec 1) :
    State → Host.Outcome State Fault Refusal :=
  storeOp24 (.stFe d a c e w p) d a fun s =>
    let addr := s.cur.getS a
    let n := wordBytes w
    match s.access p.toNat addr n { wantStore with window := true } with
    | (s, .error x) => .trap x s
    | (s, .ok pl) => .done ((s.store p.toNat addr pl n (s.cur.getS d).toNat).setFull (pl.pa / 16))

/-! ### Major 0x25 (R338) -/

/-- A scalar atomic, performed at the home of its place (R290): f gives the value written from the old value, B and S[d],
or none. -/
def atomic (i : Instr) (d a b : BitVec 5) (w p : BitVec 1) (more : List (BitVec 5 × Nat))
    (f : Nat → Nat → Nat → Nat → Option Nat) : State → Host.Outcome State Fault Refusal :=
  scalarDest i d (consume ([(a, 0), (b, 1)] ++ more) fun s =>
    let addr := s.cur.getS a
    let n := wordBytes w
    match s.access p.toNat addr n wantAtomic with
    | (s, .error x) => .trap x s
    | (s, .ok pl) =>
      let home := homeDie s.cur.core pl
      let (s, old) := (s.guardAtomic s.cur.core pl).loadAt home pl n
      let m := 2 ^ (8 * n)
      let s := match f (8 * n) old ((s.cur.getS b).toNat % m) ((s.cur.getS d).toNat % m) with
        | some v => s.storeAt home pl n v
        | none => s
      .done (s.putS d (zeroExt old) []))

/-- ATADD. -/
def execAtadd (d a b : BitVec 5) (c : BitVec 3) (e : BitVec 2) (w p : BitVec 1) :
    State → Host.Outcome State Fault Refusal :=
  atomic (.atadd d a b c e w p) d a b w p [] fun _ x y _ => some (x + y)

/-- ATAND. -/
def execAtand (d a b : BitVec 5) (c : BitVec 3) (e : BitVec 2) (w p : BitVec 1) :
    State → Host.Outcome State Fault Refusal :=
  atomic (.atand d a b c e w p) d a b w p [] fun _ x y _ => some (x &&& y)

/-- ATOR. -/
def execAtor (d a b : BitVec 5) (c : BitVec 3) (e : BitVec 2) (w p : BitVec 1) :
    State → Host.Outcome State Fault Refusal :=
  atomic (.ator d a b c e w p) d a b w p [] fun _ x y _ => some (x ||| y)

/-- ATXOR. -/
def execAtxor (d a b : BitVec 5) (c : BitVec 3) (e : BitVec 2) (w p : BitVec 1) :
    State → Host.Outcome State Fault Refusal :=
  atomic (.atxor d a b c e w p) d a b w p [] fun _ x y _ => some (x ^^^ y)

/-- The smaller or the larger of two values, signed. -/
def pickSigned (mx : Bool) (w x y : Nat) : Nat :=
  if signedOf w x ≤ signedOf w y then (if mx then y else x) else (if mx then x else y)

/-- ATMIN. -/
def execAtmin (d a b : BitVec 5) (c : BitVec 3) (e : BitVec 2) (w p : BitVec 1) :
    State → Host.Outcome State Fault Refusal :=
  atomic (.atmin d a b c e w p) d a b w p [] fun w x y _ => some (pickSigned false w x y)

/-- ATMAX. -/
def execAtmax (d a b : BitVec 5) (c : BitVec 3) (e : BitVec 2) (w p : BitVec 1) :
    State → Host.Outcome State Fault Refusal :=
  atomic (.atmax d a b c e w p) d a b w p [] fun w x y _ => some (pickSigned true w x y)

/-- ATMINN. -/
def execAtminn (d a b : BitVec 5) (c : BitVec 3) (e : BitVec 2) (w p : BitVec 1) :
    State → Host.Outcome State Fault Refusal :=
  atomic (.atminn d a b c e w p) d a b w p [] fun _ x y _ => some (min x y)

/-- ATMAXN. -/
def execAtmaxn (d a b : BitVec 5) (c : BitVec 3) (e : BitVec 2) (w p : BitVec 1) :
    State → Host.Outcome State Fault Refusal :=
  atomic (.atmaxn d a b c e w p) d a b w p [] fun _ x y _ => some (max x y)

/-- ATXCH. -/
def execAtxch (d a b : BitVec 5) (c : BitVec 3) (e : BitVec 2) (w p : BitVec 1) :
    State → Host.Outcome State Fault Refusal :=
  atomic (.atxch d a b c e w p) d a b w p [] fun _ _ y _ => some y

/-- ATCMPX: exchange where the old value equals S[d]. -/
def execAtcmpx (d a b : BitVec 5) (c : BitVec 3) (e : BitVec 2) (w p : BitVec 1) :
    State → Host.Outcome State Fault Refusal :=
  atomic (.atcmpx d a b c e w p) d a b w p [(d, 3)] fun _ x y k => if x = k then some y else none

/-! ### Major 0x29 (R347-R354) -/

/-- R257, R348: a vector or matrix memory instruction of the thread has not completed. -/
def Thread.memoryOpen (t : Thread) : Bool := t.vq.any (·.requests) || t.mq.any (·.requests)

/-- FENCE: it does not issue before every vector and matrix memory instruction has completed; accesses are already
performed in program order (log entry 1). -/
def execFence (c : BitVec 3) (e : BitVec 2) : State → Host.Outcome State Fault Refusal :=
  plainOp (.fence c e) fun s => if s.cur.memoryOpen then .held s else .done s

/-- R290: the home of a place, where records are armed, and how many records it holds (R351). -/
def State.monitorHome (s : State) (die : Nat) (p : Place) : List Nat × Nat :=
  match s.region p.pa with
  | .scratch core _ => ([0, core], 32)
  | .fabric package .window => ([4, package, (p.pa % 2 ^ 42 - 0x010000000000) / 0x100000], 32)
  | r =>
    if p.attr = 1 then ([1, die, p.pa / 256 % 96], 32)
    else match r with
      | .fabric package _ => ([3, package, p.pa / 256 % 96], 128)
      | _ => ([2, p.pa / 256 % 96], 128)

/-- The home of an armed record. -/
def State.homeOfMonitor (s : State) (m : Monitor) : List Nat × Nat :=
  s.monitorHome (m.die.getD 0) { pa := m.pa, attr := if m.die.isSome then 1 else 0 }

/-- R351: at a full home the oldest record is evicted, and its thread completes with the value there. -/
def State.evictMonitor (s : State) (home : List Nat × Nat) : State :=
  let here := s.monitors.filter fun m => s.homeOfMonitor m == home
  match here with
  | [] => s
  | m :: _ =>
    if here.length < home.2 then s
    else
      let v := s.monitorValue m
      let s := { s with monitors := s.monitors.filter (· != m) }
      match s.find m.ref with
      | some t => match t.wait with
        | some (.waita _ _ _ _ _ d _) => s.wake m.ref (some (d, BitVec.ofNat 64 v)) 0x29
        | _ => s
      | none => s

/-- WAITA: arm, read, and wait while the value equals B. -/
def execWaita (d a b : BitVec 5) (c : BitVec 3) (e w p : BitVec 1) :
    State → Host.Outcome State Fault Refusal :=
  scalarDest (.waita d a b c e w p) d (consume [(a, 0), (b, 1)] fun s =>
    let addr := s.cur.getS a
    let n := wordBytes w
    let cmp : Word := BitVec.ofNat 64 ((s.cur.getS b).toNat % 2 ^ (8 * n))
    match s.access p.toNat addr n wantAtomic with
    | (s, .error x) => .trap x s
    | (s, .ok pl) =>
      let die := dieOf s.cur.core
      let priv : Bool := pl.attr == 1
      let s := s.evictMonitor (s.monitorHome die pl)
      let (s, v) := s.loadAt (homeDie s.cur.core pl) pl n
      if v ≠ cmp.toNat then .done (s.putS d (zeroExt v) [])
      else
        let s := s.enterWait (.waita addr pl.pa priv (w == 1) cmp d (p == 1))
        let m : Monitor := { ref := s.cur.ref, die := if priv then some die else none, pa := pl.pa,
                             wide := w == 1, cmp := cmp }
        .held { s with monitors := s.monitors ++ [m] })

/-- Write back some lines of a die. -/
def State.writeBacks (s : State) (die : Nat) (drop : Bool) : List Nat → State
  | [] => s
  | l :: rest => (s.drainLine die l drop).writeBacks die drop rest

/-- R352: the die-private lines of a virtual range, page by page in ascending order. -/
def State.writeBackRange (s : State) (drop : Bool) : Nat → Nat → Nat → State × Except Trap Unit
  | 0, _, _ => (s, .ok ())
  | n + 1, va, stop =>
    if stop ≤ va then (s, .ok ())
    else match s.translate s.cur.core s.cur.ctx (va % 2 ^ 64) true false with
      | (s, .error c) => (s, .error (.plain c (BitVec.ofNat 64 va)))
      | (s, .ok e) =>
        let off := va % 2 ^ 64 - e.vbase
        let len := min (stop - va) (2 ^ e.sizeLog - off)
        let pa := s.canon (e.pbase + off)
        let die := dieOf s.cur.core
        let hit (p : PrivLine) : Bool := decide (pa < p.line * 256 + 256) && decide (p.line * 256 < pa + len)
        let s := if e.attr = 1 then s.writeBacks die drop (((s.die die).lines.filter hit).map (·.line)) else s
        s.writeBackRange drop n (va + len) stop

/-- RWB and RINV. -/
def writeBackOp (i : Instr) (a b : BitVec 5) (p : BitVec 1) (drop : Bool) :
    State → Host.Outcome State Fault Refusal :=
  plainOp i (consume [(a, 0), (b, 1)] fun s =>
    let len := (s.cur.getS b).toNat
    let va := (s.cur.getS a).toNat
    let s := s.openGuard s.cur.core
    if p = 1 ∨ len = 0 then .done s
    else match s.writeBackRange drop (len / 65536 + 2) va (va + len) with
      | (s, .error x) => .trap x s
      | (s, .ok _) => .done s)

/-- RWB. -/
def execRwb (a b : BitVec 5) (p : BitVec 1) : State → Host.Outcome State Fault Refusal :=
  writeBackOp (.rwb a b p) a b p false

/-- RINV. -/
def execRinv (a b : BitVec 5) (p : BitVec 1) : State → Host.Outcome State Fault Refusal :=
  writeBackOp (.rinv a b p) a b p true

/-- R353: the status of a mapping. -/
def State.stashStatus (s : State) (base : Word) (off len : Nat) : Nat :=
  let z := s.stashBytes s.cur.core
  let maps := (s.core s.cur.core).stashMaps
  let overlaps (m : StashMap) : Bool :=
    m.ctx == s.cur.ctx && decide (m.off < off + len) && decide (off < m.off + m.len)
  if z = 0 then 4
  else if base.toNat % 4096 ≠ 0 ∨ off % 4096 ≠ 0 ∨ len = 0 ∨ 128 * 4096 < len ∨ z < off + len then 3
  else if 16 ≤ maps.length then 1
  else if maps.any overlaps then 2
  else 0

/-- STMAP. -/
def execStmap (d a b : BitVec 5) : State → Host.Outcome State Fault Refusal :=
  scalarDest (.stmap d a b) d (consume [(a, 0), (b, 1)] fun s =>
    let base := s.cur.getS a
    let off := bits (s.cur.getS b).toNat 0 19
    let len := 4096 * bits (s.cur.getS b).toNat 32 8
    let st := s.stashStatus base off len
    let c := s.core s.cur.core
    let m : StashMap := { off := off, len := len, ctx := s.cur.ctx, vbase := base }
    let s := if st = 0 then s.setCore s.cur.core { c with stashMaps := c.stashMaps ++ [m] } else s
    .done (s.putS d (BitVec.ofNat 64 st) []))

/-- STUNMAP: the dirty sectors of the mapping are written back, and its sectors leave the stash. -/
def execStunmap (d b : BitVec 5) : State → Host.Outcome State Fault Refusal :=
  scalarDest (.stunmap d b) d (consume [(b, 1)] fun s =>
    let off := bits (s.cur.getS b).toNat 0 19
    let covers (m : StashMap) : Bool := m.ctx == s.cur.ctx && decide (m.off ≤ off) && decide (off < m.off + m.len)
    let c := s.core s.cur.core
    if c.stashMaps.any covers then
      let gone (x : StashSector) : Bool := x.ctx == s.cur.ctx && c.stashMaps.any fun m =>
        covers m && decide (m.off ≤ 32 * x.sector) && decide (32 * x.sector < m.off + m.len)
      let s := (s.setCore s.cur.core { c with stashMaps := c.stashMaps.filter fun m => !covers m }).stashOut s.cur.core gone
      .done (s.putS d 0 [])
    else .done (s.putS d 1 []))

end Sys2Proof.Machine
end

