-- ==== Sys2Proof/Machine/VMemory.lean ====
section
/-!
DEFINITION. Vector loads, stores and atomics (majors 0x26 to 0x28, R332-R334, R339-R344) with their
faults and partial effects (R254, R256, R296).
-/

namespace Sys2Proof.Machine

/-! ### Element accesses -/

/-- One access of a vector memory instruction: the element it belongs to, whether it is the scale byte
of the block that begins there, its address and its bytes. -/
structure Acc where
  elem : Nat
  scale : Bool
  addr : Word
  size : Nat
  deriving DecidableEq, Repr

/-- The addressing of an instruction (R339, R340): mode, base, stride or index, code width, and whether
scale bytes follow. -/
structure Addressing where
  mode : Nat
  a : BitVec 5
  b : BitVec 5
  z : Nat
  block : Bool

/-- X(e) of R340. -/
def indexOf (t : Thread) (v : BitVec 5) (e : Nat) : Word :=
  let tag := (t.getV v).tag
  let w := tagWidth tag
  if tagDead tag then t.vfill
  else if tagInt tag && tagSigned tag then BitVec.ofInt 64 (signedOf w (elemOf (t.getV v).bits w e))
  else BitVec.ofNat 64 (elemOf (t.getV v).bits w e)

/-- Addr(e) of R340. -/
def Addressing.addr (x : Addressing) (t : Thread) (e : Nat) : Word :=
  let base := t.getS x.a
  if x.mode = 0 then base + BitVec.ofNat 64 (e * x.z / 8)
  else if x.mode = 1 then base + t.getS x.b * BitVec.ofNat 64 e
  else base + indexOf t x.b e

/-- ScaleAddr(k) of R340. -/
def Addressing.scaleAddr (x : Addressing) (t : Thread) (k : Nat) : Word :=
  t.getS x.a + BitVec.ofNat 64 ((t.vl.toNat + 31) / 32 * 32 * x.z / 8 + k)

/-- The index register of an instruction, if it has one. -/
def Addressing.index (x : Addressing) : Option (BitVec 5) := if x.mode = 2 then some x.b else none

/-- The operands that form addresses, with the positions of R75. -/
def Addressing.operands (x : Addressing) : List VOpd :=
  [.sca x.a] ++ (if x.mode = 1 then [.sca x.b] else if x.mode = 2 then [.reg x.b] else [])

/-- Whether an address operand is poisoned; an index register counts by its own tag. -/
def Addressing.poison (x : Addressing) (t : Thread) : Option Word :=
  if t.poisonedS x.a then some (BitVec.ofNat 64 x.a.toNat)
  else if x.mode = 1 ∧ t.poisonedS x.b then some (BitVec.ofNat 64 (x.b.toNat + 64))
  else if x.mode = 2 ∧ t.ownPoison x.b then some (poisonVal x.b 1)
  else none

/-- The width that an index register adds to W (R341). -/
def Addressing.indexWidth (x : Addressing) (t : Thread) : Nat :=
  match x.index with
  | some v => tagWidth (t.getV v).tag
  | none => 0

/-- The registers whose contents form addresses. -/
def Addressing.contents (x : Addressing) (t : Thread) : List (BitVec 5) :=
  match x.index with
  | some v => t.ownContents v
  | none => []

/-- The accesses in the order of R250: ascending elements, a block's scale byte at its first element. In GROUP space a
block has no scale bytes: its lowest enabled element faults (R344). -/
def Addressing.accs (x : Addressing) (t : Thread) (en : Nat → Bool) (start : Nat) : List Acc :=
  let size := max 1 (x.z / 8)
  let block := x.block && t.vspace != 3
  (List.range t.vl.toNat).flatMap fun e =>
    (if start ≤ e ∧ en e then [{ elem := e, scale := false, addr := x.addr t e, size := size }] else []) ++
    (if block ∧ e % 32 = 0 then [{ elem := e, scale := true, addr := x.scaleAddr t (e / 32), size := 1 }] else [])

/-- R287: GROUP places are offsets; other spaces are R283's. A GLOBAL page is translated once in an instruction
(R296): `memo` holds what it has translated. -/
def State.placeAcc (s : State) (memo : List TlbEntry) (space : Nat) (group : Bool) (k : Want) (x : Acc) :
    State × List TlbEntry × Except (Nat × Word) Place :=
  if x.addr.toNat % x.size ≠ 0 then (s, memo, .error (8, x.addr))
  else if space = 3 then
    (s, memo, if group ∧ (s.groupPlace x.addr x.size).isSome then .ok { pa := x.addr.toNat, attr := 0 }
      else .error (9, x.addr))
  else if space = 0 then
    let go (s : State) (memo : List TlbEntry) (e : TlbEntry) : State × List TlbEntry × Except (Nat × Word) Place :=
      (s, memo, match s.checkPhys (s.cur.st stSYS) (s.canon (e.pbase + (x.addr.toNat - e.vbase))) x.size e.attr k with
        | .error c => .error (c, x.addr)
        | .ok p => .ok p)
    match memo.find? (·.covers s.cur.ctx x.addr.toNat) with
    | some e => go s memo e
    | none => match s.translate s.cur.core s.cur.ctx x.addr.toNat k.r k.w with
      | (s, .error c) => (s, memo, .error (c, x.addr))
      | (s, .ok e) => go s (e :: memo) e
  else
    let (s, r) := s.locate space x.addr x.size k
    (s, memo, r)

/-- What an instruction has left when an access faults: the accesses behind it, the pages translated, and the 64 KiB page
at which a translation has failed. -/
structure Behind where
  accs : List Acc
  memo : List TlbEntry
  tried : List Nat

/-- The places of accesses up to the first fault, with what has been translated; then the faulting access and what is
behind it. -/
def State.placeFrom (s : State) (memo : List TlbEntry) (space : Nat) (group : Bool) (k : Want) :
    List Acc → State × List (Acc × Place) × Option (Nat × Word × Acc × Behind)
  | [] => (s, [], none)
  | x :: rest =>
    match s.placeAcc memo space group k x with
    | (s, memo, .error (c, v)) => (s, [], some (c, v, x, { accs := rest, memo := memo, tried := [x.addr.toNat / 0x10000] }))
    | (s, memo, .ok p) =>
      let (s, l, f) := s.placeFrom memo space group k rest
      (s, (x, p) :: l, f)

/-- The places of an instruction's accesses. -/
def State.placeAll (s : State) (space : Nat) (group : Bool) (k : Want) (l : List Acc) :
    State × List (Acc × Place) × Option (Nat × Word × Acc × Behind) := s.placeFrom [] space group k l

/-- The accesses behind a fault that would not fault themselves. Of the pages not yet translated the first `done` are
translated, each once, and requests for the next `left` stay in flight. -/
def State.placeMore (s : State) (b : Behind) (space : Nat) (group : Bool) (k : Want) (done left : Nat) :
    List Acc → State × List (Acc × Place)
  | [] => (s, [])
  | x :: rest =>
    let page := x.addr.toNat / 0x10000
    let known := space != 0 || b.memo.any (·.covers s.cur.ctx x.addr.toNat)
    if !known && b.tried.contains page then s.placeMore b space group k done left rest
    else if known || done != 0 then
      match s.placeAcc b.memo space group k x with
      | (s, memo, .error _) =>
        s.placeMore { b with memo := memo, tried := page :: b.tried } space group k (if known then done else done - 1) left rest
      | (s, memo, .ok p) =>
        let (s, l) := s.placeMore { b with memo := memo } space group k (if known then done else done - 1) left rest
        (s, (x, p) :: l)
    else if left = 0 then s.placeMore b space group k 0 0 rest
    else
      let q : WalkReq := { ctx := s.cur.ctx, page := page, core := s.cur.core, read := k.r, write := k.w }
      (s.requestWalk q).placeMore { b with tried := page :: b.tried } space group k 0 (left - 1) rest

/-- R296: how many translations for higher pages were in flight at a fault, and how many of them have completed, is a
free choice; at most 16. -/
def State.placeRest (s : State) (space : Nat) (group : Bool) (k : Want) (b : Behind) : State × List (Acc × Place) :=
  let (r, s) := s.fresh
  let flight := r % 17
  let done := r / 17 % (flight + 1)
  s.placeMore b space group k done (flight - done) b.accs

/-- Whether a place is device-class (R292). -/
def State.isDevice (s : State) (p : Place) : Bool := p.attr == 2 || s.region p.pa == .device

/-- Whether the page of an address has translated and is device-class (R254). -/
def State.devicePage (s : State) (space : Nat) (addr : Word) : Bool :=
  space == 0 && (match (s.translate s.cur.core s.cur.ctx addr.toNat false false).2 with
    | .ok e => s.isDevice { pa := s.canon (e.pbase + (addr.toNat - e.vbase)), attr := e.attr }
    | .error _ => false)

/-- R254: START of a faulting load or store with element groups of a width, given the accesses of all its enabled elements, and whether it is the faulting element
itself, none at or above which is performed. -/
def State.faultStart (s : State) (ordered : Bool) (space w : Nat) (all : List Acc) (x : Acc) : Nat × Bool :=
  let g := s.groupStart s.cur.core w x.elem
  let near := all.any fun y => decide (g ≤ y.elem) && decide (y.elem < x.elem) && s.devicePage space y.addr
  if ordered || near || s.devicePage space x.addr then (x.elem, true) else (g, false)

/-- R256: the accesses that a faulting load or store performs: all below START, and any subset of the
idempotent ones above it, by a free choice; none above it where START is the faulting element (R254). -/
def State.partly (s : State) (start : Nat × Bool) (l : List (Acc × Place)) : State × List (Acc × Place) :=
  let (r, s) := s.fresh
  (s, l.filter fun y => decide (y.1.elem < start.1) ||
    (!start.2 && !s.isDevice y.2 && r.testBit (2 * y.1.elem + (if y.1.scale then 1 else 0))))

/-- A list in an order given by a number. -/
def shuffle {α : Type} : Nat → Nat → List α → List α
  | 0, _, l => l
  | n + 1, r, l =>
    let k := r % l.length
    match l[k]? with
    | some x => x :: shuffle n (r / l.length) (l.eraseIdx k)
    | none => l

/-- R317, R343: elements of a store or an atomic that may name one address are performed in a free
order, unless the instruction is .o or an element is device-class. -/
def State.anyOrder (s : State) (ordered : Bool) (mode : Nat) (l : List (Acc × Place)) : State × List (Acc × Place) :=
  if ordered ∨ mode = 0 ∨ l.any (fun y => s.isDevice y.2) then (s, l)
  else
    let (r, s) := s.fresh
    (s, shuffle l.length r l)

/-- A fault of an element (R247, R254). -/
def elemTrap (c : Nat) (v : Word) (elem start : Nat) : Trap := { code := c, val := v, elem := some elem, start := some start }

/-! ### Loads -/

/-- What one access of a load brings: a value, flags, and whether a group member failed (R346). -/
def State.loadAcc (s : State) (space gop : Nat) (tag : BitVec 5) (x : Acc) (p : Place) : State × Nat × FFlags × Bool :=
  if space = 3 then
    match s.groupPlace x.addr x.size with
    | none => (s, 0, 0, false)
    | some l =>
      let replies := l.map (s.memberReply s.cur.ctx (x.addr.toNat % 2 ^ 20) x.size)
      let s := s.recordFailures (bits x.addr.toNat 20 12) 0 replies
      let (v, f) := groupCombine (groupOp gop) tag replies
      (s, v, f, replies.contains .failed)
  else
    let (s, v) := s.load space x.addr p x.size
    (s, v, 0, false)

/-- Perform the accesses of a load in a list's order. -/
def State.loadAll (s : State) (space gop : Nat) (tag : BitVec 5) :
    List (Acc × Place) → State × List (Acc × Nat) × FFlags × Bool
  | [] => (s, [], 0, false)
  | (x, p) :: rest =>
    let (s, v, f1, b1) := s.loadAcc space gop tag x p
    let (s, l, f2, b2) := s.loadAll space gop tag rest
    (s, (x, v) :: l, f1 ||| f2, b1 || b2)

/-- Write loaded values into the bits of a register: elements or scale bytes. -/
def putLoaded (x : BitVec 8192) (z : Nat) (scale : Bool) : List (Acc × Nat) → BitVec 8192
  | [] => x
  | (a, v) :: rest =>
    let x := if a.scale != scale then x
      else if scale then setElem x 8 (a.elem / 32) v
      else setElem x z a.elem (if z = 4 then v / 16 ^ (a.elem % 2) else v)
    putLoaded x z scale rest

/-- Write zero to the disabled elements from one index to another (ZM = 1). -/
def zeroDisabled (x : BitVec 8192) (z : Nat) (en : Nat → Bool) (lo hi : Nat) : BitVec 8192 :=
  setElems x z lo ((List.range (hi - lo)).map fun k => if en (lo + k) then none else some 0)

/-- The loaded values, and zeros up to an element, go into v(d) and its companion. -/
def Thread.putLoad (t : Thread) (l : Option (BitVec 12)) (d : BitVec 5) (x : Addressing)
    (vals : List (Acc × Nat)) (start stop : Nat) : Thread :=
  let r := t.getV d
  let b := putLoaded r.bits x.z false vals
  let b := if zeroing l then zeroDisabled b x.z (t.enabled l) start stop else b
  let t := t.setV d { r with bits := b }
  if x.block then
    let c := t.getV (companion d)
    t.setV (companion d) { c with bits := putLoaded c.bits 8 true vals }
  else t

/-- Whether a tag may be the result of a GROUP load (R344). -/
def groupTag (t : BitVec 5) : Bool := decide (1 ≤ t.toNat) && decide (t.toNat ≤ 0x0C)

/-- R341, R344: the result tag of a load, from v(d)'s stored tag. -/
def loadTag (t : Thread) (d : BitVec 5) (z : Nat) (dflt : BitVec 5) (block : Bool) : BitVec 5 :=
  let x := (t.getV d).tag
  let keep := !block && tagWidth x == z && !tagBlock x && (t.vspace != 3 || groupTag x)
  if keep then x else dflt

/-- A vector load. `gop` is the operator of a GROUP load; `group`: the form may use GROUP space. -/
def vload (i : Instr) (d : BitVec 5) (x : Addressing) (dflt : BitVec 5) (ordered group : Bool) (gop : Nat) :
    State → Host.Outcome State Fault Refusal :=
  let plan (t : Thread) : VPlan :=
    { poisoned := (x.poison t).isSome, width := max x.z (x.indexWidth t),
      tag := loadTag t d x.z dflt x.block, reads := x.contents t
      elem := fun _ _ _ => (0, 0), scale := fun _ _ _ => 0 }
  issue i (noSecond (accepts 0x26) x.block) (fun s => zeroDest i d (plan s.cur) true s)
    (fun l s =>
      let p := plan s.cur
      let start := s.cur.start
      if s.cur.vl = 0 then .done s
      else if s.tooLong p.width then .trap (lengthTrap s (encode i) p.width true) s
      else if s.streaming (p.regs l d) then .held s
      else if p.poisoned then .done (s.poisonDest i p.width l d)
      else match s.prepare p.reads l d p.tag start with
        | (s, false) => .held s.fatal
        | (s, true) =>
          let space := s.cur.vspace.toNat
          let accs := x.accs s.cur (s.cur.enabled l) start
          let own (t : Thread) : Thread :=
            let t := t.setV d { t.getV d with tag := p.tag, resident := true, saved := false }
            if x.block then t.setV (companion d) { t.getV (companion d) with tag := 0x05, resident := true, saved := false }
            else t
          match s.placeAll space group wantLoad accs with
          | (s, places, none) =>
            let (s, vals, f, bad) := s.loadAll space gop p.tag places
            if bad then .done (s.poisonDest i p.width l d)
            else
              let t := (own s.cur).putLoad l d x vals start s.cur.vl.toNat
              .done { s with cur := (t.copyV l d).vdone i start p.width f }
          | (s, places, some (c, v, y, rest)) =>
            let st := s.faultStart ordered space p.width (x.accs s.cur (s.cur.enabled l) 0) y
            let (s, more) := s.placeRest space group wantLoad rest
            let (s, some') := s.partly st (places ++ more)
            let (s, vals, f, bad) := s.loadAll space gop p.tag some'
            if bad then .trap (elemTrap c v y.elem st.1) { s with cur := (s.cur.poisonV d).refreshVsm }
            else match s.loadV d with
              | (s, false) => .held s.fatal
              | (s, true) =>
                let t := (((own s.cur).putLoad l d x vals start st.1).orFlags f).refreshVsm
                .trap (elemTrap c v y.elem st.1) { s with cur := t })

/-! ### Stores -/

/-- The byte at a place as a die sees it, without filling a sector (R293). -/
def State.peekAt (s : State) (die : Nat) (p : Place) : Nat :=
  if p.attr = 1 then
    match s.priv die (p.pa / 256) with
    | some q => if q.holds (p.pa % 256) then (q.byte (p.pa % 256)).toNat else (readByte s.mem p.pa).toNat
    | none => (readByte s.mem p.pa).toNat
  else (s.loadAt die p 1).2

/-- The same for the die of the current thread's core. -/
def State.peek (s : State) (p : Place) : Nat := s.peekAt (dieOf s.cur.core) p

/-- What a vector store writes for an access (R342). -/
def storeValue (t : Thread) (d : BitVec 5) (z : Nat) (x : Acc) : Nat :=
  let v := t.getV d
  let c := t.getV (companion d)
  if x.scale then (if tagDead c.tag then 0x7F else elemOf c.bits 8 (x.elem / 32))
  else if tagDead v.tag then t.vfill.toNat % 2 ^ z
  else elemOf v.bits z x.elem

/-- One access of a store; a 4-bit element replaces its own nibble (R306). -/
def State.storeAcc (s : State) (space : Nat) (d : BitVec 5) (z : Nat) (x : Acc) (p : Place) : State :=
  let v := storeValue s.cur d z x
  if z = 4 ∧ x.scale = false then
    let old := s.peek p
    let w := if x.elem % 2 = 0 then old / 16 * 16 + v else old % 16 + 16 * v
    s.store space x.addr p 1 w
  else s.store space x.addr p x.size v

def State.storeAll (s : State) (space : Nat) (d : BitVec 5) (z : Nat) : List (Acc × Place) → State
  | [] => s
  | (x, p) :: rest => (s.storeAcc space d z x p).storeAll space d z rest

/-- The first poisoned operand of a store: addresses, then the data with its companion (R342). -/
def storePoison (t : Thread) (d : BitVec 5) (x : Addressing) : Option Word :=
  match x.poison t with
  | some v => some v
  | none =>
    if t.poisonedV d || (x.block && tagPoison (t.getV (companion d)).tag) then some (poisonVal d 3) else none

/-- A vector store. -/
def vstore (i : Instr) (d : BitVec 5) (x : Addressing) (ordered : Bool) : State → Host.Outcome State Fault Refusal :=
  issue i (accepts 0x27) .done
    (fun l s =>
      let start := s.cur.start
      let width := max x.z (x.indexWidth s.cur)
      let regs := x.contents s.cur ++ s.cur.ownContents d ++ (if x.block then s.cur.ownContents (companion d) else [])
      if s.cur.vl = 0 then .done s
      else match storePoison s.cur d x with
        | some v => .trap { code := 2, val := v, elem := none, start := some (s.groupStart s.cur.core width start) } s
        | none =>
          if s.tooLong width then .trap (lengthTrap s (encode i) width true) s
          else if s.streaming regs then .held s
          else match s.loadVs regs with
            | (s, false) => .held s.fatal
            | (s, true) =>
              let space := s.cur.vspace.toNat
              match s.placeAll space false wantStore (x.accs s.cur (s.cur.enabled l) start) with
              | (s, places, none) =>
                let (s, places) := s.anyOrder ordered x.mode places
                let s := s.storeAll space d x.z places
                .done { s with cur := s.cur.vdone i start width 0 }
              | (s, places, some (c, v, y, rest)) =>
                let st := s.faultStart ordered space width (x.accs s.cur (s.cur.enabled l) 0) y
                let (s, more) := s.placeRest space false wantStore rest
                let (s, some') := s.partly st (places ++ more)
                let (s, some') := s.anyOrder ordered x.mode some'
                .trap (elemTrap c v y.elem st.1) (s.storeAll space d x.z some'))

/-! ### Atomics -/

/-- R343: the width and signedness that v(d)'s tag gives; none for a tag on which nothing is performed. -/
def atomicWidth (t : BitVec 5) : Option (Nat × Bool) :=
  match t.toNat with
  | 0x00 | 0x04 => some (64, true)
  | 0x03 => some (32, true)
  | 0x07 => some (32, false)
  | 0x08 => some (64, false)
  | _ => none

/-- Perform the elements of a vector atomic in a list's order; the old values by element. -/
def State.atomicAll (s : State) (d : BitVec 5) (w : Nat) (f : Nat → Nat → Nat) :
    List (Acc × Place) → State × List (Acc × Nat)
  | [] => (s, [])
  | (x, p) :: rest =>
    let home := homeDie s.cur.core p
    let (s, old) := (s.guardAtomic s.cur.core p).loadAt home p x.size
    let s := s.storeAt home p x.size (f old (storeValue s.cur d w { x with scale := false }))
    let (s, l) := s.atomicAll d w f rest
    (s, (x, old) :: l)

/-- The `trval` of a poisoned operand of a vector atomic, which reads v(d) as no block-scaled register
(R343). -/
def atomicPoison (t : Thread) (d : BitVec 5) (x : Addressing) : Option Word :=
  match x.poison t with
  | some v => some v
  | none => if tagPoison (t.getV d).tag then some (poisonVal d 3) else none

/-- A vector atomic: the old value, the operand and the signedness give the new value. The entry of one that faults
has the START that it read (R254). -/
def vatomic (i : Instr) (d a b : BitVec 5) (m : BitVec 2) (ordered : Bool)
    (f : Bool → Nat → Nat → Nat → Nat) : State → Host.Outcome State Fault Refusal :=
  let addressing (t : Thread) : Addressing :=
    let w := match atomicWidth (t.getV d).tag with
      | some (w, _) => w
      | none => tagWidth (t.getV d).tag
    { mode := m.toNat, a := a, b := b, z := w, block := false }
  let tag (t : Thread) : BitVec 5 :=
    let x := (t.getV d).tag
    if tagDead x || tagPoison x then 0x04 else x
  issue i (accepts 0x28)
    (fun s =>
      let z := if tagPoison (s.cur.getV d).tag then 64 else (addressing s.cur).z
      let p : VPlan :=
        { poisoned := false, width := max z ((addressing s.cur).indexWidth s.cur), tag := tag s.cur, reads := []
          elem := fun _ _ _ => (0, 0), scale := fun _ _ _ => 0 }
      match zeroDest i d p true s with
      | .trap x s => .trap { x with start := some s.cur.start } s
      | r => r)
    (fun l s =>
      let x := addressing s.cur
      let start := s.cur.start
      let width := max x.z (x.indexWidth s.cur)
      if s.cur.vl = 0 then .done s
      else match atomicPoison s.cur d x with
        | some v => .trap { code := 2, val := v, elem := none, start := some start } s
        | none =>
          if s.tooLong width then .trap { lengthTrap s (encode i) width true with start := some start } s
          else if s.streaming (x.contents s.cur ++ [d]) then .held s
          else match atomicWidth (s.cur.getV d).tag with
            | none => .done (s.poisonDest i width none d)
            | some (w, sg) =>
              match s.loadVs (x.contents s.cur ++ [d]) with
              | (s, false) => .held s.fatal
              | (s, true) =>
                match s.placeAll s.cur.vspace.toNat false wantAtomic (x.accs s.cur (s.cur.enabled l) start) with
                | (s, _, some (c, v, y, rest)) =>
                  let (s, _) := s.placeRest s.cur.vspace.toNat false wantAtomic rest
                  .trap (elemTrap c v y.elem start) s
                | (s, places, none) =>
                  let (s, places) := s.anyOrder ordered x.mode places
                  let (s, vals) := s.atomicAll d w (f sg w) places
                  let t := s.cur.setV d { s.cur.getV d with tag := tag s.cur, resident := true, saved := false }
                  .done { s with cur := (t.putLoad l d x vals start t.vl.toNat).vdone i start width 0 })

/-! ### The instructions -/


/-- VLD8. -/
def execVld8 (d a b : BitVec 5) (m : BitVec 2) (o : BitVec 1) (e : BitVec 2) (c : BitVec 3) :
    State → Host.Outcome State Fault Refusal :=
  vload (.vld8 d a b m o e c) d { mode := m.toNat, a := a, b := b, z := 8, block := false } 0x05 (o == 1)
    (m == 0) b.toNat

/-- VLD16. -/
def execVld16 (d a b : BitVec 5) (m : BitVec 2) (o : BitVec 1) (e : BitVec 2) (c : BitVec 3) :
    State → Host.Outcome State Fault Refusal :=
  vload (.vld16 d a b m o e c) d { mode := m.toNat, a := a, b := b, z := 16, block := false } 0x06 (o == 1)
    (m == 0) b.toNat

/-- VLD32. -/
def execVld32 (d a b : BitVec 5) (m : BitVec 2) (o : BitVec 1) (e : BitVec 2) (c : BitVec 3) :
    State → Host.Outcome State Fault Refusal :=
  vload (.vld32 d a b m o e c) d { mode := m.toNat, a := a, b := b, z := 32, block := false } 0x07 (o == 1)
    (m == 0) b.toNat

/-- VLD64. -/
def execVld64 (d a b : BitVec 5) (m : BitVec 2) (o : BitVec 1) (e : BitVec 2) (c : BitVec 3) :
    State → Host.Outcome State Fault Refusal :=
  vload (.vld64 d a b m o e c) d { mode := m.toNat, a := a, b := b, z := 64, block := false } 0x08 (o == 1)
    (m == 0) b.toNat

/-- VLD4. -/
def execVld4 (d a : BitVec 5) (b : BitVec 3) (o : BitVec 1) (e : BitVec 2) (c : BitVec 3) :
    State → Host.Outcome State Fault Refusal :=
  vload (.vld4 d a b o e c) d { mode := 0, a := a, b := 0, z := 4, block := false } 0x0F (o == 1) false 0

/-- VLDMX4. -/
def execVldmx4 (d a : BitVec 5) (b : BitVec 3) (o : BitVec 1) (e : BitVec 2) (c : BitVec 3) :
    State → Host.Outcome State Fault Refusal :=
  vload (.vldmx4 d a b o e c) d { mode := 0, a := a, b := 0, z := 4, block := true } 0x10 (o == 1) false 0

/-- VLDMX8. -/
def execVldmx8 (d a : BitVec 5) (b : BitVec 3) (o : BitVec 1) (e : BitVec 2) (c : BitVec 3) :
    State → Host.Outcome State Fault Refusal :=
  vload (.vldmx8 d a b o e c) d { mode := 0, a := a, b := 0, z := 8, block := true } 0x11 (o == 1) false 0

/-- VLDMXI8. -/
def execVldmxi8 (d a : BitVec 5) (b : BitVec 3) (o : BitVec 1) (e : BitVec 2) (c : BitVec 3) :
    State → Host.Outcome State Fault Refusal :=
  vload (.vldmxi8 d a b o e c) d { mode := 0, a := a, b := 0, z := 8, block := true } 0x12 (o == 1) false 0

/-- VST8. -/
def execVst8 (d a b : BitVec 5) (m : BitVec 2) (o : BitVec 1) (e : BitVec 2) (c : BitVec 3) :
    State → Host.Outcome State Fault Refusal :=
  vstore (.vst8 d a b m o e c) d { mode := m.toNat, a := a, b := b, z := 8, block := false } (o == 1)

/-- VST16. -/
def execVst16 (d a b : BitVec 5) (m : BitVec 2) (o : BitVec 1) (e : BitVec 2) (c : BitVec 3) :
    State → Host.Outcome State Fault Refusal :=
  vstore (.vst16 d a b m o e c) d { mode := m.toNat, a := a, b := b, z := 16, block := false } (o == 1)

/-- VST32. -/
def execVst32 (d a b : BitVec 5) (m : BitVec 2) (o : BitVec 1) (e : BitVec 2) (c : BitVec 3) :
    State → Host.Outcome State Fault Refusal :=
  vstore (.vst32 d a b m o e c) d { mode := m.toNat, a := a, b := b, z := 32, block := false } (o == 1)

/-- VST64. -/
def execVst64 (d a b : BitVec 5) (m : BitVec 2) (o : BitVec 1) (e : BitVec 2) (c : BitVec 3) :
    State → Host.Outcome State Fault Refusal :=
  vstore (.vst64 d a b m o e c) d { mode := m.toNat, a := a, b := b, z := 64, block := false } (o == 1)

/-- VST4. -/
def execVst4 (d a : BitVec 5) (o : BitVec 1) (e : BitVec 2) (c : BitVec 3) :
    State → Host.Outcome State Fault Refusal :=
  vstore (.vst4 d a o e c) d { mode := 0, a := a, b := 0, z := 4, block := false } (o == 1)

/-- VSTMX4. -/
def execVstmx4 (d a : BitVec 5) (o : BitVec 1) (e : BitVec 2) (c : BitVec 3) :
    State → Host.Outcome State Fault Refusal :=
  vstore (.vstmx4 d a o e c) d { mode := 0, a := a, b := 0, z := 4, block := true } (o == 1)

/-- VSTMX8. -/
def execVstmx8 (d a : BitVec 5) (o : BitVec 1) (e : BitVec 2) (c : BitVec 3) :
    State → Host.Outcome State Fault Refusal :=
  vstore (.vstmx8 d a o e c) d { mode := 0, a := a, b := 0, z := 8, block := true } (o == 1)

/-- VSTMXI8. -/
def execVstmxi8 (d a : BitVec 5) (o : BitVec 1) (e : BitVec 2) (c : BitVec 3) :
    State → Host.Outcome State Fault Refusal :=
  vstore (.vstmxi8 d a o e c) d { mode := 0, a := a, b := 0, z := 8, block := true } (o == 1)

/-- VATADD. -/
def execVatadd (d a b : BitVec 5) (m : BitVec 2) (o : BitVec 1) (e : BitVec 2) (c : BitVec 3) :
    State → Host.Outcome State Fault Refusal :=
  vatomic (.vatadd d a b m o e c) d a b m (o == 1) (fun _ _ x y => x + y)

/-- VATAND. -/
def execVatand (d a b : BitVec 5) (m : BitVec 2) (o : BitVec 1) (e : BitVec 2) (c : BitVec 3) :
    State → Host.Outcome State Fault Refusal :=
  vatomic (.vatand d a b m o e c) d a b m (o == 1) (fun _ _ x y => x &&& y)

/-- VATOR. -/
def execVator (d a b : BitVec 5) (m : BitVec 2) (o : BitVec 1) (e : BitVec 2) (c : BitVec 3) :
    State → Host.Outcome State Fault Refusal :=
  vatomic (.vator d a b m o e c) d a b m (o == 1) (fun _ _ x y => x ||| y)

/-- VATXOR. -/
def execVatxor (d a b : BitVec 5) (m : BitVec 2) (o : BitVec 1) (e : BitVec 2) (c : BitVec 3) :
    State → Host.Outcome State Fault Refusal :=
  vatomic (.vatxor d a b m o e c) d a b m (o == 1) (fun _ _ x y => x ^^^ y)

/-- VATMIN. -/
def execVatmin (d a b : BitVec 5) (m : BitVec 2) (o : BitVec 1) (e : BitVec 2) (c : BitVec 3) :
    State → Host.Outcome State Fault Refusal :=
  vatomic (.vatmin d a b m o e c) d a b m (o == 1) (fun sg w x y => if sg then pickSigned false w x y else min x y)

/-- VATMAX. -/
def execVatmax (d a b : BitVec 5) (m : BitVec 2) (o : BitVec 1) (e : BitVec 2) (c : BitVec 3) :
    State → Host.Outcome State Fault Refusal :=
  vatomic (.vatmax d a b m o e c) d a b m (o == 1) (fun sg w x y => if sg then pickSigned true w x y else max x y)

/-- VATXCH. -/
def execVatxch (d a b : BitVec 5) (m : BitVec 2) (o : BitVec 1) (e : BitVec 2) (c : BitVec 3) :
    State → Host.Outcome State Fault Refusal :=
  vatomic (.vatxch d a b m o e c) d a b m (o == 1) (fun _ _ _ y => y)

end Sys2Proof.Machine
end

