-- ==== Sys2Proof/Machine/Stream.lean ====
section
/-!
DEFINITION. The stream engine: transfers, their counters and user-level interrupts (major 0x2A,
R123, R124, R370, R376-R388), and the collectives that run on it (R401-R403).
-/

namespace Sys2Proof.Machine

/-! ### Counters (R124, R387) -/

/-- The fields of a stream counter. -/
def scCount (w : Word) : Nat := bits w.toNat 0 32
def scLead (w : Word) : Nat := bits w.toNat 32 16
def scBusy (w : Word) : Bool := w.getLsbD 48

/-- A counter from its fields. -/
def scWord (count lead : Nat) (busy : Bool) : Word :=
  BitVec.ofNat 64 (count % 2 ^ 32 + lead % 2 ^ 16 * 2 ^ 32 + (if busy then 2 ^ 48 else 0))

/-- Change counter j of the current thread where it lives (R387); a save block that refuses the access
ends the thread (R493). -/
def State.scUpdate (s : State) (j : Nat) (f : Word → Word) : State × Bool :=
  match s.scRead j with
  | (s, none) => (s.fatal, false)
  | (s, some w) => match s.scWrite j (f w) with
    | (s, false) => (s.fatal, false)
    | r => r

/-- R385: whether a count has reached a target. -/
def countMet (count target : Nat) : Bool := decide ((count + 2 ^ 32 - target % 2 ^ 32) % 2 ^ 32 < 2 ^ 31)

/-- A pending completion of the current thread (R123). -/
def State.complete (s : State) (p : Pending) : State :=
  { s with cur := { s.cur.setSt stUIP true with pending := s.cur.pending ++ [p] } }

/-- Wake an STRMW of the current thread whose target the counter has reached. -/
def State.wakeStream (s : State) (j : Nat) (count : Nat) : State :=
  match s.cur.wait with
  | some (.stream k target) =>
    if k.toNat = j ∧ countMet count target.toNat then s.wake s.cur.ref none 0x2A else s
  | _ => s

/-- A transfer ends: COUNT stays, LEAD takes a value, BUSY clears, and an interrupt becomes pending if
the command asked for one (R379 step 3, R383). -/
def State.endXfer (s : State) (j : BitVec 3) (lead : Nat) (irq : Option Pending) : State :=
  match s.scUpdate j.toNat fun w => scWord (scCount w) lead false with
  | (s, false) => s
  | (s, true) => match irq with
    | some p => s.complete p
    | none => s

/-! ### Issue (R379) -/

/-- Step 1 of R379 and the queue's depth (R357): whether a command on counter j may issue. -/
def State.mayIssue (s : State) (j : BitVec 3) : State × Option Bool :=
  match s.scRead j.toNat with
  | (s, none) => (s, none)
  | (s, some w) => (s, some (!scBusy w && !s.cur.pending.any (·.ctr == j) &&
      decide ((s.core s.cur.core).streamQ.length < 16)))

/-- Step 2: the 64-byte block at an address. -/
def State.readBlock (s : State) (space : Nat) (addr : Word) : State × Except Trap Nat :=
  match s.access space addr 64 wantLoad with
  | (s, .error x) => (s, .error x)
  | (s, .ok p) =>
    let (s, v) := s.load space addr p 64
    (s, .ok v)

/-- One address that step 4 checks: the element reported, the space, the bytes, and whether it is
written and may use the aperture (R484). -/
structure Touch where
  elem : Nat
  space : Nat
  addr : Word
  size : Nat
  write : Bool
  aperture : Bool
  deriving DecidableEq, Repr

/-- Step 4 for one address: misaligned, bound, translation. -/
def State.touch (s : State) (x : Touch) : State × Except (Nat × Word) Place :=
  if x.addr.toNat % x.size ≠ 0 then (s, .error (8, x.addr))
  else if x.space = 1 then (s, s.localPlace s.cur.core x.addr.toNat x.size false)
  else match s.translate s.cur.core s.cur.ctx x.addr.toNat (!x.write) x.write with
    | (s, .error c) => (s, .error (c, x.addr))
    | (s, .ok e) =>
      let want : Want := { wantStore with r := false, w := x.write, aperture := x.aperture }
      match s.checkPhys (s.cur.st stSYS) (s.canon (e.pbase + (x.addr.toNat - e.vbase))) x.size e.attr want with
      | .error c => (s, .error (c, x.addr))
      | .ok p => (s, .ok p)

/-- Step 4 for a list of addresses in the order of R250: their places, or the first fault. -/
def State.touchAll (s : State) : List Touch → State × Except Trap (List Place)
  | [] => (s, .ok [])
  | x :: rest =>
    match s.touch x with
    | (s, .error (c, v)) => (s, .error { code := c, val := v, elem := some x.elem, start := none })
    | (s, .ok p) => match s.touchAll rest with
      | (s, .error t) => (s, .error t)
      | (s, .ok l) => (s, .ok (p :: l))

/-- The pages of a context that a list of GLOBAL addresses translates in (R297, R421). -/
def pagesOf (ctx : Nat) (l : List Touch) : List (Nat × Nat) :=
  ((l.filter (·.space == 0)).map fun x => (ctx, x.addr.toNat / 0x10000)).eraseDups

/-- What a parameter block says of the end of a transfer (R378, R401): ID, IRQ and HANDLER from a bit. -/
def blockIrq (blk : Nat) (lo : Nat) (j : BitVec 3) : Pending × Bool :=
  ({ id := BitVec.ofNat 32 (bits blk lo 32), ctr := j,
     handler := BitVec.ofNat 64 (bits blk (lo + 32) 64) &&& ~~~(3 : Word) }, blk.testBit (lo + 32))

/-- Step 5: a command enters the stream queue. -/
def State.enqueueXfer (s : State) (x : Xfer) : State :=
  match s.scUpdate x.ctr.toNat fun w => scWord (scCount w) 0 true with
  | (s, false) => s
  | (s, true) =>
    let c := s.core s.cur.core
    s.setCore s.cur.core { c with streamQ := c.streamQ ++ [x] }

/-- A command of the current thread with nothing landed yet. -/
def State.newXfer (s : State) (j : BitVec 3) (kind : XferKind) (bytes count : Nat) (irq : Pending × Bool)
    (srcs : List Word) (pages : List (Nat × Nat)) : Xfer :=
  { ref := s.cur.ref, ctr := j, kind := kind, bytes := bytes, count := count, landed := [],
    id := irq.1.id, irq := irq.2, handler := irq.1.handler, passed := 0, flags := 0, srcAddr := srcs,
    checked := pages }

/-- The interrupt that a command asks for, if it does. -/
def irqOf (x : Pending × Bool) : Option Pending := if x.2 then some x.1 else none

/-- Steps 1 to 3 of R379 around the checks of an instruction: `refused` and `go` decide from the block. -/
def startXfer (j : BitVec 3) (space : Nat) (a : BitVec 5) (poison : State → Option Word)
    (irqAt : Nat) (refused : Nat → Bool) (go : Nat → Pending × Bool → State → Res) (s : State) : Res :=
  match s.mayIssue j with
  | (s, none) => .held s.fatal
  | (s, some false) => .held s
  | (s, some true) =>
    match poison s with
    | some v => .trap (.plain 2 v) s
    | none => match s.readBlock space (s.cur.getS a) with
      | (s, .error x) => .trap x s
      | (s, .ok blk) =>
        let irq := blockIrq blk irqAt j
        if refused blk then .done (s.endXfer j 0xFFFF (irqOf irq)) else go blk irq s

/-- A command that has stopped its thread does not complete. -/
def doneUnlessFatal (s : State) : Res := if s.cur.run = .done ∨ s.cur.dying then .held s else .done s

/-! ### STRM and STRMV (R380, R381) -/

/-- STRM: element e from SRC + e × SSTRIDE to DST + e × DSTRIDE. -/
def execStrm (a : BitVec 5) (j : BitVec 3) (sp : BitVec 1) : State → Host.Outcome State Fault Refusal :=
  plainOp (.strm a j sp) (startXfer j sp.toNat a (fun s => s.cur.firstPoison [(a, 0)]) 288
    (fun blk => decide (4 < bits blk 256 3))
    fun blk irq s =>
      let z := 2 ^ bits blk 256 3
      let n := s.cur.vl.toNat
      let w (lo : Nat) : Word := BitVec.ofNat 64 (bits blk lo 64)
      let src (e : Nat) : Word := w 0 + w 128 * BitVec.ofNat 64 e
      let dst (e : Nat) : Word := w 64 + w 192 * BitVec.ofNat 64 e
      if n = 0 then doneUnlessFatal (s.endXfer j 0 (irqOf irq))
      else
        let touches := (List.range n).flatMap fun e =>
          [{ elem := e, space := bits blk 259 1, addr := src e, size := z, write := false, aperture := true },
           { elem := e, space := bits blk 260 1, addr := dst e, size := z, write := true, aperture := true }]
        match s.touchAll touches with
        | (s, .error x) => .trap x s
        | (s, .ok l) =>
          let even := (List.range n).filterMap fun e => l[2 * e]?
          let odd := (List.range n).filterMap fun e => l[2 * e + 1]?
          let x := s.newXfer j (.copy even odd) z n irq ((List.range n).map src) (pagesOf s.cur.ctx touches)
          doneUnlessFatal (s.enqueueXfer x))

/-- The default tag of a load of width 8 × 2^zc (R339). -/
def widthTag (zc : Nat) : BitVec 5 := BitVec.ofNat 5 (5 + zc)

/-- R341: the tag that a destination of STRMV takes. -/
def gatherTag (t : Thread) (v : BitVec 5) (zc : Nat) : BitVec 5 :=
  let x := (t.getV v).tag
  if tagWidth x = 8 * 2 ^ zc ∧ tagBlock x = false then x else widthTag zc

/-- The destination registers take their tags at issue; on a T-core their places are the images (R381). False: an image
page refused the access (R493). -/
def State.tagDests (s : State) (zc : Nat) : List (BitVec 5) → State × Bool
  | [] => (s, true)
  | v :: rest =>
    let onT := s.cls s.cur.core == some .t
    match (if onT then s.wholeImage v else (s, true)) with
    | (s, false) => (s, false)
    | (s, true) =>
      let x := s.cur.getV v
      let t := s.cur.setV v { x with tag := gatherTag s.cur v zc, resident := !onT, saved := onT }
      { s with cur := if onT then t.setSt stVSM true else t }.tagDests zc rest

/-- The thread with the contents of an index register, which a T-core reads from its image (R109). -/
def State.indexThread (s : State) (v : BitVec 5) : State × Option Thread :=
  if s.cls s.cur.core = some .t ∧ (s.cur.getV v).tag ≠ 0 then
    if (s.cur.getV v).saved = false then (s, some s.cur)
    else match s.saveRead (0x1000 + 0x400 * v.toNat) 128 with
    | (s, none) => (s, none)
    | (s, some n) => (s, some (s.cur.setV v { s.cur.getV v with bits := BitVec.ofNat 8192 (n % 2 ^ (s.cur.getV v).bound) }))
  else match s.loadVs (s.cur.ownContents v) with
    | (s, false) => (s, none)
    | (s, true) => (s, some s.cur)

/-- STRMV: records of nf fields into registers from v(d) on. -/
def execStrmv (d a b : BitVec 5) (p : BitVec 1) (n j : BitVec 3) (sp : BitVec 1) :
    State → Host.Outcome State Fault Refusal :=
  let i : Instr := .strmv d a b p n j sp
  let nf := n.toNat + 1
  let dests := (List.range nf).map fun k => d + BitVec.ofNat 5 k
  let idx : List (BitVec 5) := if p = 1 then [b] else []
  plainOp i fun s =>
    if s.streaming (dests ++ idx) then .held s
    else startXfer j sp.toNat a
      (fun s => match s.cur.firstPoison [(a, 0)] with
        | some v => some v
        | none => if p = 1 ∧ s.cur.ownPoison b then some (poisonVal b 1) else none) 288
      (fun blk => decide (3 < bits blk 256 3))
      (fun blk irq s =>
        let zc := bits blk 256 3
        let z := 2 ^ zc
        let len := s.cur.vl.toNat
        let w (lo : Nat) : Word := BitVec.ofNat 64 (bits blk lo 64)
        let width := max (8 * z) (if p = 1 then tagWidth (s.cur.getV b).tag else 0)
        if s.tooLong width then .trap (lengthTrap s (encode i) width false) s
        else if len = 0 then doneUnlessFatal (s.endXfer j 0 (irqOf irq))
        else match (if p = 1 then s.indexThread b else (s, some s.cur)) with
          | (s, none) => .held s.fatal
          | (s, some t) =>
            let rec' (e : Nat) : Word := if p = 1 then indexOf t b e else BitVec.ofNat 64 e
            let addr (e f : Nat) : Word := w 0 + w 128 * rec' e + BitVec.ofNat 64 (f * z)
            let touches := (List.range len).flatMap fun e => (List.range nf).map fun f =>
              { elem := e, space := bits blk 259 1, addr := addr e f, size := z, write := false,
                aperture := false }
            match s.touchAll touches with
            | (s, .error x) => .trap x s
            | (s, .ok l) =>
              match s.loadVs dests with
              | (s, false) => .held s.fatal
              | (s, true) => match s.tagDests zc dests with
                | (s, false) => .held s.fatal
                | (s, true) =>
                  let rows := (List.range len).map fun e => (l.drop (e * nf)).take nf
                  let x := s.newXfer j (.gather d nf rows) z len irq
                    ((List.range len).map fun e => addr e 0) (pagesOf s.cur.ctx touches)
                  doneUnlessFatal (s.enqueueXfer x)) s

/-! ### Landings (R370, R382-R384) -/

/-- Leading elements that have all landed. -/
def leading (landed : List Nat) (k : Nat) : Nat → Nat
  | 0 => k
  | n + 1 => if landed.contains k then leading landed (k + 1) n else k

/-- R50: the last update of counter j has been written. -/
def State.lastUpdate (s : State) (j : BitVec 3) : State :=
  { s with cur := { s.cur with scbusy := putBit s.cur.scbusy j.toNat false } }

/-- A transfer of a core ends at an uncorrectable error of an element, by whose source address it is reported like one
of a store (R251, R384). -/
def State.failXfer (s : State) (core : Nat) (x : Xfer) (addr : Word) : State :=
  let s := s.setCore core { s.core core with xfer := none }
  s.onThread x.ref fun s =>
    match s.scUpdate x.ctr.toNat fun w => scWord (scCount w) (scLead w) false with
    | (s, false) => s
    | (s, true) =>
      let s := s.lastUpdate x.ctr
      { s with cur := s.cur.storeFailed addr }

/-- R383: one more element has landed. The last landing sets COUNT, LEAD and BUSY in one step, and
merges the flags of a collective (R402). -/
def State.landed (s : State) (core : Nat) (x : Xfer) (e : Nat) : State :=
  let x := { x with landed := e :: x.landed }
  let lead := min 0xFFFE (leading x.landed 0 x.count)
  let last := decide (x.count ≤ x.landed.length)
  let s := s.setCore core { s.core core with xfer := if last then none else some x }
  s.onThread x.ref fun s =>
    match s.scUpdate x.ctr.toNat fun w => scWord (scCount w + 1) lead (!last) with
    | (s, false) => s
    | (s, true) =>
      let s := match s.scRead x.ctr.toNat with
        | (s, some w) => s.wakeStream x.ctr.toNat (scCount w)
        | (s, none) => s
      if last then
        let s := s.lastUpdate x.ctr
        let s := { s with cur := s.cur.orFlags x.flags }
        if x.irq then s.complete { id := x.id, ctr := x.ctr, handler := x.handler } else s
      else s

/-- The full-empty granules, here or in another package, that the landing of element e completes (R288). -/
def State.fillGranule (s : State) (dst : List Place) (done : List Nat) (p : Place) : State :=
  match s.region p.pa with
  | .scratch _ _ | .fabric _ .window =>
    if dst.zipIdx.all fun q => q.1.pa / 16 != p.pa / 16 || done.contains q.2 then s.setFull (p.pa / 16) else s
  | _ => s

/-- R292, R388: an element that touches device-class memory lands after every element before it. -/
def State.deviceTurn (s : State) (places : List (List Place)) (done : List Nat) (e : Nat) : Bool :=
  !((places[e]?).getD []).any s.isDevice || (List.range e).all done.contains

/-- Store bytes into the current thread's save area. -/
def State.saveStore (s : State) (off n v : Nat) : State × Bool :=
  match s.global (s.cur.saveArea.toNat + off) n wantStore with
  | (s, .error _) => (s, false)
  | (s, .ok p) => if s.badRange p.pa n then (s, false) else (s.guardedStore s.cur.core p n v, true)

/-- One field of a record lands in a register, or in its image where the holder has no contents
(R50, R381); an uncorrectable error tags the register poison (R384). -/
def State.landField (s : State) (v : BitVec 5) (e z : Nat) (val : Option Nat) : State × Bool :=
  let x := s.cur.getV v
  match val with
  | none =>
    let s := { s with cur := s.cur.setV v { x with tag := 0x1F } }
    if x.resident then (s, true) else s.saveStore (0x20 + v.toNat) 1 0x9F
  | some n =>
    if x.resident then
      ({ s with cur := s.cur.setV v { x with bits := setElem x.bits (8 * z) e n, saved := false } }, true)
    else match s.wholeImage v with
      | (s, false) => (s, false)
      | (s, true) => s.saveStore (0x1000 + 0x400 * v.toNat + e * z) z n

/-- The fields of a record land one after another. -/
def State.landRecord (s : State) (die e z : Nat) : List (BitVec 5 × Place) → State × Bool
  | [] => (s, true)
  | (v, p) :: rest =>
    let bad := s.badRange p.pa z
    let (s, n) := if bad then (s, 0) else s.loadAt die p z
    match s.landField v e z (if bad then none else some n) with
    | (s, false) => (s, false)
    | (s, true) => s.landRecord die e z rest

/-- R50, R493: the image refused the access: the transfer ends and its thread with it. -/
def State.dropXfer (s : State) (core : Nat) (x : Xfer) : State :=
  (s.setCore core { s.core core with xfer := none }).onThread x.ref State.fatal

/-- One element of the transfer in progress on a core lands. -/
def State.land (s : State) (core e : Nat) : State :=
  match (s.core core).xfer with
  | none => s
  | some x =>
    if x.landed.contains e ∨ x.count ≤ e then s
    else
      let die := dieOf core
      match x.kind with
      | .copy src dst =>
        if s.deviceTurn ((src.zip dst).map fun q => [q.1, q.2]) x.landed e = false then s
        else match src[e]?, dst[e]? with
          | some p, some q =>
            if s.badRange p.pa x.bytes ∨ s.storeLost q.pa x.bytes then s.failXfer core x (x.srcAddr[e]?.getD 0)
            else
              let (s, v) := ((s.guardDevice core p).guardDevice core q).loadAt die p x.bytes
              let s := s.storeAt die q x.bytes v
              (s.fillGranule dst (e :: x.landed) q).landed core x e
          | _, _ => s
      | .gather d nf rows =>
        if s.deviceTurn rows x.landed e = false then s
        else
          let fields := ((List.range nf).map fun k => d + BitVec.ofNat 5 k).zip ((rows[e]?).getD [])
          let s := ((rows[e]?).getD []).foldl (·.guardDevice core ·) s
          let live := (s.find x.ref).isSome
          let ok := match s.find x.ref with
            | none => true
            | some _ => (({ s with cur := s.cur }.focus x.ref).landRecord die e x.bytes fields).2
          let s := s.onThread x.ref fun s => (s.landRecord die e x.bytes fields).1
          if live ∧ ok = false then s.dropXfer core x else s.landed core x e
      | .coll .. => s

/-- R370: the command that starts next: one passed over 16 times, else the highest priority, else the
earliest; a thread's commands start in issue order. -/
def State.nextXfer (s : State) (q : List Xfer) : Option Xfer :=
  let heads := q.foldl (fun l x => if l.any (·.ref == x.ref) then l else l ++ [x]) []
  let pri (x : Xfer) : Nat := match s.find x.ref with
    | some t => t.priority.toNat
    | none => 8
  match heads.find? fun x => decide (16 ≤ x.passed) with
  | some x => some x
  | none => heads.foldl (fun b x => match b with
      | none => some x
      | some y => if pri y < pri x then some x else some y) none

/-- Commands ahead of the one that starts are passed over once more. -/
def passOver (x : Xfer) : List Xfer → List Xfer
  | [] => []
  | y :: rest => if y = x then rest else { y with passed := y.passed + 1 } :: passOver x rest

/-- R370: the save of a migration, of a pre-emption or of the matrix state waits for a core's engine: it starts ahead of
every queued command. -/
def State.saveWaits (s : State) (core : Nat) : Bool :=
  s.all.any fun t => t.core == core && (match t.run with
    | .transit => t.mig.any (!·.injected) && !s.messagesWait t.ref
    | .run => t.stall.isNone && t.st stPREQ && ((s.ctxSt t.ctx).saving.any fun v => decide (v.deadline ≤ s.dtime))
    | .done => false
    | _ => t.st stPREQ && s.savingCtx t.ctx)

/-- STREAM_TRANSFER_START: a free engine for which no save waits starts its next command. A collective first writes its
READY word (R402). -/
def execStreamTransferStart (core : Nat) (s : State) : Host.Outcome State Fault Refusal :=
  let c := s.core core
  match c.xfer with
  | some _ => .next s
  | none => if s.saveWaits core then .next s else match s.nextXfer c.streamQ with
    | none => .next s
    | some x =>
      let s := s.setCore core { c with streamQ := passOver x c.streamQ, xfer := some x }
      match x.kind with
      | .coll _ _ _ _ _ r _ ready _ _ seq _ _ => match ready[r]? with
        | some p => .next (s.guardedStore core p 8 seq.toNat)
        | none => .next s
      | _ => .next s

/-! ### COLL (R401, R402) -/

/-- The fields of a collective's descriptor. -/
structure CollDesc where
  op : Nat
  tag : BitVec 5
  red : Nat
  n : Nat
  p : Nat
  r : Nat
  ranks : Word
  recv : Word
  flags : Word
  seq : Word

def CollDesc.ofBlock (b : Nat) : CollDesc :=
  { op := bits b 0 8, tag := BitVec.ofNat 5 (bits b 8 8), red := bits b 16 8, n := bits b 32 32,
    p := bits b 64 32, r := bits b 96 32, ranks := BitVec.ofNat 64 (bits b 128 64),
    recv := BitVec.ofNat 64 (bits b 192 64), flags := BitVec.ofNat 64 (bits b 256 64),
    seq := BitVec.ofNat 64 (bits b 320 64) }

/-- R401: a descriptor that step 3 of R379 refuses. -/
def collRefused (b : Nat) : Bool :=
  let c := CollDesc.ofBlock b
  decide (2 < c.op) || decide (31 < bits b 8 8) || !groupTag c.tag || decide (4 < c.red) ||
    c.n == 0 || decide (2 ^ 24 < c.n) || c.p == 0 || decide (4096 < c.p) || decide (c.p ≤ c.r)

/-- Read the two words of each rank-table entry. -/
def State.rankWords (s : State) : List Place → State × List Nat
  | [] => (s, [])
  | p :: rest =>
    let (s, v) := s.guardedLoad s.cur.core p 8
    let (s, l) := s.rankWords rest
    (s, v :: l)

/-- COLL: every address is checked, then the collective enters the stream queue. -/
def execColl (a : BitVec 5) (sp : BitVec 1) (j : BitVec 3) : State → Host.Outcome State Fault Refusal :=
  plainOp (.coll a sp j) (startXfer j sp.toNat a (fun s => s.cur.firstPoison [(a, 0)]) 384 collRefused
    fun blk irq s =>
      let c := CollDesc.ofBlock blk
      let z := tagWidth c.tag / 8
      let word (e : Nat) (addr : Word) (w ap : Bool) : Touch :=
        { elem := e, space := 0, addr := addr, size := 8, write := w, aperture := ap }
      let table := (List.range (2 * c.p)).map fun k => word (k / 2) (c.ranks + BitVec.ofNat 64 (8 * k)) false false
      match s.touchAll table with
      | (s, .error x) => .trap x s
      | (s, .ok places) =>
        match (places.zip table).find? fun q => s.badRange q.1.pa 8 with
        | some q => .trap { code := 0x0C, val := q.2.addr, elem := some q.2.elem, start := none } s
        | none =>
          let (s, words) := s.rankWords places
          let buf (q : Nat) : Word := BitVec.ofNat 64 (words[2 * q]?.getD 0)
          let ready (q : Nat) : Word := BitVec.ofNat 64 (words[2 * q + 1]?.getD 0)
          let count := if c.op = 0 then c.p * c.n else c.n
          let elem (e : Nat) (addr : Word) (w ap : Bool) : Touch :=
            { elem := e, space := 0, addr := addr, size := z, write := w, aperture := ap }
          let sends := (List.range c.p).flatMap fun q => (List.range c.n).map fun i =>
            elem (if c.op = 0 then q * c.n + i else i) (buf q + BitVec.ofNat 64 (i * z)) false true
          let recvs := (List.range count).map fun e => elem e (c.recv + BitVec.ofNat 64 (e * z)) true false
          let readies := (List.range c.p).map fun q => word q (ready q) false true
          let flags := if c.flags = 0 then [] else
            (List.range c.p).map fun q => word q (c.flags + BitVec.ofNat 64 (8 * q)) true false
          let own := [word c.r (ready c.r) true true]
          let checks := (readies ++ own ++ flags ++ sends ++ recvs).mergeSort fun x y => decide (x.elem ≤ y.elem)
          match s.touchAll checks with
          | (s, .error x) => .trap x s
          | (s, .ok l) =>
            let found := checks.zip l
            let places (ts : List Touch) : List Place :=
              ts.filterMap fun t => (found.find? fun q => q.1 == t).map (·.2)
            let kind : XferKind := .coll c.op c.tag (BitVec.ofNat 3 c.red) c.n c.p c.r (places sends)
              (places readies) (places recvs) (places flags) c.seq [] []
            let x := s.newXfer j kind z count irq (sends.map (·.addr))
              (pagesOf s.cur.ctx (table ++ readies ++ flags ++ sends ++ recvs))
            doneUnlessFatal (s.enqueueXfer x))

/-- COLL_READY_POLL: an acquire load of a READY word that the engine has not yet seen equal to SEQ. -/
def execCollReadyPoll (core q : Nat) (s : State) : Host.Outcome State Fault Refusal :=
  let c := s.core core
  match c.xfer with
  | some x => match x.kind with
    | .coll op tag red n p r send ready recv flags seq seen copied =>
      match ready[q]? with
      | none => .next s
      | some place =>
        if seen.contains q ∨ s.badRange place.pa 8 then .next s
        else
          let (s, v) := s.guardedLoad core place 8
          if v = seq.toNat then
            let x := { x with kind := .coll op tag red n p r send ready recv flags seq (q :: seen) copied }
            .next (s.setCore core { s.core core with xfer := some x })
          else .next s
    | _ => .next s
  | none => .next s

/-- The ranks of an all-gather in the order of R402: r, r + 1, and round to r − 1. -/
def rankOrder (p r : Nat) : List Nat := (List.range p).map fun k => (r + k) % p

/-- The sources of element e of a collective, as numbers into its SENDBUF elements. -/
def collSources (op n p e : Nat) : List Nat := if op = 1 then (List.range p).map fun q => q * n + e else [e]

/-- Read elements for a core, one after another. -/
def State.readPlaces (s : State) (core z : Nat) : List Place → State × List Nat
  | [] => (s, [])
  | q :: rest =>
    let (s, v) := s.guardedLoad core q z
    let (s, l) := s.readPlaces core z rest
    (s, v :: l)

/-- The value of element e of a collective whose ranks are ready: read, or combined by the tree of
R150; the number of the first source that cannot be read. -/
def State.collValue (s : State) (core : Nat) (op : Nat) (tag : BitVec 5) (red : BitVec 3) (n p : Nat)
    (send : List Place) (e : Nat) : State × Except Nat (Nat × FFlags) :=
  let z := tagWidth tag / 8
  let srcs := (collSources op n p e).filterMap fun k => (send[k]?).map fun q => (k, q)
  match srcs.find? fun q => s.badRange q.2.pa z with
  | some q => (s, .error q.1)
  | none =>
    let (s, vals) := s.readPlaces core z (srcs.map (·.2))
    if op = 1 then
      let o := groupOp red.toNat
      (s, .ok (reduceList (o.apply tag .rne) (o.identity tag) vals))
    else (s, .ok (vals.headD 0, 0))

/-- Land elements lo, lo + 1, … of a collective in progress on a core; false where an error ends it. -/
def State.landColl (s : State) (core lo : Nat) : Nat → State × Bool
  | 0 => (s, true)
  | k + 1 =>
    match (s.core core).xfer with
    | none => (s, false)
    | some x => match x.kind with
      | .coll op tag red n p _ send _ recv _ _ _ _ =>
        if x.landed.contains lo then s.landColl core (lo + 1) k
        else
          match s.collValue core op tag red n p send lo, recv[lo]? with
          | (s, .ok (v, f)), some q =>
            let s := s.guardedStore core q x.bytes v
            let s := s.fillGranule recv (lo :: x.landed) q
            (s.landed core { x with flags := x.flags ||| f } lo).landColl core (lo + 1) k
          | (s, .error q), _ => (s.failXfer core x (x.srcAddr[q]?.getD 0), false)
          | (s, _), none => (s, false)
      | _ => (s, false)

/-- Whether element e of a collective may land: every rank it needs has been seen ready, and among the
ready ranks of an all-gather its rank is the next, or has begun, and the local shard comes first (R402, R467). -/
def collTurn (x : Xfer) (e : Nat) : Bool :=
  match x.kind with
  | .coll op _ _ n p r _ _ _ _ _ seen copied =>
    if op = 0 then
      let q := e / n
      let waiting := (rankOrder p r).filter fun k => seen.contains k && !copied.contains k
      seen.contains q && (q == r || copied.contains r) && (waiting.head? == some q || x.landed.any fun k => k / n == q)
    else if op = 1 then (List.range p).all seen.contains
    else seen.contains 0
  | _ => false

/-- R292, R388: element e of an all-reduce or a broadcast that touches device-class memory lands after every element before
it. -/
def State.collDeviceTurn (s : State) (x : Xfer) (e : Nat) : Bool :=
  match x.kind with
  | .coll op _ _ n p _ send _ recv _ _ _ _ =>
    let places := (collSources op n p e).filterMap (send[·]?) ++ (recv[e]?).toList
    !places.any s.isDevice || (List.range e).all x.landed.contains
  | _ => true

/-- COLL_SHARD_COPY: the elements of a ready rank's shard land, then its flag (R402). For an all-reduce
and a broadcast every element lands. -/
def execCollShardCopy (core q : Nat) (s : State) : Host.Outcome State Fault Refusal :=
  match (s.core core).xfer with
  | some x => match x.kind with
    | .coll op tag red n p r send ready recv flags seq seen copied =>
      if op = 0 then
        if collTurn x (q * n) = false ∨ copied.contains q ∨ p ≤ q then .next s
        else
          let x := { x with kind := .coll op tag red n p r send ready recv flags seq seen (q :: copied) }
          let s := s.setCore core { s.core core with xfer := some x }
          match s.landColl core (q * n) n, flags[q]? with
          | (s, true), some f => .next (s.guardedStore core f 8 1)
          | (s, _), _ => .next s
      else if collTurn x 0 then .next (s.landColl core 0 n).1 else .next s
    | _ => .next s
  | none => .next s

/-- STREAM_ELEMENT_LANDING: element e of the transfer in progress on a core lands; of an all-reduce or
a broadcast too. -/
def execStreamElementLanding (core e : Nat) (s : State) : Host.Outcome State Fault Refusal :=
  match (s.core core).xfer with
  | some x => match x.kind with
    | .coll op .. =>
      if op = 0 ∨ collTurn x e = false ∨ x.count ≤ e ∨ s.collDeviceTurn x e = false then .next s else .next (s.landColl core e 1).1
    | _ => .next (s.land core e)
  | none => .next s

/-! ### STRMW and UIRET (R385, R386) -/

/-- STRMW: wait until COUNT has reached B. -/
def execStrmw (b : BitVec 5) (j : BitVec 3) : State → Host.Outcome State Fault Refusal :=
  plainOp (.strmw b j) (consume [(b, 1)] fun s =>
    let target := (s.cur.getS b).setWidth 32
    match s.scRead j.toNat with
    | (s, none) => .held s.fatal
    | (s, some w) =>
      if countMet (scCount w) target.toNat then .done s
      else .held (s.enterWait (.stream j target)))

/-- UIRET: return from a user-level interrupt handler. -/
def execUiret : State → Host.Outcome State Fault Refusal :=
  plainOp .uiret fun s =>
    if s.cur.st stINUI = false then .trap (illegal (encode .uiret) 0) s
    else .jump (s.cur.ulipc &&& ~~~(3 : Word)) { s with cur := s.cur.setSt stINUI false }

/-- USER_INTERRUPT_ENTRY: a thread in RUN takes its oldest pending completion at an instruction boundary
(R123, R258). -/
def execUserInterruptEntry (c t : Nat) (s : State) : Host.Outcome State Fault Refusal :=
  .next (s.onThread { ctx := c, tid := t } fun s =>
    let u := s.cur
    match u.pending with
    | [] => s
    | p :: rest =>
      if u.run ≠ .run ∨ u.st stUIE = false ∨ u.st stINUI ∨ u.st stINTRAP ∨ u.latch.isSome ∨
          u.reissue.isSome ∨ u.stall.isSome then s
      else
        let u := (u.setSt stINUI true).setSt stUIP (!rest.isEmpty)
        { s with cur := { u with ulipc := u.pc &&& ~~~(3 : Word), pending := rest, pc := p.handler,
                                 xferid := BitVec.ofNat 64 (p.id.toNat + p.ctr.toNat * 2 ^ 32) } })

/-- COUNTERS_RETURN: once no transfer of an earlier core is left, sc0 to sc7 are read back from the save
block and counting resumes in the holder (R50, R387). -/
def execCountersReturn (c t : Nat) (s : State) : Host.Outcome State Fault Refusal :=
  .next (s.onThread { ctx := c, tid := t } fun s =>
    let u := s.cur
    if u.scAway = false ∨ u.scbusy ≠ 0 ∨ u.run = .transit ∨ u.run = .saved then s
    else match s.saveRead 0x40 8 with
      | (s, none) => s.fatal
      | (s, some n) =>
        let sc : Vector Word 8 := Vector.ofFn fun i => BitVec.ofNat 64 (bits n (64 * i.val) 64) &&& 0x1FFFFFFFFFFFF
        { s with cur := { s.cur with sc := sc, scAway := false } })

end Sys2Proof.Machine
end

