-- ==== Sys2Proof/Machine/Message.lean ====
section
/-!
DEFINITION. Messages and work tokens (major 0x2B, R359, R373-R375, R389-R394, R411) and their way from
a retry buffer to a channel ring or a token queue.
-/

namespace Sys2Proof.Machine

/-! ### Routes (R390, R411) -/

/-- A channel-part entry. -/
structure Channel where
  cls : Nat
  dtorus : Nat
  dctx : Nat
  dlcore : Nat
  dchan : Nat
  slots : Nat
  ring : Nat

/-- The valid channel entry of a context. -/
def State.channel (s : State) (ctx chan : Nat) : Option Channel :=
  let w := s.table 3 ctx chan 0
  if tvalid w then
    some { cls := tfield w 1 1, dtorus := tfield w 4 2, dctx := tfield w 6 2 % 4096, dlcore := tfield w 8 2,
           dchan := tfield w 0xA 2 % 4096, slots := tfield w 0xC 2, ring := tfield w 0x10 4 }
  else none

/-- The package of a logical torus coordinate of a context (R410). -/
def State.torus (s : State) (ctx index : Nat) : Option Nat :=
  let w := s.table 2 ctx index 0
  if tvalid w then some (tfield w 4 2 % 16384) else none

/-- The physical core of a valid core-table entry, available or not. -/
def State.corePhys (s : State) (ctx lcore : Nat) : Option Nat :=
  let w := s.coreEntry ctx lcore
  if tvalid w then some (tfield w 4 2) else none

/-! ### Rings (R390) -/

def State.ring (s : State) (ctx chan : Nat) : Ring :=
  (s.rings.find? fun r => r.ctx == ctx && r.chan == chan).getD { ctx := ctx, chan := chan, first := 0, held := 0 }

def State.setRing (s : State) (r : Ring) : State :=
  { s with rings := r :: s.rings.filter fun q => !(q.ctx == r.ctx && q.chan == r.chan) }

/-- The physical address of a slot of a ring. -/
def slotBase (core : Nat) (e : Channel) (slot : Nat) : Nat := windowBase core + e.ring + 288 * slot

/-- Store up to n bytes at 16-byte places, as stores of a thread on a core (R392, R434). -/
def State.storePieces (s : State) (core v : Nat) : List Place → Nat → State
  | [], _ => s
  | p :: rest, n =>
    if n = 0 then s
    else (s.guardedStore core p (min n 16) (v % 2 ^ (8 * min n 16))).storePieces core (v / 2 ^ 128) rest (n - 16)

/-- R392: take the oldest message of a ring: its payload goes to a buffer, its slot is freed, and the
status word says what it was. -/
def State.takeMessage (s : State) (ctx chan core : Nat) (e : Channel) (buf : List Place) : State × Word :=
  let r := s.ring ctx chan
  let base := slotBase core e r.first
  let head := readNat s.mem base 32
  let len := min 256 (bits head 64 16)
  let s := s.storePieces core (readNat s.mem (base + 32) len) buf len
  let s := s.setRing { r with first := (r.first + 1) % e.slots, held := r.held - 1 }
  (s, BitVec.ofNat 64 (len + bits head 80 16 * 2 ^ 16 + bits head 96 14 * 2 ^ 32))

/-- Serve the threads waiting on a channel, in order of registration, while the ring holds a message. -/
def State.serveRecv (s : State) (ctx chan : Nat) (e : Channel) : List TRef → State
  | [] => s
  | r :: rest =>
    if (s.ring ctx chan).held = 0 then s
    else match s.find r with
      | some t => match t.wait with
        | some (.recv ch buf core d) =>
          if t.ctx = ctx ∧ ch = chan then
            let s := { s with recvWaiters := s.recvWaiters.filter (· != r) }
            let (s, w) := s.takeMessage ctx chan core e buf
            (s.wake r (some (d, w)) 0x2B).serveRecv ctx chan e rest
          else s.serveRecv ctx chan e rest
        | _ => s.serveRecv ctx chan e rest
      | none => s.serveRecv ctx chan e rest

/-! ### Acceptance (R359, R373, R411) -/

/-- The 32 bytes of a message header (R390). -/
def Msg.header (m : Msg) : Nat :=
  m.dstCore % 2 ^ 16 + m.dstPkg % 2 ^ 14 * 2 ^ 16 + m.dstCtx % 4096 * 2 ^ 32 + m.chan % 4096 * 2 ^ 48 +
    m.cls % 4 * 2 ^ 60 + m.len % 2 ^ 16 * 2 ^ 64 + m.srcCore % 2 ^ 16 * 2 ^ 80 + m.srcPkg % 2 ^ 16 * 2 ^ 96 +
    m.seq.toNat * 2 ^ 128 + m.time.toNat * 2 ^ 192

/-- R391, R411: a message that is discarded is recorded on a die and counted at its sender. -/
def State.discard (s : State) (die core : Nat) (m : Msg) : State :=
  let s := s.record die 0x07 core (Config.eventArg 0x07 [m.dstCtx, m.chan, m.srcCore])
  if m.srcPkg = s.manifest.package ∧ (s.cls m.srcCore).isSome then s.count m.srcCore 15 else s

/-- A message reaches its destination core: it is accepted or discarded, or false where it is refused. -/
def State.deliver (s : State) (m : Msg) : State × Bool :=
  let drop : State × Bool :=
    (s.discard (if (s.cls m.dstCore).isSome then dieOf m.dstCore else 12) (m.dstCore % 2 ^ 16) m, true)
  match s.channel m.dstCtx m.chan with
  | none => drop
  | some e =>
    if e.cls ≠ m.cls ∨ s.corePhys m.dstCtx e.dlcore ≠ some m.dstCore ∨
        s.localBytes m.dstCore < e.ring + 288 * e.slots then drop
    else
      let r := s.ring m.dstCtx m.chan
      if (s.ctxSt m.dstCtx).isSaved ∨ e.slots ≤ r.held then (s, false)
      else
        let base := slotBase m.dstCore e ((r.first + r.held) % e.slots)
        let s := s.storeAt (dieOf m.dstCore) { pa := base, attr := 0 } 288 (m.header + m.data.toNat * 2 ^ 256)
        let s := s.setRing { r with held := r.held + 1 }
        let s := s.setFullRange base 288
        (s.serveRecv m.dstCtx m.chan e s.recvWaiters, true)

/-- A token enters the queue of its launch unit. -/
def State.acceptToken (s : State) (u : Nat) (t : Token) : State :=
  let x := s.unit u
  s.setUnit u { x with tokens := x.tokens ++ [{ t with time := BitVec.ofNat 64 s.dtime }] }

/-- R359: a token is accepted, or joins the refused ones; those are served first. -/
def State.offerToken (s : State) (u : Nat) (t : Token) : State × Bool :=
  let x := s.unit u
  if x.refused = [] ∧ x.tokens.length < 256 then (s.acceptToken u t, true)
  else (s.setUnit u { x with refused := x.refused ++ [t] }, false)

/-- The launch unit of a TOKEN message, from the address it writes (R394). -/
def Msg.unit (m : Msg) : Nat := m.pa % 2 ^ 42 / 0x1000000 % 2

/-- The token that a message in the retry buffer of a core carries. -/
def Msg.token (m : Msg) (core : Nat) : Token :=
  { tok := m.data.setWidth 512, time := 0, src := BitVec.ofNat 16 m.srcPkg, whole := true, core := some core }

/-- Remove the first refused message that carries a token to a unit. -/
def dropTokenMsg (u : Nat) (t : Token) : List Msg → List Msg
  | [] => []
  | m :: rest =>
    if m.cls = 3 ∧ m.refused ∧ m.unit = u ∧ (m.token 0).tok = t.tok then rest else m :: dropTokenMsg u t rest

/-- The retry buffer that held a refused token lets it go. -/
def State.releaseToken (s : State) (u : Nat) (t : Token) : State :=
  match t.core with
  | none => s
  | some k => s.setCore k { s.core k with retry := dropTokenMsg u t (s.core k).retry }

/-- R359: while the queue has room, refused tokens enter it in the order of their first refusal. -/
def State.serveRefused (s : State) (u : Nat) : Nat → State
  | 0 => s
  | n + 1 =>
    let x := s.unit u
    match x.refused with
    | [] => s
    | t :: rest =>
      if x.tokens.length < 256 then
        (((s.setUnit u { x with refused := rest }).acceptToken u t).releaseToken u t).serveRefused u n
      else s

/-! ### The retry buffer (R373-R375, R478-R480) -/

/-- R374: whether a later message may not be accepted before an earlier one of its buffer. -/
def Msg.behind (later earlier : Msg) : Bool :=
  later.sender == earlier.sender && later.dstPkg == earlier.dstPkg && later.dstCore == earlier.dstCore &&
    later.cls != 1 && (later.cls != 0 || (later.chan == earlier.chan && later.dstCtx == earlier.dstCtx))

/-- Whether two messages go to one ring or one launch unit. -/
def Msg.sameTarget (m q : Msg) : Bool :=
  m.dstPkg == q.dstPkg && m.dstCore == q.dstCore && m.dstCtx == q.dstCtx && m.chan == q.chan

/-- Whether message k of a buffer may be offered now: no earlier message holds it back, and no refused
one waits for the same place. -/
def mayOffer (buf : List Msg) (k : Nat) (m : Msg) : Bool :=
  (buf.take k).all (fun q => !m.behind q) &&
    (m.refused || buf.all fun q => !(q.refused && m.sameTarget q))

/-! Links are numbered 0 to 15 for the fabric links of the O-dies, four each; 16 to 27 for the hub links of the
compute dies; 28 to 39 for the ring links from die n to die n + 1; 40 to 43 for the hub links of the O-dies (log
entry 2). -/

/-- Whether a link works. -/
def State.linkUp (s : State) (l : Nat) : Bool := !s.links.failed.contains l

/-- The ring links of a die: the link and the die it leads to. -/
def ringLinks (die : Nat) : List (Nat × Nat) := [(28 + die, (die + 1) % 12), (28 + (die + 11) % 12, (die + 11) % 12)]

/-- The working ring links of a die. -/
def State.ringUp (s : State) (die : Nat) : List (Nat × Nat) := (ringLinks die).filter fun r => s.linkUp r.1

/-- R13, R479: the path from one compute die to another: the direct way, a ring link or the two hub links, on the packet's
own virtual channel; or around failed links, the first leg on the own channel and every later one on the escape channel,
in the order die to hub, hub to die, last a ring link into the destination. -/
def State.route (s : State) (a b : Nat) (own : BitVec 2) : Option (List Hop) :=
  let hub (d : Nat) : Bool := s.linkUp (16 + d)
  if a = b then some []
  else match (s.ringUp a).find? (·.2 == b) with
    | some r => some [⟨r.1, own, b⟩]
    | none =>
      let later : BitVec 2 := if (ringLinks a).any (·.2 == b) then 3 else own
      if hub a ∧ hub b then some [⟨16 + a, own, 12⟩, ⟨16 + b, later, b⟩]
      else
        let first : Option (Hop × List Hop) := if hub a then some (⟨16 + a, own, 12⟩, []) else
          ((s.ringUp a).find? fun r => hub r.2).map fun r => (⟨r.1, own, r.2⟩, [⟨16 + r.2, 3, 12⟩])
        let last : Option (List Hop) := if hub b then some [⟨16 + b, 3, b⟩] else
          ((s.ringUp b).find? fun r => hub r.2).map fun r => [⟨16 + r.2, 3, r.2⟩, ⟨r.1, 3, b⟩]
        match (s.ringUp a).find? fun r => (s.ringUp b).any (·.2 == r.2) with
        | some r => ((s.ringUp b).find? (·.2 == r.2)).map fun q => [⟨r.1, own, r.2⟩, ⟨q.1, 3, b⟩]
        | none => match first, last with
          | some (h, l), some r => some (h :: l ++ r)
          | _, _ => none

/-- R478, R479: the legs from a die to another package over fabric link l of O-die l / 4: a path around a failed hub link
takes its first leg on its own channel and the later ones on the escape channel; a packet that passes through this
package, whose hub (die 12) holds it, takes the escape channel on the last leg. -/
def State.wayOut (s : State) (a l : Nat) : Option (List Hop) :=
  let o := 13 + l / 4
  if s.linkUp (40 + l / 4) = false ∨ s.linkUp l = false then none
  else if a = 12 then some [⟨40 + l / 4, 2, o⟩, ⟨l, 3, 17⟩]
  else if s.linkUp (16 + a) then some [⟨16 + a, 2, 12⟩, ⟨40 + l / 4, 2, o⟩, ⟨l, 2, 17⟩]
  else ((s.ringUp a).find? fun r => s.linkUp (16 + r.2)).map fun r =>
    [⟨r.1, 2, r.2⟩, ⟨16 + r.2, 3, 12⟩, ⟨40 + l / 4, 3, o⟩, ⟨l, 2, 17⟩]

/-- R478, R479: the paths from a die to another package: over the links that the cabling leads there, then through one
third package; a packet that passes through this one takes a link to its destination. -/
def State.pathsOut (s : State) (a package : Nat) : List (List Hop) :=
  let up := (List.range 16).filter fun l => (s.wayOut a l).isSome
  let direct := up.filter fun l => Config.cabling l == package
  let third := if a = 12 then [] else
    up.filter fun l => Config.cabling l != package && Config.cabled (Config.cabling l) package
  (direct ++ third).filterMap (s.wayOut a)

/-- R480: what names a packet at its destination. -/
def Msg.once (m : Msg) : Nat × Nat × Nat × Word :=
  (m.srcPkg * 65536 + m.srcCore, if m.cls = 3 then 0x10000 + m.unit else m.dstCore, m.cls, m.seq)

/-- Whether a frame carries a message of a retry buffer. -/
def Frame.carries (f : Frame) (core : Nat) (m : Msg) : Bool :=
  f.core == core && f.msg.any fun q => q.once == m.once && q.dstPkg == m.dstPkg

/-- The die of a message's destination. -/
def Msg.die (m : Msg) : Nat := if m.cls = 3 then unitDie m.unit else dieOf m.dstCore

/-- R479, R481: the path of a message from the die of its retry buffer; none where no working path is left. -/
def State.path (s : State) (core : Nat) (m : Msg) : Option (List Hop) :=
  if (s.die (dieOf core)).cut then none
  else if m.dstPkg ≠ s.manifest.package then
    let l := s.pathsOut (dieOf core) m.dstPkg
    l[m.tried % max 1 l.length]?
  else if (s.die m.die).cut then none
  else s.route (dieOf core) m.die 2

/-- R478, R479: the frame slots of a link in each direction: 256 for each of its four channels, of which 8 are kept for
the escape channel. -/
def linkSlots : Nat := 4 * 256
def escapeSlots : Nat := 8

/-- R478, R479: a channel of a link has room for one more frame in a direction. -/
def State.frameRoom (s : State) (h : Hop) : Bool :=
  let there := s.links.frames.filter fun g => g.link == h.link && g.dest == h.dest
  decide ((there.filter (·.chan == h.chan)).length < 256) &&
    (h.chan == 3 || decide ((there.filter (·.chan != 3)).length < linkSlots - escapeSlots))

/-- The key of a channel's next sequence number: the link with its direction, and the channel. -/
def Hop.key (h : Hop) : Nat × Nat := (h.link + 64 * h.dest, h.chan.toNat)

/-- R478: a message takes a leg of its path in a frame; none where the link has failed or has no room. -/
def State.sendFrame (s : State) (core : Nat) (m : Msg) (h : Hop) (rest : List Hop) : Option State :=
  let n := (lookup s.links.txNext h.key).getD 0
  let f : Frame := { link := h.link, chan := h.chan, seq := n, resends := 0, sent := s.dtime, core := core, msg := some m,
                     dest := h.dest, rest := rest }
  if s.linkUp h.link ∧ s.frameRoom h then
    some { s with links := { s.links with frames := s.links.frames ++ [f], txNext := assign s.links.txNext h.key (n + 1) } }
  else none

/-- R478: the frame of a message is acknowledged at the end of its leg. -/
def State.ackFrame (s : State) (core : Nat) (m : Msg) (link : Nat) : State :=
  { s with links := { s.links with frames := s.links.frames.filter fun f => !f.carries core m
                                   acked := assign s.links.acked link s.dtime } }

/-- R479: the frame of a message is gone; the message waits in its retry buffer again. -/
def State.dropFrame (s : State) (core : Nat) (m : Msg) : State :=
  { s with links := { s.links with frames := s.links.frames.filter fun f => !f.carries core m } }

/-- One more leg of a message's way (R478, R479), and whether it has reached the die of its destination. -/
def State.hop (s : State) (core : Nat) (m : Msg) : State × Bool :=
  match s.links.frames.find? (·.carries core m) with
  | none => match s.path core m with
    | none => (s, false)
    | some [] => (s, true)
    | some (h :: rest) => ((s.sendFrame core m h rest).getD s, false)
  | some f =>
    if f.dest = 17 then (s, false)
    else match f.rest with
      | [] => (s.ackFrame core m f.link, true)
      | h :: rest =>
        if s.linkUp h.link = false then (s.dropFrame core m, false)
        else (((s.ackFrame core m f.link).sendFrame core m h rest).getD s, false)

/-- The legs of a message's way, up to n of them, to its destination or onto the link to another package. -/
def State.carry (s : State) (core : Nat) (m : Msg) : Nat → State × Bool
  | 0 => (s, false)
  | n + 1 =>
    match s.hop core m with
    | (s, true) => (s, true)
    | (s, false) => s.carry core m n

/-- The messages of a class in a core's retry buffer. -/
def State.retryOf (s : State) (core cls : Nat) : List Msg := (s.core core).retry.filter (·.cls == cls)

/-- Replace the first occurrence of a message, or remove it. -/
def replaceMsg (m : Msg) (r : Option Msg) : List Msg → List Msg
  | [] => []
  | q :: rest => if q = m then r.toList ++ rest else q :: replaceMsg m r rest

def State.setMsg (s : State) (core : Nat) (m : Msg) (r : Option Msg) : State :=
  let c := s.core core
  s.setCore core { c with retry := replaceMsg m r c.retry }

/-- Offer a message at its destination, once it has come there over the links of its path. One to another package waits on
the link until its frame is acknowledged: it has been accepted there. -/
def State.offer (s : State) (core : Nat) (m : Msg) : State :=
  let s := s.openGuard core
  match s.links.frames.find? fun f => f.carries core m && f.dest == 17 with
  | some f => (s.ackFrame core m f.link).setMsg core m none
  | none =>
    match s.carry core m 8 with
    | (s, false) => s
    | (s, true) =>
      if m.cls = 3 then
        if m.refused then s.serveRefused m.unit 256
        else match s.offerToken m.unit (m.token core) with
          | (s, true) => s.setMsg core m none
          | (s, false) => s.setMsg core m (some { m with refused := true })
      else match s.deliver m with
        | (s, true) => s.setMsg core m none
        | (s, false) => s.setMsg core m (some { m with refused := true })

/-- MESSAGE_DELIVERY: message k of a class in a core's retry buffer reaches its destination. -/
def execMessageDelivery (core cls k : Nat) (s : State) : Host.Outcome State Fault Refusal :=
  let buf := s.retryOf core cls
  match buf[k]? with
  | none => .next s
  | some m => if mayOffer buf k m then .next (s.offer core m) else .next s

/-- The first refused message of a buffer that may be offered. -/
def firstRefused (buf : List Msg) : Nat → List Msg → Option Msg
  | _, [] => none
  | k, m :: rest => if m.refused ∧ mayOffer buf k m then some m else firstRefused buf (k + 1) rest

/-- RETRY_OFFER: the oldest refused message of a buffer is offered again. -/
def execRetryOffer (core cls : Nat) (s : State) : Host.Outcome State Fault Refusal :=
  let buf := s.retryOf core cls
  match firstRefused buf 0 buf with
  | none => .next s
  | some m => .next (s.offer core m)

/-! ### SEND, RECV, RECVT, TOKW -/

/-- The 16-byte pieces of n bytes from an address. -/
def piecesOf (addr : Word) (n : Nat) : List (Word × Nat) :=
  (List.range ((n + 15) / 16)).map fun k => (addr + BitVec.ofNat 64 (16 * k), min 16 (n - 16 * k))

/-- The places of pieces, in ascending order, or the first fault. -/
def State.locateAll (s : State) (space : Nat) (k : Want) : List (Word × Nat) → State × Except Trap (List Place)
  | [] => (s, .ok [])
  | (a, n) :: rest =>
    match s.locate space a n k with
    | (s, .error (c, v)) => (s, .error (.plain c v))
    | (s, .ok p) => match s.locateAll space k rest with
      | (s, .error x) => (s, .error x)
      | (s, .ok l) => (s, .ok (p :: l))

/-- Load up to n bytes from 16-byte places, as loads of the current thread (R391, R434). -/
def State.loadPieces (s : State) : List Place → Nat → State × Nat
  | [], _ => (s, 0)
  | p :: rest, n =>
    let (s, v) := s.load 0 0 p (min 16 n)
    let (s, w) := s.loadPieces rest (n - 16)
    (s, v + w * 2 ^ 128)

/-- R375: a message of a class that the thread sent before its latest save waits in a retry buffer. -/
def State.sendBehind (s : State) (cls : Nat) : Bool :=
  cls != 1 && s.cores.any fun e => e.2.retry.any fun m => m.sender == s.cur.ref && m.cls == cls && m.old

/-- R358, R391, R393: a message of a class stalls at issue. -/
def State.sendStalls (s : State) (cls : Nat) : Bool :=
  decide (8 ≤ (s.retryOf s.cur.core cls).length) || s.sendBehind cls

/-- Stage a message: it takes its sequence number and joins the retry buffer. -/
def State.stage (s : State) (m : Msg) : State :=
  let c := s.core s.cur.core
  let key := (m.dstPkg, m.dstCore, m.cls)
  let n : Word := (lookup c.seqs key).getD 0
  s.setCore s.cur.core
    { c with retry := c.retry ++ [{ m with seq := n, time := BitVec.ofNat 64 s.dtime }],
             seqs := assign c.seqs key (n + 1) }

/-- A message of the current thread. -/
def State.newMsg (s : State) (cls pkg core ctx chan len data pa : Nat) : Msg :=
  { cls := cls, sender := s.cur.ref, dstPkg := pkg, dstCore := core, dstCtx := ctx, chan := chan, len := len,
    data := BitVec.ofNat 2048 data, srcCore := s.cur.core, srcPkg := s.manifest.package, seq := 0, time := 0,
    pa := pa, refused := false }

/-- The channel number of a word (R389). -/
def chanOf (h : BitVec 5) (l : BitVec 7) : Nat := h.toNat * 128 + l.toNat

/-- SEND. -/
def execSend (d a h : BitVec 5) (l : BitVec 7) (sp : BitVec 1) : State → Host.Outcome State Fault Refusal :=
  plainOp (.send d a h l sp) fun s =>
    let e := s.channel s.cur.ctx (chanOf h l)
    if (match e with
        | some e => s.sendStalls e.cls
        | none => false) then .held s
    else consume [(a, 0), (d, 3)] (fun s =>
      let addr := s.cur.getS a
      let len := min (s.cur.getS d).toNat 256
      if addr.toNat % 16 ≠ 0 then .trap (.plain 8 addr) s
      else match s.locateAll sp.toNat wantLoad (piecesOf addr len) with
        | (s, .error x) => .trap x s
        | (s, .ok places) =>
          let (s, data) := s.loadPieces places len
          let route := e.bind fun e => (s.torus s.cur.ctx e.dtorus).map fun p => (e, p)
          match route with
          | none => .done (s.discard (dieOf s.cur.core) s.cur.core (s.newMsg 0 0 0 0 (chanOf h l) len 0 0))
          | some (e, pkg) =>
            let core := if pkg = s.manifest.package then (s.corePhys e.dctx e.dlcore).getD 0xFFFF else 0xFFFF
            .done (s.stage (s.newMsg e.cls pkg core e.dctx e.dchan len data 0))) s

/-- RECV and RECVT. A core that R28 excludes for the thread's vl is taken as unavailable (DEDUCED, log entry 40). -/
def receive (i : Instr) (wait : Bool) (d a h : BitVec 5) (l : BitVec 7) (sp : BitVec 1) :
    State → Host.Outcome State Fault Refusal :=
  plainOp i (consume [(a, 0)] fun s =>
    let addr := s.cur.getS a
    let chan := chanOf h l
    let ctx := s.cur.ctx
    if addr.toNat % 16 ≠ 0 then .trap (.plain 8 addr) s
    else match s.channel ctx chan with
      | none => .done (s.putS d 0x400 [])
      | some e =>
        match s.available ctx e.dlcore with
        | none => .trap (.plain 0x0F (BitVec.ofNat 64 chan)) s
        | some core =>
          if core ≠ s.cur.core ∧ s.vlFits s.cur core = false then
            .trap (.plain 0x0F (BitVec.ofNat 64 chan)) s
          else if core ≠ s.cur.core then
            .held (s.startMigration { dest := core, src := s.cur.core, cause := 1, fwd := 0, sys := false,
                                      fixed := true, sched := false, injected := false })
          else match s.locateAll sp.toNat wantStore (piecesOf addr 256) with
            | (s, .error x) => .trap x s
            | (s, .ok buf) =>
              if 0 < (s.ring ctx chan).held then
                let (s, w) := s.takeMessage ctx chan core e buf
                .done (s.putS d w [])
              else if wait then
                let s := s.enterWait (.recv chan buf core d)
                .held { s with recvWaiters := s.recvWaiters ++ [s.cur.ref] }
              else .done (s.putS d 0x200 []))

/-- RECV. -/
def execRecv (d a h : BitVec 5) (l : BitVec 7) (sp : BitVec 1) : State → Host.Outcome State Fault Refusal :=
  receive (.recv d a h l sp) true d a h l sp

/-- RECVT. -/
def execRecvt (d a h : BitVec 5) (l : BitVec 7) (sp : BitVec 1) : State → Host.Outcome State Fault Refusal :=
  receive (.recvt d a h l sp) false d a h l sp

/-- Whether an address is in a token window, locally or through the fabric (R393, R394). -/
def tokenWindow (pa : Nat) : Bool :=
  let o := pa % 2 ^ 42
  (decide (pa < 2 ^ 42) || decide (2 ^ 56 ≤ pa)) && decide (0x020000000000 ≤ o) && decide (o < 0x020002000000) &&
    decide (o % 0x1000000 < 0x10000)

/-- The token window that B translates into, if it does (R393). -/
def State.tokenPlace (s : State) (b : Word) : State × Option Nat :=
  if b.toNat % 64 ≠ 0 then (s, none)
  else match s.translate s.cur.core s.cur.ctx b.toNat false true with
    | (s, .error _) => (s, none)
    | (s, .ok e) =>
      let pa := s.canon (e.pbase + (b.toNat - e.vbase))
      (s, if tokenWindow pa then some pa else none)

/-- TOKW. -/
def execTokw (a b : BitVec 5) (sp : BitVec 1) : State → Host.Outcome State Fault Refusal :=
  plainOp (.tokw a b sp) fun s =>
    if s.sendStalls 3 then .held s
    else consume [(a, 0), (b, 1)] (fun s =>
      match s.readBlock sp.toNat (s.cur.getS a) with
      | (s, .error x) => .trap x s
      | (s, .ok data) =>
        match s.tokenPlace (s.cur.getS b) with
        | (s, none) => .trap (.plain 0x0B (s.cur.getS b)) s
        | (s, some pa) =>
          let pkg := if 2 ^ 56 ≤ pa then bits pa 42 14 else s.manifest.package
          .done (s.stage (s.newMsg 3 pkg (pa % 2 ^ 42 / 0x1000000 % 2) 0 0 64 data pa))) s

end Sys2Proof.Machine
end

