-- ==== Sys2Proof/Machine/Launch.lean ====
section
/-!
DEFINITION. Launches, tokens, END, BAR and domains (major 0x2C, R32-R45, R56-R59, R359-R362, R393-R400,
R412-R416).
-/

namespace Sys2Proof.Machine

/-! ### Parameters (R32, R34, R396) -/

/-- A translation that the launch unit makes for a context, from the page tables as they stand (R34). -/
def State.unitTranslate (s : State) (ctx va : Nat) (r w : Bool) : Option Place :=
  if canonicalVa va = false then none
  else match s.walk ctx va walkLevels (tfield (s.descr ctx) 0x10 8) with
    | .error _ => none
    | .ok e =>
      if (!r || e.read) && (!w || e.write) then
        some { pa := s.canon (e.pbase + (va - e.vbase)), attr := e.attr }
      else none

/-- R34: the physical address of a usable completion word. -/
def State.completionPlace (s : State) (ctx : Nat) (va : Word) : Option Nat :=
  if va.toNat % 8 ≠ 0 then none
  else match s.unitTranslate ctx va.toNat true true with
    | some p => if p.attr = 0 ∧ s.region p.pa ≠ .nowhere then some p.pa else none
    | none => none

/-- The next launch number of a context (R25). -/
def State.takeNumber (s : State) (ctx : Nat) : State × BitVec 32 :=
  let c := s.ctxSt ctx
  (s.setCtx ctx { c with nextLaunch := c.nextLaunch + 1 }, c.nextLaunch)

/-- The launch of a 64-byte block (R396). -/
def launchOfBlock (ctx : Nat) (num : BitVec 32) (comp blk : Nat) : Launch :=
  { ctx := ctx, num := num, n := bits blk 64 32, l := bits blk 96 8,
    widths := (List.range 4).map fun k => bits blk (128 + 16 * k) 16 + 1,
    entry := BitVec.ofNat 64 (bits blk 0 64), arg := BitVec.ofNat 64 (bits blk 192 64),
    compVa := BitVec.ofNat 64 (bits blk 256 64), comp := comp, save := BitVec.ofNat 64 (bits blk 320 64),
    placeSet := BitVec.ofNat 16 (bits blk 112 16), placement := 0 }

/-- R33: a rejected launch has DONE and its ERR in the completion word. -/
def State.reject (s : State) (l : Launch) (err : Nat) : State :=
  s.storeAt 12 { pa := l.comp, attr := 0 } 8 (2 ^ 63 + err * 2 ^ 40)

/-- A launch enters the queue of a unit. -/
def State.enqueueLaunch (s : State) (u : Nat) (l : Launch) (src : Source) : State :=
  let x := s.unit u
  s.setUnit u { x with queue := x.queue ++
    [{ launch := l, source := src, started := false, inserted := 0, cores := [], tpc := 1 }] }

/-- Whether a launch unit takes no launch now: its queue is full, or its C-die has fenced (R361, R481). -/
def LaunchUnit.full (x : LaunchUnit) : Bool := decide (32 ≤ x.queue.length) || x.fenced

/-- R396: the launch unit that a UNIT byte names for a die; none for a value outside its limits. -/
def unitOf (die code : Nat) : Option Nat :=
  let ring (a b : Nat) : Nat := min ((a + 12 - b) % 12) ((b + 12 - a) % 12)
  if code = 0 ∨ code = 1 then some code
  else if code = 0xFF then some (if ring die 11 < ring die 5 then 1 else 0)
  else none

/-- R397: acceptance of a block for a context: the launch number, and the completion word's check. The
second result is S[d]. -/
def State.acceptLaunch (s : State) (u : Option Nat) (ctx blk : Nat) (src : Source) : State × Word :=
  let (s, num) := s.takeNumber ctx
  match s.completionPlace ctx (BitVec.ofNat 64 (bits blk 256 64)) with
  | none => (s, BitVec.ofNat 64 (2 ^ 63 + 5 * 2 ^ 40 + num.toNat))
  | some comp =>
    let l := launchOfBlock ctx num comp blk
    match u with
    | none => (s.reject l 1, num.setWidth 64)
    | some u => (s.enqueueLaunch u l src, num.setWidth 64)

/-- LAUNCH. -/
def execLaunch (d a : BitVec 5) (sp : BitVec 1) : State → Host.Outcome State Fault Refusal :=
  plainOp (.launch d a sp) (consume [(a, 0)] fun s =>
    match s.readBlock sp.toNat (s.cur.getS a) with
    | (s, .error x) => .trap x s
    | (s, .ok blk) =>
      let u := unitOf (dieOf s.cur.core) (bits blk 104 8)
      if (match u with
          | some u => (s.unit u).full
          | none => false) then .held s
      else
        let (s, v) := s.acceptLaunch u s.cur.ctx blk .thread
        .done (s.putS d v []))

/-- COMMAND_PROCESSOR_LAUNCH: the same for a context that a command names (R32, R34). -/
def execCommandProcessorLaunch (u ctx : Nat) (block : BitVec 512) (s : State) :
    Host.Outcome State Fault Refusal :=
  if (s.unit u).full ∨ tvalid (s.descr ctx) = false then .next s
  else
    let (s, v) := s.acceptLaunch (some u) ctx block.toNat .command
    let x := s.unit u
    .next (s.setUnit u { x with cmdStatus := if v.getLsbD 63 then 5 else 0 })

/-! ### Tokens (R359, R360, R393, R412) -/

/-- WORK_TOKEN: a write into a token window, whole or not. -/
def execWorkToken (u : Nat) (src : BitVec 16) (whole : Bool) (tok : BitVec 512) (s : State) :
    Host.Outcome State Fault Refusal :=
  let t : Token := { tok := tok, time := BitVec.ofNat 64 s.dtime, src := src, whole := whole }
  if whole then .next (s.offerToken u t).1 else .next (s.killToken u t 4 0 0)

/-- Whether a context is being saved or is saved (R263). -/
def State.inactive (s : State) (ctx : Nat) : Bool := s.savingCtx ctx || (s.ctxSt ctx).isSaved

/-- TOKEN_DISPATCH: the token at the head of a unit's queue starts a launch or becomes dead (R359-R361, R393). Its
handler entry is read once; a token that then finds the launch queue full stays with what was read (R423). -/
def execTokenDispatch (u : Nat) (s : State) : Host.Outcome State Fault Refusal :=
  let x := s.unit u
  match x.tokens with
  | [] => .next s
  | t :: rest =>
    let f (lo n : Nat) : Nat := bits t.tok.toNat lo n
    let ctx := f 12 12
    let w := x.entry.getD (s.table 4 ctx (f 0 12) 0)
    let known := f 24 8 == 0 && tvalid (s.descr ctx)
    let gen := tfield w 2 2
    let pop (s : State) : State :=
      (s.setUnit u { s.unit u with tokens := rest, entry := none }).serveRefused u 1
    if known && s.inactive ctx then .next ((pop s).killToken u t 2 0 gen)
    else if (known && tvalid w) = false then .next ((pop s).killToken u t 1 0 gen)
    else if x.full then .next (s.setUnit u { x with entry := some w })
    else
      let s := pop s
      let (s, num) := s.takeNumber ctx
      let pick (lo off : Nat) : Nat := if f lo 64 = 0 then tfield w off 8 else f lo 64
      let l : Launch :=
        { ctx := ctx, num := num, n := if f 32 32 = 0 then tfield w 8 3 + 1 else f 32 32, l := 0, widths := [],
          entry := 0, arg := BitVec.ofNat 64 (pick 64 0x10), compVa := BitVec.ofNat 64 (pick 128 0x18),
          comp := 0, save := 0, placeSet := BitVec.ofNat 16 (tfield w 6 2), placement := 0 }
      .next (s.enqueueLaunch u l (.token t gen (tfield w 4 1)))

/-- DEAD_TOKEN_RECORD_READ: a read of the record window removes and latches the oldest record (R360). -/
def execDeadTokenRecordRead (u : Nat) (s : State) : Host.Outcome State Fault Refusal :=
  .next (s.devRead (0x020000000000 + u % 2 * 0x1000000 + 0x10100) 8).1

/-! ### Performing a launch (R33, R362) -/

/-- P(k) of R36. -/
def levelWidth (l : Launch) (k : Nat) : Nat := (l.widths.take (k + 1)).foldl (· * ·) 1

/-- R33: ERR 1, a parameter outside its limits. -/
def State.badParameter (s : State) (l : Launch) : Bool :=
  l.n == 0 || decide (2 ^ 24 < l.n) || decide (4 < l.l) || l.entry.toNat % 4 != 0 ||
    decide (tfield (s.descr l.ctx) 4 4 * 0x10000 ≤ l.entry.toNat) || l.arg.toNat % 64 != 0 ||
    l.save.toNat % 0x10000 != 0 || l.placeSet == 0 ||
    (List.range l.l).any fun k => decide (32768 < (l.n + levelWidth l k - 1) / levelWidth l k)

/-- R33: ERR 4, a page of the save region that is not writable. -/
def State.saveUnmapped (s : State) (l : Launch) : Bool :=
  (List.range (2 * l.n)).any fun k =>
    (s.unitTranslate l.ctx (l.save + BitVec.ofNat 64 (0x10000 * k)).toNat false true).isNone

/-- R414: the lowest valid kernel slot with an entry point. -/
def State.kernelSlot (s : State) (ctx entry : Nat) : Option Nat :=
  (List.range 256).find? fun k =>
    let w := s.table 7 ctx k 0
    tvalid w && tfield w 4 4 == entry

/-- A placement as a launch uses it: the cores of its logical cores, its threads per core, partition,
stash code and heat bytes. -/
structure Placed where
  number : Nat
  cores : List Nat
  tpc : Nat
  harts : Nat
  stash : BitVec 2
  heat : List Nat

/-- R28, R362: whether a V-core has or can take a partition. -/
def State.partitionOk (s : State) (core harts : Nat) (stash : BitVec 2) : Bool :=
  let c := s.core core
  (c.harts == harts && c.stash == stash) || (s.queue core).isEmpty

/-- R362 step 1: placement n of a kernel slot, if it is eligible for N threads. -/
def State.placement (s : State) (ctx slot n count : Nat) : Option Placed :=
  let w := s.table 8 ctx (slot * 16 + n) 0
  let heat (b : Nat) : Nat := tfield (s.table 8 ctx (slot * 16 + n) (1 + b / 32)) (b % 32) 1
  let tpc := max 1 (tfield w 6 1)
  let c := (count + tpc - 1) / tpc
  let harts := tfield w 1 1
  let stash : BitVec 2 := BitVec.ofNat 2 (tfield w 7 1)
  let cores := (List.range c).map fun k => s.available ctx (tfield w 4 2 + k)
  let ok (p : Option Nat) : Bool := match p with
    | none => false
    | some core => harts == 0 || (s.cls core == some .v && s.partitionOk core harts stash)
  if tvalid w ∧ cores.all ok then
    some { number := n, cores := cores.filterMap id, tpc := tpc, harts := harts, stash := stash,
           heat := (List.range c).map fun k => heat (64 * k / c) }
  else none

/-- R362 steps 2 to 4: the overlap of predicted and measured heat, for a product; `meas` is the power manager's measure
of a cluster. -/
def Placed.overlap (p : Placed) (b : Blend) (meas : Nat × Nat → Nat) : Nat :=
  let clusters := (p.cores.map (clusterOf b)).eraseDups
  clusters.foldl (fun o q =>
    let pred := (p.cores.zip p.heat).foldl (fun h e => if clusterOf b e.1 = q then h + e.2 else h) 0
    o + min 255 pred * meas q) 0

/-- R362 step 5: the key by which placements are compared. -/
def Placed.key (p : Placed) (b : Blend) (meas : Nat × Nat → Nat) : Nat :=
  p.overlap b meas * 2 ^ 16 + (p.cores.map dieOf).eraseDups.length * 2 ^ 8 + p.number

/-- R362: the placement chosen from a set. -/
def State.choosePlacement (s : State) (l : Launch) (slot : Nat) : Option Placed :=
  let key (p : Placed) : Nat := p.key s.blend s.heat
  let ps := (List.range 16).filterMap fun n =>
    if l.placeSet.getLsbD n then s.placement l.ctx slot n l.n else none
  ps.foldl (fun b p => match b with
    | none => some p
    | some q => if key p < key q then some p else some q) none

/-- R36: the domain records of a launch. -/
def Launch.domainRecords (l : Launch) : List Domain :=
  (List.range l.l).flatMap fun k =>
    let p := levelWidth l k
    (List.range ((l.n + p - 1) / p)).map fun j =>
      { ctx := l.ctx, launch := l.num, level := k, num := j, phase := 0, arrivals := 0,
        expected := min p (l.n - j * p) }

/-- The head launch of a unit ends without creating a thread. A token becomes dead (R34, R360). -/
def State.dropLaunch (s : State) (u : Nat) (r : LaunchReq) (err : Nat) : State :=
  let x := s.unit u
  let s := s.setUnit u { x with queue := x.queue.tail }
  match r.source with
  | .token t gen _ => s.killToken u t 3 err gen
  | _ => s

/-- The kernel slot's part of a token's launch (R412, R414), or an ERR. -/
def State.tokenLaunch (s : State) (l : Launch) (slot : Nat) : Except Nat Launch :=
  let w := s.table 7 l.ctx slot 0
  if tvalid w = false then .error 2
  else if tfield w 0x10 3 + 1 < l.n then .error 1
  else .ok { l with entry := BitVec.ofNat 64 (tfield w 4 4), l := tfield w 1 1,
                    widths := (List.range 4).map fun k => tfield w (8 + 2 * k) 2 + 1,
                    save := BitVec.ofNat 64 (tfield w 0x18 8) }

/-- Steps 2 and 3 of R33: the placement of a launch, or an ERR. -/
def State.plan (s : State) (l : Launch) (slot : Option Nat) : Except Nat (Launch × Placed) :=
  if s.badParameter l then .error 1
  else if s.saveUnmapped l then .error 4
  else match slot with
    | none => .error 2
    | some k => match s.choosePlacement l k with
      | none => .error 2
      | some p => .ok ({ l with placement := p.number }, p)

/-- R28: set the partition and stash size of the V-cores of a placement. -/
def State.partitionCores (s : State) (p : Placed) : State :=
  if p.harts = 0 then s
  else p.cores.foldl (fun s core => s.setCore core { s.core core with harts := p.harts, stash := p.stash }) s

/-- R299: every core's instruction-cache lines of a context are invalidated. -/
def State.invalidateCode (s : State) (ctx : Nat) : State :=
  { s with cores := s.cores.map fun e => (e.1, { e.2 with icache := e.2.icache.filter (·.ctx != ctx) }) }

/-- LAUNCH_PERFORM: steps 1 to 3 of R33 for the head launch of a unit. -/
def execLaunchPerform (u : Nat) (s : State) : Host.Outcome State Fault Refusal :=
  match (s.unit u).queue with
  | [] => .next s
  | r :: rest =>
    if r.started ∨ s.inactive r.launch.ctx then .next s
    else
      let comp := match r.source with
        | .token _ _ _ => s.completionPlace r.launch.ctx r.launch.compVa
        | _ => some r.launch.comp
      match comp with
      | none => .next (s.dropLaunch u r 5)
      | some pa =>
        let l := { r.launch with comp := pa }
        let s := s.storeAt 12 { pa := pa, attr := 0 } 8 0
        let full := match r.source with
          | .token _ _ k => s.tokenLaunch l k
          | _ => .ok l
        match full with
        | .error e => .next ((s.reject l e).dropLaunch u r e)
        | .ok l =>
          let slot := match r.source with
            | .token _ _ k => some k
            | _ => s.kernelSlot l.ctx l.entry.toNat
          match s.plan l slot with
          | .error e => .next ((s.reject l e).dropLaunch u r e)
          | .ok (l, p) =>
            let s := (s.partitionCores p).invalidateCode l.ctx
            let r := { r with launch := l, started := true, cores := p.cores, tpc := p.tpc }
            let s := s.setUnit u { s.unit u with queue := r :: rest }
            .next { s with launches := s.launches ++ [l], domains := s.domains ++ l.domainRecords }

/-- An identifier that no living thread of a context has (R25). -/
def State.freeTid (s : State) (ctx tid : Nat) : Nat → Nat
  | 0 => tid
  | n + 1 => if (s.find { ctx := ctx, tid := tid }).isSome then s.freeTid ctx ((tid + 1) % 2 ^ 32) n else tid

/-- Thread i of a launch on a core that holds the contents of vector registers or not (R35, R36, R109). -/
def Launch.thread (l : Launch) (tid i core : Nat) (holds : Bool) : Thread :=
  let dom (k : Nat) : BitVec 16 :=
    if k < l.l then BitVec.ofNat 16 (0x8000 + i / levelWidth l k) else 0
  let s1 := (Vector.replicate 32 (0 : Word)).set 1 (BitVec.ofNat 64 i)
  { Thread.null with
    ctx := l.ctx, tid := tid, launch := l.num, index := i, core := core, run := .ready, pc := l.entry
    s := ((s1.set 2 (BitVec.ofNat 64 l.n)).set 3 l.arg).set 4 (l.num.setWidth 64)
    dom := Vector.ofFn fun k => dom k.val
    v := Vector.replicate 32 { VReg.zero with resident := holds }
    saveArea := l.save + BitVec.ofNat 64 (0x20000 * i) }

/-- The core that a thread placed on a core goes to: that one, or the nearest of its class where it has
become unavailable since the placement was chosen (R260). -/
def State.homeFor (s : State) (ctx core : Nat) : Option Nat :=
  if s.serves ctx core then some core
  else (s.cls core).bind fun k => leastBy (coreKey s.blend core) (s.candidates ctx k)

/-- LAUNCH_QUEUE_INSERT: the next thread of the launch under way goes into its core's run queue, if
fewer than 56 entries are occupied and no packet waits (R33, R364, R367). -/
def execLaunchQueueInsert (u : Nat) (s : State) : Host.Outcome State Fault Refusal :=
  match (s.unit u).queue with
  | [] => .next s
  | r :: rest =>
    let l := r.launch
    match (r.cores[r.inserted / r.tpc]?).bind fun c => s.homeFor l.ctx c with
    | none => .next s
    | some core =>
      if r.started = false ∨ s.inactive l.ctx ∨ 56 ≤ (s.queue core).length ∨ (s.core core).arrivals ≠ [] ∨
          (s.core core).refusals ≠ [] then
        .next s
      else
        let c := s.ctxSt l.ctx
        let tid := s.freeTid l.ctx c.nextTid (s.threads.length + 1)
        let s := s.setCtx l.ctx { c with nextTid := (tid + 1) % 2 ^ 32 }
        let s := { s with threads := s.threads ++ [l.thread tid r.inserted core (s.cls core != some Cls.t)] }
        let s := s.enterReady { ctx := l.ctx, tid := tid } core
        let q := if r.inserted + 1 < l.n then { r with inserted := r.inserted + 1 } :: rest else rest
        .next (s.setUnit u { s.unit u with queue := q })

/-! ### END, BAR and DLEAVE (R40, R54, R56, R398-R400) -/

/-- END: once the thread's transfers have completed it retires. A store error not yet taken is fatal
(R251). -/
def execEndT : State → Host.Outcome State Fault Refusal :=
  plainOp .endT fun s =>
    if s.hasXfer s.cur.ref then .held s
    else if s.cur.storeErrors ≠ [] then .held s.fatal
    else .held ((s.count s.cur.core 0).finish false)

/-- R45: the core that a pending scheduler migration takes at BAR; a pending target without an eligible
core is cleared. -/
def State.barTarget (s : State) : State × Option Nat :=
  match s.cur.target with
  | none => (s, none)
  | some k =>
    if s.cur.st stNOSCHED ∨ s.cls s.cur.core = some .v then (s, none)
    else match s.chooseCore k false with
      | none => ({ s with cur := { s.cur with target := none } }, none)
      | some d => (s, some d)

/-- BAR at level k: the arrival is registered, or nothing where the thread is in no such domain; then a
scheduler migration, a yield or the wait follows. -/
def barAt (i : Instr) (k : Nat) : State → Host.Outcome State Fault Refusal :=
  plainOp i fun s =>
    let s := match s.cur.domAt k with
      | none => ({ s with cur := s.cur.finishWait none 0x2C }).count s.cur.core 0
      | some num =>
        let arrive (d : Domain) : Domain :=
          if d.is s.cur.ctx s.cur.launch k num then { d with arrivals := d.arrivals + 1 } else d
        let s := { s with domains := s.domains.map arrive, cur := { s.cur with wait := some (.bar k) } }
        s.closeIfFull s.cur.ctx s.cur.launch k num
    match s.barTarget with
    | (s, some d) =>
      .held (s.startMigration { dest := d, src := s.cur.core, cause := 2, fwd := 0, sys := false, fixed := false,
                                sched := true, injected := false })
    | (s, none) =>
      if s.cur.wait.isSome then .held (s.enterWait (.bar k))
      else if s.cur.st stYIELD then .held (s.yield)
      else .held s

/-- BAR 0. -/
def execBar0 : State → Host.Outcome State Fault Refusal := barAt .bar0 0

/-- BAR 1. -/
def execBar1 : State → Host.Outcome State Fault Refusal := barAt .bar1 1

/-- BAR 2. -/
def execBar2 : State → Host.Outcome State Fault Refusal := barAt .bar2 2

/-- BAR 3. -/
def execBar3 : State → Host.Outcome State Fault Refusal := barAt .bar3 3

/-- Leave the domains of a mask, from level k up (R400). -/
def State.leaveMask (s : State) (mask : BitVec 4) (k : Nat) : Nat → State
  | 0 => s
  | n + 1 =>
    if mask.getLsbD k ∧ (s.cur.domAt k).isSome then
      let s := s.leaveDomain k
      { s with cur := { s.cur with dom := s.cur.dom.setIfInBounds k 0 } }.leaveMask mask (k + 1) n
    else s.leaveMask mask (k + 1) n

/-- DLEAVE. -/
def execDleave (m : BitVec 4) : State → Host.Outcome State Fault Refusal :=
  plainOp (.dleave m) fun s => .done (s.leaveMask m 0 4)

end Sys2Proof.Machine
end

