-- ==== Sys2Proof/Machine/Traps.lean ====
section
/-!
DEFINITION. Trap return, convoy restart, MIGRATE, BRK, SYSC and the context instructions (major 0x2D,
R247-R278), the context image (R264-R267), quarantine migrations (R31, R44, R409), and the events of
threads: binding, yields, pre-emption, windows and arrivals (R30, R44-R55, R261-R263, R364-R369).
-/

namespace Sys2Proof.Machine

/-! ### TRET, VRESUME, MIGRATE, BRK, SYSC (R268-R275) -/

/-- Write VALID := 0 into the convoy record of the save block (R269, R273). -/
def State.clearConvoy (s : State) : State × Bool :=
  if s.cur.convoy.valid then
    match s.saveRead 0x0C0 1 with
    | (s, none) => (s, false)
    | (s, some w) =>
      let s := { s with cur := { s.cur with convoy := { s.cur.convoy with valid := false } } }
      s.saveWrite 0x0C0 1 (w / 2 * 2)
  else (s, true)

/-- A return instruction completes with the thread as it now is. -/
def State.returned (s : State) (f : Thread → Thread) : Res :=
  .held ({ s with cur := f (s.cur.retire 0x2D) }.count s.cur.core 0)

/-- TRET. -/
def execTret : State → Host.Outcome State Fault Refusal :=
  plainOp .tret fun s =>
    if s.cur.st stINTRAP = false then .trap (illegal (encode .tret) 0) s
    else match s.clearConvoy with
      | (s, false) => .held s.fatal
      | (s, true) => s.returned Thread.trapReturn

/-- The record of the save block, when the thread has one (R255). -/
def State.readConvoy (s : State) : State × Option Convoy :=
  if s.cur.convoy.valid then
    match s.saveRead 0x0C0 8 with
    | (s, some n) => (s, some (.ofNat n))
    | (s, none) => (s, none)
  else (s, some s.cur.convoy)

/-- R273: the thread goes on with the entries of a record. -/
def Thread.resumeConvoy (c : Convoy) (t : Thread) : Thread :=
  let t := ((t.setSt stINTRAP false).setSt stSYS false).setSt stPP false
  t.nextEntry { rest := c.entries, resume := c.resume, vl := t.vl }

/-- VRESUME. -/
def execVresume : State → Host.Outcome State Fault Refusal :=
  plainOp .vresume fun s =>
    if s.cur.st stINTRAP = false then .trap (illegal (encode .vresume) 0) s
    else match s.readConvoy with
      | (s, none) => .held s.fatal
      | (s, some c) =>
        match s.clearConvoy with
        | (s, false) => .held s.fatal
        | (s, true) => s.returned (if c.valid then Thread.resumeConvoy c else Thread.trapReturn)

/-- MIGRATE. At its own core it is a safe point (R54, R275). An owner that R28 excludes for the thread's vl is taken as
unavailable (DEDUCED, log entry 40). -/
def execMigrate (a : BitVec 5) : State → Host.Outcome State Fault Refusal :=
  plainOp (.migrate a) (consume [(a, 0)] fun s =>
    let addr := s.cur.getS a
    match s.touch { elem := 0, space := 0, addr := addr, size := 1, write := false, aperture := false } with
    | (s, .error (c, v)) => .trap (.plain c v) s
    | (s, .ok p) =>
      match s.region p.pa with
      | .scratch owner _ =>
        if s.serves s.cur.ctx owner = false ∨ (owner ≠ s.cur.core ∧ s.vlFits s.cur owner = false) then
          .trap (.plain 0x0F addr) s
        else
          let next := { s with cur := s.cur.advance 0x2D (s.cur.pc + 4) }.count s.cur.core 0
          if owner = s.cur.core then (if s.cur.st stYIELD then .held next.yield else .held next)
          else .held (next.startMigration
            { dest := owner, src := s.cur.core, cause := 1, fwd := 0, sys := false, fixed := true, sched := false,
              injected := false })
      | _ => .trap (.plain 0x0F addr) s)

/-- BRK. -/
def execBrk : State → Host.Outcome State Fault Refusal :=
  plainOp .brk fun s => .trap (.plain 0x0D ((encode .brk).setWidth 64)) s

/-- SYSC. -/
def execSysc (a : BitVec 5) : State → Host.Outcome State Fault Refusal :=
  plainOp (.sysc a) (consume [(a, 0)] fun s => .trap (.plain 0x0E (s.cur.getS a)) s)

/-! ### The context image (R264, R265) -/

/-- Fields of given sizes in bytes, the first lowest, as one number. -/
def packBytes : List (Nat × Nat) → Nat
  | [] => 0
  | (v, n) :: rest => v % 2 ^ (8 * n) + 2 ^ (8 * n) * packBytes rest

/-- The threads of a context that are not DONE. -/
def State.members (s : State) (ctx : Nat) : List Thread := s.all.filter (·.ctx == ctx)

/-- The launches of a context with a thread not DONE. -/
def State.liveLaunches (s : State) (ctx : Nat) : List Launch :=
  s.launches.filter fun l => l.ctx == ctx && (s.members ctx).any (·.launch == l.num)

/-- The domains of a context with a member not DONE. -/
def State.liveDomains (s : State) (ctx : Nat) : List Domain :=
  s.domains.filter fun d => d.ctx == ctx &&
    (s.members ctx).any fun t => t.launch == d.launch && t.domAt d.level == some d.num

/-- The place of a launch number among the launch records. -/
def launchIndex (ls : List Launch) (num : BitVec 32) : Nat := ls.findIdx (·.num == num)

/-- The physical cores of a context's valid core entries, each with its lowest logical core. -/
def State.recordCores (s : State) (ctx : Nat) : List (Nat × Nat) :=
  let l := ((s.coreEntries ctx).map fun e => (e.1, tfield e.2 4 2)).mergeSort fun a b => decide (a.1 ≤ b.1)
  l.foldl (fun out e => if out.any (·.2 == e.2) then out else out ++ [e]) []

/-- Bytes of the scratchpad of a core. -/
def State.scratchBytes (s : State) (core : Nat) : Nat :=
  match s.cls core with
  | some k => Config.scratchSize k
  | none => 0

/-- The 64-byte launch record. -/
def Launch.rec64 (l : Launch) : Nat :=
  packBytes ([(l.num.toNat, 4), (l.n, 4), (l.l, 1), (0, 3)] ++
    ((List.range 4).map fun k => (if k < l.l then l.widths[k]?.getD 1 - 1 else 0, 2)) ++
    [(l.entry.toNat, 8), (l.arg.toNat, 8), (l.compVa.toNat, 8), (l.save.toNat, 8), (l.placement, 1)])

/-- The 16-byte domain record. -/
def Domain.rec16 (ls : List Launch) (d : Domain) : Nat :=
  packBytes [(launchIndex ls d.launch, 2), (d.level, 1), (0, 1), (d.num, 2), (0, 2), (d.phase.toNat, 4),
    (d.arrivals, 2), (d.expected, 2)]

/-- Bytes 8 to 287 of the migration packet of a thread (R47). -/
def Thread.packet (t : Thread) : Nat :=
  packBytes ([(t.tid, 4), (t.tstat.toNat, 4), (t.pc.toNat, 8), (t.pw.toNat, 1), (t.poison.toNat / 2 * 2, 4),
    (t.scbusy.toNat, 1), (0, 2)] ++ (t.s.toList.drop 1).map (fun w => (w.toNat, 8)) ++
    t.dom.toList.map fun w => (w.toNat, 2))

/-- The kind, operand and value of a wait in a thread record. -/
def waitFields : Option Wait → Nat × Nat × Nat
  | none => (0, 0, 0)
  | some (.waita va _ _ _ cmp _ _) => (1, va.toNat, cmp.toNat)
  | some (.recv chan _ _ _) => (2, chan, 0)
  | some (.bar level) => (3, level, 0)
  | some (.fullEmpty va _ _ _ _ _ _) => (4, va.toNat, 0)
  | some (.stream j target) => (5, j.toNat, target.toNat)

/-- The state code of a thread record. -/
def stateCode : Option RunState → Nat
  | some .run => 1
  | some .waitb => 2
  | some .waitu => 3
  | _ => 0

/-- The 512-byte thread record. -/
def Thread.rec512 (ls : List Launch) (lcore : Nat) (t : Thread) : Nat :=
  let w := waitFields t.wait
  packBytes [(launchIndex ls t.launch, 2), (t.core, 2), (stateCode t.before, 1),
    ((if t.st stVSM then 1 else 0) + (if t.st stMSM then 2 else 0), 1), (lcore, 2), (t.packet, 280),
    (w.1, 1), (0, 7), (w.2.1, 8), (w.2.2, 8), (t.saveArea.toNat, 8)]

/-- The full-empty bits of n granules from a granule on. -/
def State.fullBits (s : State) (g : Nat) : Nat → Nat
  | 0 => 0
  | n + 1 => (if s.full.contains g then 1 else 0) + 2 * s.fullBits (g + 1) n

/-- A scratchpad record as a field: its value and length. -/
def State.scratchRecord (s : State) (e : Nat × Nat) : Nat × Nat :=
  let n := s.scratchBytes e.2
  (packBytes [(e.2, 2), (e.1, 2), (0, 4), (readNat s.mem (windowBase e.2) n, n),
    (s.fullBits (windowBase e.2 / 16) (n / 16), n / 128)], 8 + n + n / 128)

/-- LIVE of R264. -/
def State.liveBits (s : State) (ctx : Nat) : Nat :=
  let ts := s.members ctx
  let bit (k : Nat) (b : Bool) : Nat := if b then 2 ^ k else 0
  let granules := (s.recordCores ctx).any fun e =>
    s.full.any fun g => decide (windowBase e.2 / 16 ≤ g) && decide (g < (windowBase e.2 + s.scratchBytes e.2) / 16)
  bit 0 (ts.any fun t => t.v.toList.any (fun x => x.tag != 0) || (t.m.toList.drop 1).any (· != 0)) +
    bit 1 (ts.any (·.st stMSM)) + bit 2 (ts.any (·.convoy.valid)) +
    bit 3 (s.cores.any fun e => e.2.stashMaps.any (·.ctx == ctx)) +
    bit 4 (ts.any fun t => t.v.toList.any fun x => tagBlock x.tag) + bit 5 granules + bit 6 (ts.any (·.st stUIP))

/-- The records of an image, in order, as fields. -/
def State.imageRecords (s : State) (ctx : Nat) : List (Nat × Nat) :=
  let ls := s.liveLaunches ctx
  let cores := s.recordCores ctx
  let lcore (core : Nat) : Nat := ((cores.find? (·.2 == core)).map (·.1)).getD 0
  ls.map (fun l => (l.rec64, 64)) ++ (s.liveDomains ctx).map (fun d => (d.rec16 ls, 16)) ++
    (s.members ctx).map (fun t => (t.rec512 ls (lcore t.core), 512)) ++ cores.map s.scratchRecord

/-- The whole image of a context and its length. -/
def State.image (s : State) (ctx : Nat) : Nat × Nat :=
  let recs := s.imageRecords ctx
  let len := 256 + (recs.map (·.2)).sum
  (packBytes ([(0x49585443, 8), (1, 4), (s.devrev.toNat, 4), (s.devfeat.toNat, 8), (s.liveBits ctx, 8), (ctx, 2),
    (0, 2), ((s.members ctx).length, 4), ((s.liveLaunches ctx).length, 4), ((s.liveDomains ctx).length, 4),
    ((s.recordCores ctx).length, 4), (0, 4), (len, 8), (s.dtime, 8), (0, 184)] ++ recs), len)

/-- R276: the length of the largest image that a context can produce. -/
def State.imageBound (s : State) (ctx : Nat) : Nat :=
  256 + 64 * (s.liveLaunches ctx).length + 16 * (s.domains.filter (·.ctx == ctx)).length +
    512 * (s.members ctx).length +
    ((s.recordCores ctx).map fun e => 8 + s.scratchBytes e.2 + s.scratchBytes e.2 / 128).sum

/-- The place of an image byte: physical for the command processor, else through a context. -/
def State.imagePlace (s : State) (via : Option Nat) (addr : Nat) (w : Bool) : Option Place :=
  match via with
  | none => if s.region addr = .nowhere then none else some { pa := addr, attr := 0 }
  | some c => s.unitTranslate c (addr % 2 ^ 64) (!w) w

/-- Whether every 256-byte piece of an image's place is reachable. -/
def State.imageMapped (s : State) (via : Option Nat) (base len : Nat) (w : Bool) : Bool :=
  (List.range ((len + 255) / 256)).all fun k =>
    match s.imagePlace via (base + 256 * k) w with
    | some p => w || !s.badRange p.pa 256
    | none => false

/-- Write pieces of an image from piece k on. -/
def State.imageWrite (s : State) (via : Option Nat) (base : Nat) (k v : Nat) : Nat → State × Bool
  | 0 => (s, true)
  | n + 1 =>
    match s.imagePlace via (base + 256 * k) true with
    | none => (s, false)
    | some p => (s.storeAt 12 p 256 (v % 2 ^ 2048)).imageWrite via base (k + 1) (v / 2 ^ 2048) n

/-- Read pieces of an image. -/
def State.imageRead (s : State) (via : Option Nat) (base : Nat) : Nat → State × Nat
  | 0 => (s, 0)
  | n + 1 =>
    match s.imagePlace via base false with
    | none => (s, 0)
    | some p =>
      let (s, v) := s.loadAt 12 p 256
      let (s, w) := s.imageRead via (base + 256) n
      (s, v + 2 ^ 2048 * w)

/-! ### Pre-emption of a context (R261-R263, R276) -/

/-- Act on threads one after another. -/
def State.onThreads (s : State) (f : State → State) : List TRef → State
  | [] => s
  | r :: rest => (s.onThread r f).onThreads f rest

/-- R261: what a request does to one thread: PREQ, and a save at once where it is not in RUN or TRANSIT. A thread that
a restore has put back and that no holder has bound yet is saved as it was saved before. -/
def State.askSave (s : State) : State :=
  let s := { s with cur := s.cur.setSt stPREQ true }
  match s.cur.run with
  | .ready | .waitb | .waitu => s.saveThread
  | .saved =>
    if s.engineBusy then s
    else if s.cur.restoredRun then { s with cur := { s.cur with run := .run } }.saveThread
    else { (s.leaveArrivals s.cur.ref s.cur.core) with cur := { s.cur with run := .run } }.saveThread
  | _ => s

/-- R261: whether a thread of a context being saved can be saved now. -/
def State.dueSave (s : State) (t : Thread) : Bool :=
  t.st stPREQ && s.savingCtx t.ctx && (s.core t.core).xfer.isNone &&
    (t.run == .ready || t.run == .waitb || t.run == .waitu || t.run == .saved)

/-- Save the first thread that is due. -/
def State.saveDue (s : State) : State :=
  match s.all.find? s.dueSave with
  | some t => s.onThread t.ref State.askSave
  | none => s

/-- The pre-emption request of R261. -/
def State.requestSave (s : State) (ctx us base : Nat) (via : Option Nat) : State :=
  let us := if us = 0 then s.pdefault.toNat else us
  let c := s.ctxSt ctx
  let s := s.setCtx ctx { c with saving := some { deadline := s.dtime + 1000 * us, base := base, via := via } }
  s.onThreads State.askSave ((s.members ctx).map (·.ref))

/-- Whether a context is active: it has threads not DONE and is not saved. -/
def State.active (s : State) (ctx : Nat) : Bool :=
  tvalid (s.descr ctx) && !(s.members ctx).isEmpty && !(s.ctxSt ctx).isSaved

/-- The checks of R276 after the first: a status, 0 where the request is made. -/
def State.saveCheck (s : State) (ctx base : Nat) (via : Option Nat) : Nat :=
  if s.active ctx = false then 3
  else if s.savingCtx ctx then 6
  else if base % 4096 ≠ 0 ∨ s.imageMapped via base (s.imageBound ctx) true = false then 5
  else 0

/-- Whether everything that R263 names has settled; a message on a link is neither delivered nor returned. -/
def State.settled (s : State) (ctx : Nat) : Bool :=
  (s.members ctx).all (fun t => t.run == .saved && !t.st stPREQ) &&
    s.links.frames.all (fun f => f.msg.all (·.sender.ctx != ctx)) &&
    s.cores.all fun e => (e.2.streamQ ++ e.2.xfer.toList).all (·.ref.ctx != ctx)

/-- R263, R280: the stash sectors of a context are written back and its mappings end. -/
def State.clearStashes (s : State) (ctx : Nat) : State :=
  let s := (s.cores.map (·.1)).foldl (fun s core => s.stashOut core (·.ctx == ctx)) s
  { s with cores := s.cores.map fun e =>
      (e.1, { e.2 with stashMaps := e.2.stashMaps.filter (·.ctx != ctx) }) }

/-- CONTEXT_IMAGE_COMPLETE: the image is written, its header last (R263, R276). -/
def execContextImageComplete (ctx : Nat) (s : State) : Host.Outcome State Fault Refusal :=
  match (s.ctxSt ctx).saving with
  | none => .next s
  | some sv =>
    if s.settled ctx = false then .next s
    else
      let (img, len) := s.image ctx
      let s := s.clearStashes ctx
      let pieces := (len + 255) / 256
      let (s, ok1) := s.imageWrite sv.via sv.base 1 (img / 2 ^ 2048) (pieces - 1)
      let (s, ok2) := if ok1 then s.imageWrite sv.via sv.base 0 img 1 else (s, false)
      .next (s.setCtx ctx { s.ctxSt ctx with saving := none, isSaved := true,
                                             saveStatus := if ok1 && ok2 then 0 else 5 })

/-- Poison, then privilege, for the context instructions (R250, R268). -/
def contextOp (i : Instr) (a b : BitVec 5) (body : State → Res) : State → Host.Outcome State Fault Refusal :=
  plainOp i (consume [(a, 0), (b, 1)] fun s =>
    if s.cur.st stSYS = false then .trap (privileged (encode i) 0) s else body s)

/-- CTXSAVE: the holder stays in RUN until the image is complete. -/
def execCtxsave (d a b : BitVec 5) : State → Host.Outcome State Fault Refusal :=
  contextOp (.ctxsave d a b) a b fun s =>
    let ctx := (s.cur.getS a).toNat % 4096
    match s.cur.stall with
    | some (.ctxsave _ c _) =>
      if s.savingCtx c then .held s
      else
        let s := { s with cur := { s.cur with stall := none } }
        .done (s.putS d (BitVec.ofNat 64 (s.ctxSt c).saveStatus) [])
    | _ =>
      if ctx = s.cur.ctx then .done (s.putS d 7 [])
      else match s.saveCheck ctx (s.cur.getS b).toNat (some s.cur.ctx) with
        | 0 =>
          let s := s.requestSave ctx (bits (s.cur.getS a).toNat 16 16) (s.cur.getS b).toNat (some s.cur.ctx)
          .held { s with cur := { s.cur with stall := some (.ctxsave d ctx (s.cur.getS b)) } }
        | st => .done (s.putS d (BitVec.ofNat 64 st) [])

/-- COMMAND_PROCESSOR_PREEMPT: the same request, with a physical image address (R261). -/
def execCommandProcessorPreempt (ctx deadline pa : Nat) (s : State) : Host.Outcome State Fault Refusal :=
  let st := s.saveCheck ctx pa none
  let s := { s with unit0 := { s.unit0 with cmdStatus := BitVec.ofNat 64 st } }
  .next (if st = 0 then s.requestSave ctx deadline pa none else s)

/-! ### Restore (R266, R267, R277) -/

/-- The word at an offset of a context's code arena. -/
def State.arenaWord (s : State) (ctx off : Nat) : BitVec 32 :=
  BitVec.ofNat 32 (readNat s.mem (s.canon (tfield (s.descr ctx) 8 8 + off)) 4)

/-- The place of an address of a space for a context and core. -/
def State.waitPlace (s : State) (ctx core : Nat) (loc : Bool) (va : Nat) : Place :=
  if loc then { pa := windowBase core + va, attr := 0 }
  else (s.unitTranslate ctx va false false).getD { pa := 0, attr := 0 }

/-- The wait of a thread record, rebuilt with the operands of the instruction at its PC. -/
def State.rebuildWait (s : State) (t : Thread) (kind operand value : Nat) : Option Wait :=
  let latch := if t.st stPP && !t.st stINTRAP then some t.pfxl else none
  if kind = 0 then none
  else match decode (s.arenaWord t.ctx t.pc.toNat) with
    | .ok (.waita d _ _ _ _ w p) =>
      let q := s.waitPlace t.ctx t.core (p == 1) operand
      some (.waita (BitVec.ofNat 64 operand) q.pa (q.attr == 1) (w == 1) (BitVec.ofNat 64 value) d (p == 1))
    | .ok (.recv d a _ _ sp) =>
      let buf := (piecesOf (t.getS a) 256).map fun x => s.waitPlace t.ctx t.core (sp == 1) x.1.toNat
      some (.recv operand buf t.core d)
    | .ok .bar0 | .ok .bar1 | .ok .bar2 | .ok .bar3 => some (.bar operand)
    | .ok (.ldFe d _ _ _ w p) =>
      let q := s.waitPlace t.ctx t.core (p == 1) operand
      some (.fullEmpty (BitVec.ofNat 64 operand) q.pa false (w == 1) (q.attr == 2) d latch)
    | .ok (.ldFc d _ _ _ w p) =>
      let q := s.waitPlace t.ctx t.core (p == 1) operand
      some (.fullEmpty (BitVec.ofNat 64 operand) q.pa true (w == 1) (q.attr == 2) d latch)
    | .ok (.strmw _ j) => some (.stream j (BitVec.ofNat 32 value))
    | _ => none

/-- The launch of a launch record; the completion word's physical address is the one kept, or is
translated anew. R34 and R266 do not say what END updates where a launch that the device no longer keeps
has a completion word that does not translate: physical address 0 (DESIGN CHOICE, log entry 28). -/
def State.launchOfRecord (s : State) (ctx r : Nat) : Launch :=
  let f (off n : Nat) : Nat := bits r (8 * off) (8 * n)
  let num : BitVec 32 := BitVec.ofNat 32 (f 0 4)
  let va : Word := BitVec.ofNat 64 (f 0x24 8)
  let comp := match s.launches.find? fun l => l.ctx == ctx && l.num == num with
    | some l => l.comp
    | none => (s.completionPlace ctx va).getD 0
  { ctx := ctx, num := num, n := f 4 4, l := f 8 1, widths := (List.range 4).map fun k => f (12 + 2 * k) 2 + 1,
    entry := BitVec.ofNat 64 (f 0x14 8), arg := BitVec.ofNat 64 (f 0x1C 8), compVa := va, comp := comp,
    save := BitVec.ofNat 64 (f 0x2C 8), placeSet := 0, placement := f 0x34 1 }

/-- The domain of a domain record. -/
def domainOfRecord (ctx : Nat) (ls : List Launch) (r : Nat) : Domain :=
  let f (off n : Nat) : Nat := bits r (8 * off) (8 * n)
  { ctx := ctx, launch := ((ls[f 0 2]?).map (·.num)).getD 0, level := f 2 1, num := f 4 2,
    phase := BitVec.ofNat 32 (f 8 4), arrivals := f 12 2, expected := f 14 2 }

/-- The thread of a thread record (R47, R265), to be placed on a core. What the device held beside the image comes from
the thread it saved: completions not yet taken, a store's error (R251), how far the images reach (R113), and a wait
served meanwhile. The window counts and the hold of R45, for which the image has no field, start at 0 (DESIGN CHOICE,
log entry 42). A vector register that R48 saves no contents of is zero after the restore (DESIGN CHOICE, log
entry 28). -/
def State.threadOfRecord (s : State) (ctx : Nat) (ls : List Launch) (core r : Nat) : Thread :=
  let f (off n : Nat) : Nat := bits r (8 * off) (8 * n)
  let l := ls[f 0 2]?
  let save := f 0x138 8
  let base := (l.map fun l => l.save.toNat).getD 0
  let old := s.find { ctx := ctx, tid := f 8 4 }
  let tstat : Word := BitVec.ofNat 64 (f 0x0C 4)
  let t : Thread :=
    { Thread.null with
      ctx := ctx, tid := f 8 4, launch := (l.map (·.num)).getD 0, index := (save - base) / 0x20000
      core := f 2 2, run := .saved
      tstat := putBit (putBit (tstat &&& 0x7FFFFFFF) stPREQ false) stVSM true
      pc := BitVec.ofNat 64 (f 0x10 8) &&& ~~~(3 : Word), pw := BitVec.ofNat 8 (f 0x18 1) ||| 1
      poison := BitVec.ofNat 32 (f 0x19 4) &&& 0xFFFFFFFE
      s := Vector.ofFn fun i => if i.val = 0 then 0 else BitVec.ofNat 64 (f (0x20 + 8 * (i.val - 1)) 8)
      dom := Vector.ofFn fun k => BitVec.ofNat 16 (f (0x118 + 2 * k.val) 2)
      saveArea := BitVec.ofNat 64 save }
  let t := { t with wait := s.rebuildWait t (f 0x120 1) (f 0x128 8) (f 0x130 8) }
  let t := { t with core := core }
  match old with
  | none => t
  | some o =>
    let t := { t with pending := o.pending, storeErrors := o.storeErrors
                      v := Vector.ofFn fun i => { t.v[i] with bound := o.v[i].bound } }
    if f 0x120 1 ≠ 0 ∧ o.wait.isNone then
      { t with wait := none, s := o.s, poison := o.poison, pc := o.pc, tstat := o.tstat }
    else if o.wait.isSome then { t with wait := o.wait } else t

/-- R367: a restored thread takes a run-queue entry of its core, or waits for one. -/
def State.place (s : State) (core : Nat) (wasRun : Bool) : State :=
  let c := s.core core
  let room := decide ((s.queue core).length < 64) && c.arrivals.isEmpty && c.refusals.isEmpty
  if wasRun then
    let s := (s.settle core).leaveReady s.cur.ref core
    if s.cur.run = .done then s
    else
      let s := { s with cur := { s.cur with run := .saved, before := some .run, restoredRun := room } }
      if room then s else s.waitArrival core
  else if room then s.settle core
  else
    let m : Mig := { dest := core, src := s.cur.core, cause := 0, fwd := 7, sys := false, fixed := true,
                     sched := false, injected := true }
    { s with cur := { s.cur with run := .transit, mig := some m } }.waitArrival core

/-- R30, R31: register the current thread's wait where it is held, unless it is registered. -/
def State.register (s : State) : State :=
  let r := s.cur.ref
  match s.cur.wait with
  | some (.recv ..) => if s.recvWaiters.contains r then s else { s with recvWaiters := s.recvWaiters ++ [r] }
  | some (.fullEmpty ..) => if s.feWaiters.contains r then s else { s with feWaiters := s.feWaiters ++ [r] }
  | some (.stream j target) => match s.scRead j.toNat with
    | (s, some w) => if countMet (scCount w) target.toNat then s.wake r none 0x2A else s
    | (s, none) => s.fatal
  | _ => s

/-- Restored threads replace those that the device kept for a context (R267 steps 2 to 4); each comes
with whether it was saved in RUN. -/
def State.restoreThreads (s : State) : List (Thread × Bool) → State
  | [] => s
  | (t, wasRun) :: rest =>
    let s := { s with threads := s.threads ++ [t] }
    (s.onThread t.ref fun s => s.register.place t.core wasRun).restoreThreads rest

/-- The threads that the device kept for a saved context are gone. -/
def State.dropThreads (s : State) (ctx : Nat) : State :=
  { s with cur := if s.cur.ctx = ctx then Thread.null else s.cur, threads := s.threads.filter (·.ctx != ctx) }

/-- The thread of a record as its save block gives it on a core, for the checks of R28. -/
def State.blockOf (s : State) (ctx r core : Nat) : Thread :=
  ({ s with cur := { Thread.null with ctx := ctx, core := core, saveArea := BitVec.ofNat 64 (bits r (8 * 0x138) 64) }
  }.loadBlock).1.cur

/-- The core for a thread record: that of its logical core, or one of its class chosen by R260. -/
def State.restoreCore (s : State) (ctx r : Nat) : Option Nat :=
  let phys := bits r 16 16
  let sys := (bits r (8 * 0x0C) 32).testBit stSYS
  let fits (p : Nat) : Bool := s.vlFits (s.blockOf ctx r p) p
  match s.cls phys with
  | none => none
  | some k =>
    let other := leastBy (coreKey s.blend phys)
      ((s.candidates ctx k).filter fun p => p != phys && fits p && !(sys && s.systemFull p))
    match s.available ctx (bits r 48 16) with
    | some p => if s.cls p = some k ∧ fits p then some p else other
    | none => other

/-- Set the full-empty bits of n granules from a mask. -/
def restoreBits (full : List Nat) (g v : Nat) : Nat → List Nat
  | 0 => full
  | n + 1 => restoreBits (if v.testBit 0 then insertNat full g else removeNat full g) (g + 1) (v / 2) n

/-- R267 step 1: the scratchpad records, from an offset of the image. -/
def State.restoreScratch (s : State) (ctx img : Nat) (off : Nat) : Nat → State
  | 0 => s
  | k + 1 =>
    let size := s.scratchBytes (bits img (8 * off) 16)
    let next := off + 8 + size + size / 128
    match s.corePhys ctx (bits img (8 * (off + 2)) 16) with
    | none => s.restoreScratch ctx img next k
    | some core =>
      let n := min size (s.scratchBytes core)
      let s := { s with mem := writeNat s.mem (windowBase core) n (bits img (8 * (off + 8)) (8 * n)),
                        full := restoreBits s.full (windowBase core / 16) (bits img (8 * (off + 8 + size)) (n / 16)) (n / 16) }
      (s.fireAt none (windowBase core) n).restoreScratch ctx img next k

/-- Restore an image into a context: the status word of R277. -/
def State.restore (s : State) (via : Option Nat) (ctx base : Nat) : State × Nat :=
  if base % 4096 ≠ 0 ∨ s.imageMapped via base 256 false = false then (s, 5)
  else
    let (s0, h) := s.imageRead via base 1
    let f (off n : Nat) : Nat := bits h (8 * off) (8 * n)
    let len := f 0x38 8
    let miss := f 0x18 8 &&& (2 ^ 64 - 1 - s.devfeat.toNat)
    if s.imageMapped via base (max 256 len) false = false then (s, 5)
    else if f 0 8 ≠ 0x49585443 ∨ f 8 4 ≠ 1 ∨ f 0x22 2 ≠ 0 ∨ f 0x34 4 ≠ 0 ∨ f 0x48 184 ≠ 0 ∨ f 0x20 2 ≠ ctx then (s, 1)
    else if miss ≠ 0 then (s, 2 + miss % 128 * 256)
    else if s.savingCtx ctx ∨ ((s.members ctx).isEmpty = false ∧ (s.ctxSt ctx).isSaved = false) then (s, 3)
    else
      let (s1, img) := s0.imageRead via base ((len + 255) / 256)
      let nt := f 0x24 4
      let nl := f 0x28 4
      let nd := f 0x2C 4
      let at' (off n : Nat) : Nat := bits img (8 * off) (8 * n)
      let thread (k : Nat) : Nat := at' (256 + 64 * nl + 16 * nd + 512 * k) 512
      let cores := (List.range nt).map fun k => s1.restoreCore ctx (thread k)
      if cores.any Option.isNone then (s, 4)
      else
        let s := s1.restoreScratch ctx img (256 + 64 * nl + 16 * nd + 512 * nt) (f 0x30 4)
        let ls := (List.range nl).map fun k => s.launchOfRecord ctx (at' (256 + 64 * k) 64)
        let ds := (List.range nd).map fun k => domainOfRecord ctx ls (at' (256 + 64 * nl + 16 * k) 16)
        let named (l : Launch) : Bool := ls.any fun m => m.ctx == l.ctx && m.num == l.num
        let kept (d : Domain) : Bool := !(ls.any fun m => m.ctx == d.ctx && m.num == d.launch)
        let s := { s with launches := s.launches.filter (fun l => !named l) ++ ls,
                          domains := s.domains.filter kept ++ ds }
        let s := s.setCtx ctx { s.ctxSt ctx with isSaved := false }
        let ts := (List.range nt).map fun k =>
          (s.threadOfRecord ctx ls ((cores[k]?.bind id).getD 0) (thread k), bits (thread k) 32 8 == 1)
        ((s.dropThreads ctx).restoreThreads ts, 0)

/-- CTXLOAD. -/
def execCtxload (d a b : BitVec 5) : State → Host.Outcome State Fault Refusal :=
  contextOp (.ctxload d a b) a b fun s =>
    let (s, st) := s.restore (some s.cur.ctx) ((s.cur.getS a).toNat % 4096) (s.cur.getS b).toNat
    .done (s.putS d (BitVec.ofNat 64 st) [])

/-- COMMAND_PROCESSOR_RESTORE. -/
def execCommandProcessorRestore (ctx pa : Nat) (s : State) : Host.Outcome State Fault Refusal :=
  let (s, st) := s.restore none ctx pa
  .next { s with unit0 := { s.unit0 with cmdStatus := BitVec.ofNat 64 st } }

/-! ### Migration and arrival (R30, R44, R46-R51, R367) -/

/-- MIGRATION_INJECT. -/
def execMigrationInject (c t : Nat) (s : State) : Host.Outcome State Fault Refusal :=
  .next (s.onThread { ctx := c, tid := t } State.inject)

/-- MIGRATION_ARRIVAL. -/
def execMigrationArrival (c t : Nat) (s : State) : Host.Outcome State Fault Refusal :=
  .next (s.onThread { ctx := c, tid := t } State.arrive)

/-- ARRIVAL_BUFFER_ADMIT. -/
def execArrivalBufferAdmit (core : Nat) (s : State) : Host.Outcome State Fault Refusal := .next (s.takeArrivals core)

/-- VECTOR_LAZY_LOAD: a register's contents come from the save area (R49); not while a transfer is
still to write it (R382). -/
def execVectorLazyLoad (c t : Nat) (v : BitVec 5) (s : State) : Host.Outcome State Fault Refusal :=
  .next (s.onThread { ctx := c, tid := t } fun s =>
    if s.cur.run = .transit ∨ s.cur.run = .saved ∨ (s.cur.getV v).tag = 0 ∨ s.streaming [v] then s
    else match s.loadV v with
      | (s, true) => s
      | (s, false) => s.fatal)

/-- The packets waiting in a core's arrival buffer, and those it refused, are forwarded (R51, R431); one with FWD = 7
waits for an entry there (R51). -/
def State.forwardArrivals (s : State) (core : Nat) : State :=
  let c := s.core core
  let stays (r : TRef) : Bool := ((s.find r).bind (·.mig)).any fun m => decide (7 ≤ m.fwd)
  let s := (s.setCore core { c with arrivals := c.arrivals.filter stays, refusals := c.refusals.filter stays }).refillArrivals
    core 16
  s.onThreads (fun s => match s.cur.mig with
    | some m => match s.forwardTo core m.sys with
      | some d =>
        let s := s.count core 4
        { s with cur := { s.cur with mig := some { m with src := core, dest := d, fwd := m.fwd + 1 } } }
      | none => s.fatal
    | none => match s.forwardTo core false with
      | some d => { s with cur := { s.cur with core := d } }.place d true
      | none => s.fatal) ((c.arrivals ++ c.refusals).filter (!stays ·))

/-- Step 4 of R431, for the threads of one context or of all. -/
def State.evacuate (s : State) (core : Nat) (ctx : Option Nat) : State :=
  let mine (t : Thread) : Bool := t.core == core && (ctx.isNone || ctx == some t.ctx) &&
    (t.run == .ready || t.run == .run || t.run == .waitb || t.run == .waitu || (t.run == .saved && t.restoredRun))
  let s := s.onThreads State.evacuateThread ((s.all.filter mine).map (·.ref))
  if ctx.isNone then s.forwardArrivals core else s

/-! ### Holders and the ready order (R30, R53, R54, R364-R369) -/

/-- The pre-emption deadline of a context in µs (R407). -/
def State.deadlineOf (s : State) (ctx : Nat) : Nat :=
  let d := tfield (s.descr ctx) 0x18 2
  if d = 0 then s.pdefault.toNat else d

/-- THREAD_BIND: a free holder of a core binds a thread restored from RUN, or the head of the ready
order (R267, R366). One that a migration has left marked for yield has its deadline anew (DESIGN CHOICE, log entry
42). -/
def execThreadBind (core : Nat) (s : State) : Host.Outcome State Fault Refusal :=
  match s.freeSlot core with
  | none => .next s
  | some k =>
    let restored := s.all.find? fun t => t.core == core && t.run == .saved && t.restoredRun
    let pick := match restored with
      | some t => some t.ref
      | none => (s.core core).ready.head?
    match pick with
    | none => .next s
    | some r =>
      let s := s.leaveReady r core
      .next (s.modify r fun t =>
        { t with run := .run, slot := k, bindTime := s.dtime, restoredRun := false
                 deadline := if t.st stYIELD then some (s.dtime + 1000 * s.deadlineOf t.ctx) else none })

/-- WAITB_TO_WAITU: a waiting thread gives up its holder once another thread is ready (R30). -/
def execWaitbToWaitu (c t : Nat) (s : State) : Host.Outcome State Fault Refusal :=
  .next (s.modify { ctx := c, tid := t } fun u =>
    if u.run = .waitb ∧ (s.core u.core).ready ≠ [] then { u with run := .waitu } else u)

/-- YIELD_MARK: a thread that has held a holder for 20 µs while others are ready (R54). -/
def execYieldMark (c t : Nat) (s : State) : Host.Outcome State Fault Refusal :=
  .next (s.modify { ctx := c, tid := t } fun u =>
    if u.run = .run ∧ 20000 ≤ s.dtime - u.bindTime ∧ (s.core u.core).ready ≠ [] ∧ u.st stYIELD = false then
      { u.setSt stYIELD true with deadline := some (s.dtime + 1000 * s.deadlineOf u.ctx) }
    else u)

/-- R54: a thread that met no safe point is forced out with its state saved, and joins the ready order. -/
def State.forceOut (s : State) : State :=
  match s.saveAll with
  | (s, false) => s.fatal
  | (s, true) => { s with cur := s.cur.arriveLatch.refreshVsm }.yield

/-- Whether the current thread, in RUN, has passed the deadline of its context's save (R261), or of a yield (R54), and
can be saved at this boundary. -/
def State.overdue (s : State) : Bool :=
  s.cur.run == .run && !s.cur.dying && s.cur.stall.isNone && !s.engineBusy &&
    (match (s.ctxSt s.cur.ctx).saving with
    | some sv => s.cur.st stPREQ && decide (sv.deadline ≤ s.dtime)
    | none => s.cur.st stYIELD && s.cur.deadline.any fun d => decide (d ≤ s.dtime))

/-- R54, R261: what the current thread meets at a deadline. -/
def State.meetDeadline (s : State) : State :=
  if (s.ctxSt s.cur.ctx).saving.isSome then s.saveThread else s.forceOut

/-- PREEMPTION_DEADLINE: of a context's save (R261), or of a yield (R54), at an instruction boundary. -/
def execPreemptionDeadline (c t : Nat) (s : State) : Host.Outcome State Fault Refusal :=
  .next (s.onThread { ctx := c, tid := t } fun s => if s.overdue then s.meetDeadline else s)

/-- R45: the target of the table for a thread at the end of a window. -/
def State.windowTarget (s : State) (t : Thread) : Option Cls :=
  match s.cls t.core with
  | some .c => if 1024 ≤ t.winVec then some .v else none
  | some .v => if t.winVec < 64 then some .c else none
  | some .t => if t.winMat = 0 ∧ t.tshape.getLsbD 31 = false ∧ t.st stMSM = false then some .c else none
  | none => none

/-- SCHEDULER_WINDOW_END. -/
def execSchedulerWindowEnd (c t : Nat) (s : State) : Host.Outcome State Fault Refusal :=
  .next (s.modify { ctx := c, tid := t } fun u => if 4096 ≤ u.winInstr then u.windowEnd (s.windowTarget u) else u)

/-- R450: every lane group of a hart is powered; only a V-core has lane groups. -/
def State.lanesReady (s : State) (core k : Nat) : Bool :=
  s.cls core != some .v || (List.range 4).all fun g =>
    !ownsLane (s.core core).harts k g || (((s.core core).lanes[g]?).getD .active).ready s.dtime

/-- The holder of a core that has a group ready for a slot: its number, its thread, and the place and entry of the
candidate instruction (R368). -/
def State.readyHart (s : State) (core out k : Nat) : Option (Nat × Thread × Nat × VEntry) :=
  (s.all.find? fun t => t.core == core && t.slot == k && (t.run == .run || t.run == .waitb)).bind fun t =>
    match s.candidate t with
    | some (n, e) => if s.lanesReady core k ∧ s.groupReady core t.vq n out e then some (k, t, n, e) else none
    | none => none

/-- ELEMENT_GROUP_GRANT: among the eligible harts or slots of a core, one passed over 64 times, else the one whose
candidate has the fewest elements left, takes a slot (R55, R368, R369). How many of the element requests made are
still outstanding is a free choice, as time would decide it (R356, log entry 1). -/
def execElementGroupGrant (core : Nat) (s : State) : Host.Outcome State Fault Refusal :=
  let (r, s) := s.fresh
  let c := s.core core
  let eligible := (List.range 8).filterMap (s.readyHart core (r % (s.requestsOpen core + 1)))
  let passed (k : Nat) : Nat := c.passedOver[k]?.getD 0
  let aged := eligible.find? fun e => decide (64 ≤ passed e.1)
  let pick := match aged with
    | some e => some e
    | none => eligible.foldl (fun b e => match b with
        | none => some e
        | some f => if e.2.2.2.left < f.2.2.2.left then some e else some f) none
  match pick with
  | none => .next s
  | some (k, t, n, e) =>
    let count (i : Fin 8) : Nat :=
      if i.val = k then 0 else if eligible.any (·.1 == i.val) then passed i.val + 1 else passed i.val
    let s := s.setCore core ({ c with passedOver := Vector.ofFn count }.useLanes s.dtime k)
    let s := s.count core 6
    let s := if aged.isSome then s.count core 8 else s
    let rate := addressRate (s.cls core) (s.cluster (clusterOf s.blend core)).lvl
    .next (s.modify t.ref fun u => { u with vq := changeAt (·.slot (e.group s core) rate) n u.vq })

/-- VECTOR_COMPLETE: a vector or matrix instruction of a thread completes, and its flags join `tstat` (R120, R184,
R240); which of those that may is a free choice. -/
def execVectorComplete (c t : Nat) (s : State) : Host.Outcome State Fault Refusal :=
  let (r, s) := s.fresh
  .next (s.modify { ctx := c, tid := t } (·.completeOne r))

/-- STORE_ERROR_ACK: the acknowledgement of a store reports an uncorrectable error at an address; the
trap is taken at a boundary (R251). -/
def execStoreErrorAck (c t : Nat) (addr : BitVec 64) (s : State) : Host.Outcome State Fault Refusal :=
  .next (s.modify { ctx := c, tid := t } (·.storeFailed addr))

/-- R251: the current thread takes the trap of a store's error at an instruction boundary. -/
def State.storeErrorTrap (s : State) (addr : Word) : State :=
  { s with cur := { s.cur with storeErrors := s.cur.storeErrors.drop 1 } }.systemTrap (.plain 0x0C addr) true

end Sys2Proof.Machine
end

