-- ==== Sys2Proof/Machine/Margin.lean ====
section
/-!
DEFINITION. Margin, replay, quarantine, core reset and the ageing monitor (R425-R442, R494), and major
0x2F (R439, R454).
-/

namespace Sys2Proof.Machine

/-- An event at a core of the package; any other number names no unit. -/
def onCore (core : Nat) (f : State → State) (s : State) : Host.Outcome State Fault Refusal :=
  if (s.cls core).isSome then .next (f s) else .fault .noSuchUnit

/-! ### Core-table entries (R409) -/

/-- Replace bytes [off, off + len) of a table word. -/
def tput (w : BitVec 256) (off len v : Nat) : BitVec 256 :=
  (w &&& ~~~(BitVec.ofNat 256 (2 ^ (8 * len) - 1) <<< (8 * off))) |||
    (BitVec.ofNat 256 (v % 2 ^ (8 * len)) <<< (8 * off))

/-- Whether a table word is a valid core-table entry that names a core. -/
def namesCore (core : Nat) (e : TableKey × BitVec 256) : Bool :=
  e.1.tbl == 1 && e.1.word == 0 && tvalid e.2 && tfield e.2 4 2 == core

/-- The device sets STATE, and increments GEN, in every valid entry that names a core. -/
def State.markCore (s : State) (core st : Nat) : State :=
  { s with tables := s.tables.map fun e =>
      if namesCore core e then (e.1, tput (tput e.2 1 1 st) 2 2 (tfield e.2 2 2 + 1)) else e }

/-- A valid entry of some context names a core with STATE 0. -/
def State.coreInUse (s : State) (core : Nat) : Bool :=
  s.tables.any fun e => namesCore core e && tfield e.2 1 1 == 0

/-! ### The ageing counters (R437, R438) -/

/-- POH now. -/
def Ageing.pohAt (a : Ageing) (now : Nat) : Word := a.poh + BitVec.ofNat 64 ((now - a.pohSince) / 10 ^ 9)

/-- PLAN (index 5). -/
def Ageing.planWord (a : Ageing) : Word :=
  BitVec.ofNat 64 (a.plan.start.toNat + a.plan.top.toNat * 16 + a.rev.toNat * 256 +
    (if a.pend.isSome then 2 ^ 24 else 0) + (if a.quar then 2 ^ 25 else 0) +
    (if a.plan.retire then 2 ^ 26 else 0))

/-- Ageing counter i of a core; 8 to 15 read zero. -/
def State.ageing (s : State) (core i : Nat) : Word :=
  let a := (s.core core).age
  match i with
  | 0 => a.rodly.setWidth 64
  | 1 => if a.refHidden then 0 else a.rodref.setWidth 64
  | 2 => a.rplLife
  | 3 => a.winmax.setWidth 64
  | 4 => a.pohAt s.dtime
  | 5 => a.planWord
  | 6 => a.cec.setWidth 64
  | 7 => a.lastrp
  | _ => 0

/-- The counters of a core are written back to flash; the second under way goes on. A plan that could not be read is not
written over (R494). -/
def State.writeAgeing (s : State) (core : Nat) : State :=
  let c := s.core core
  let a := { c.age with poh := c.age.pohAt s.dtime
                        pohSince := c.age.pohSince + (s.dtime - c.age.pohSince) / 10 ^ 9 * 10 ^ 9 }
  let b := if a.unread then { c.stored with rplLife := a.rplLife, poh := a.poh } else a
  s.setCore core { c with age := a, stored := b }

/-- R435: the monitor computes a plan and writes it to flash; `ok` says whether the write succeeded.
Cleov's rule for the plan is not architected: a free choice (log entry 3). -/
def State.replan (s : State) (core : Nat) (ok : Bool) : State :=
  if ok = false then s.record (dieOf core) 0x0B core (Config.eventArg 0x0B [core])
  else
    let (n, s) := s.fresh
    let c := s.core core
    let top := n % 16
    let p : Plan := { start := BitVec.ofNat 4 (n / 16 % (top + 1)), top := BitVec.ofNat 4 top,
                      retire := n / 256 % 2 == 1, rodly := c.age.rodly }
    let a := { c.age with pend := some p, lastrp := BitVec.ofNat 64 (s.dtime / 10 ^ 9), unread := false }
    (s.setCore core { c with age := a }).writeAgeing core

/-- A re-plan whose flash write succeeds or fails freely; the answer says which. -/
def State.tryReplan (s : State) (core : Nat) : State × Bool :=
  let (n, s) := s.fresh
  (s.replan core (n % 2 == 0), n % 2 == 0)

/-! ### Steps, quarantine, core reset (R429-R432, R436) -/

/-- R429: the step goes up, which its die is charged for; reaching TOP asks for a plan (R435). -/
def State.stepUp (s : State) (core : Nat) : State :=
  let c := s.core core
  let s := (s.setCore core { c with step := c.step + 1, acted := true }).sampleDie (dieOf core)
  let s := s.record (dieOf core) 0x01 core (Config.eventArg 0x01 [c.step.toNat + 1])
  if c.step + 1 = c.top then (s.tryReplan core).1 else s

/-- R431. -/
def State.quarantine (s : State) (core : Nat) : State :=
  let c := s.core core
  let s := s.setCore core
    { c with guard := true, quarantined := true, acted := true, age := { c.age with quar := true },
             stored := { c.stored with quar := true } }
  ((s.markCore core 1).evacuate core none).record (dieOf core) 0x02 core (Config.eventArg 0x02 [core])

/-- R428, R429: n units of a core detect late transitions in one cycle. Inside a guarded window none does (R433). -/
def State.replay (s : State) (core n : Nat) : State :=
  let c := s.core core
  if c.guard ∨ n = 0 then s
  else
    let win : BitVec 16 := BitVec.ofNat 16 (min 0xFFFF (c.rplWin.toNat + n))
    let a := { c.age with rplLife := c.age.rplLife + BitVec.ofNat 64 n
                          winmax := if c.age.winmax < win then win else c.age.winmax }
    let s := s.setCore core
      { c with guard := true, rplTotal := c.rplTotal + BitVec.ofNat 32 n, rplWin := win, age := a }
    if win.toNat < 17 ∨ c.acted then s
    else if c.step < c.top then s.stepUp core
    else s.quarantine core

/-- Nothing holds a core: no thread, no packet, no transfer (R441). -/
def State.emptied (s : State) (core : Nat) : Bool :=
  let c := s.core core
  (s.queue core).isEmpty && c.arrivals.isEmpty && c.refusals.isEmpty && c.streamQ.isEmpty && c.xfer.isNone

/-- What a core reset makes of the ageing counters that flash holds (R436, R437, R494): `n` is the measured RODLY, `r` says
what of the plan can be read; where none has been written, nothing can. -/
def Ageing.load (a : Ageing) (now n r : Nat) : Ageing :=
  let b := { a with rodly := BitVec.ofNat 32 n, winmax := 0, cec := 0, pohSince := now }
  if a.unread ∨ r % 2 = 1 then
    { b with refHidden := true, plan := { start := 15, top := 15, retire := false, rodly := BitVec.ofNat 32 n },
             rev := 0, pend := none, unread := true, quar := a.quar && r / 2 % 2 == 0 }
  else match a.pend with
    | some p => { b with plan := p, rev := a.rev + 1, pend := none, quar := p.retire, refHidden := false }
    | none => { b with quar := a.plan.retire, refHidden := false }

/-- What flash holds after a core reset that loaded counters: the plan applied, or, where the plan could not be read, what
it held before. -/
def Ageing.kept (a loaded : Ageing) : Ageing := if loaded.unread then a else loaded

/-- R279: a scratchpad is all zero, and its full-empty bits are empty. -/
def State.clearScratch (s : State) (core : Nat) : State :=
  let lo := windowBase core
  let inside (pa : Nat) : Bool := decide (lo ≤ pa) && decide (pa < lo + 0x100000)
  { s with mem := s.mem.filter fun c => !inside c.1, full := s.full.filter fun g => !inside (16 * g),
           bad := s.bad.filter fun a => !inside a }

/-- R357: the rings that lie on a core are empty. -/
def State.emptyRings (s : State) (core : Nat) : State :=
  let empty (r : Ring) : Ring := match s.channel r.ctx r.chan with
    | some e =>
      if s.corePhys r.ctx e.dlcore = some core then { r with first := (r.first + r.held) % e.slots, held := 0 }
      else r
    | none => r
  { s with rings := s.rings.map empty }

/-- R357: the refused tokens of a core's retry buffer are gone from a launch unit. -/
def State.dropRefused (s : State) (u core : Nat) : State :=
  let x := s.unit u
  if x.refused.any (·.core == some core) then s.setUnit u { x with refused := x.refused.filter (·.core != some core) }
  else s

/-- R436: a core reset. -/
def State.resetCore (s : State) (core : Nat) : State :=
  let (n, s) := s.fresh
  let (r, s) := s.fresh
  let c := s.core core
  let a := c.stored.load s.dtime n r
  let s := ((s.stashOut core fun _ => true).clearScratch core).emptyRings core
  let d := s.die (dieOf core)
  let wanted (p : Nat × Nat) : Bool := s.cores.any fun e =>
    e.1 != core && dieOf e.1 == dieOf core && e.2.misses.any fun q => (q.ctx, q.page) == p
  let s := s.setDie (dieOf core) { d with walks := d.walks.filter wanted, inrush := d.inrush.filter (·.1 != core) }
  let s := (s.dropRefused 0 core).dropRefused 1 core
  let s := s.setCore core
    { CoreSt.reset core s.dtime with
      seqs := c.seqs, age := a, stored := c.stored.kept a, step := a.plan.start, top := a.plan.top, guard := a.quar,
      quarantined := a.quar,
      cycBase := (s.cluster (clusterOf s.blend core)).cycles s.dtime }
  s.sampleDie (dieOf core)

/-! ### Events -/

/-- LATE_TRANSITION_REPLAY: in so many units of a core in one cycle. -/
def execLateTransitionReplay (hits : Nat × Nat) : State → Host.Outcome State Fault Refusal :=
  onCore hits.1 (·.replay hits.1 hits.2)

/-- REPLAY_WINDOW_START: WIN := 0. -/
def execReplayWindowStart (core : Nat) : State → Host.Outcome State Fault Refusal :=
  onCore core fun s => s.setCore core { s.core core with rplWin := 0, acted := false }

/-- GUARD_WINDOW_EXPIRE: not on a quarantined core (R431). -/
def execGuardWindowExpire (core : Nat) : State → Host.Outcome State Fault Refusal :=
  onCore core fun s =>
    let c := s.core core
    s.setCore core { c with guard := c.quarantined }

/-- AGEING_MEASURE: a plan is computed where RODLY has risen by 2 % since the current one, or where none
could be read. -/
def execAgeingMeasure (core : Nat) (rodly : BitVec 32) (flashOk : Bool) :
    State → Host.Outcome State Fault Refusal :=
  onCore core fun s =>
    let c := s.core core
    let s := s.setCore core { c with age := { c.age with rodly := rodly } }
    if c.age.unread ∨ c.age.plan.rodly.toNat * 102 ≤ rodly.toNat * 100 then s.replan core flashOk else s

/-- AGEING_WRITEBACK. -/
def execAgeingWriteback (core : Nat) : State → Host.Outcome State Fault Refusal :=
  onCore core (·.writeAgeing core)

/-- CORE_RESET: begins only when the core is empty (R441). -/
def execCoreReset (core : Nat) : State → Host.Outcome State Fault Refusal :=
  onCore core fun s => if s.emptied core then s.resetCore core else s

/-! ### Major 0x2F -/

/-- R247: a privileged instruction outside system state. -/
def sysOnly (i : Instr) (body : State → Res) (s : State) : Res :=
  if s.cur.st stSYS then body s else .trap (privileged (encode i) 0) s

/-- The core that B[15:0] names, if the package has it. -/
def State.coreOf (s : State) (b : BitVec 5) : Option Nat :=
  let n := (s.cur.getS b).toNat % 65536
  if (s.cls n).isSome then some n else none

/-- AGRD. -/
def execAgrd (d a : BitVec 5) : State → Host.Outcome State Fault Refusal :=
  scalarDest (.agrd d a) d fun s =>
    .done (s.putS d (s.ageing s.cur.core ((s.cur.getS a).toNat % 16)) [a])

/-- AGRDX. -/
def execAgrdx (d a b : BitVec 5) : State → Host.Outcome State Fault Refusal :=
  scalarDest (.agrdx d a b) d (sysOnly (.agrdx d a b) fun s =>
    match s.coreOf b with
    | some core => .done (s.putS d (s.ageing core ((s.cur.getS a).toNat % 16)) [a, b])
    | none => .done (s.putS d (BitVec.allOnes 64) [a, b]))

/-- R441: a request completes with a status; the executing thread may itself leave the core. -/
def marginDone (d : BitVec 5) (st : Nat) (f : State → State) (s : State) : Res :=
  doneUnlessFatal (f (s.putS d (BitVec.ofNat 64 st) []))

/-- R441: the four operations on a core. -/
def marginRequest (d : BitVec 5) (op core : Nat) (s : State) : Res :=
  let c := s.core core
  match op with
  | 0 =>
    if c.quarantined then marginDone d 2 id s
    else if c.step = c.top ∨ c.acted then marginDone d 3 id s
    else marginDone d 0 (·.stepUp core) s
  | 1 => if c.quarantined then marginDone d 2 id s else marginDone d 0 (·.quarantine core) s
  | 2 =>
    if s.coreInUse core then marginDone d 4 id s
    else if s.emptied core then
      let s := s.resetCore core
      marginDone d (if (s.core core).quarantined then 6 else 0) id s
    else .held (s.evacuate core none)
  | _ =>
    let (s, ok) := s.tryReplan core
    marginDone d (if ok then 0 else 5) id s

/-- MGNREQ. -/
def execMgnreq (d a b : BitVec 5) : State → Host.Outcome State Fault Refusal :=
  scalarDest (.mgnreq d a b) d (consume [(a, 0), (b, 1)] (sysOnly (.mgnreq d a b) fun s =>
    match s.coreOf b with
    | none => marginDone d 1 id s
    | some core => marginRequest d ((s.cur.getS a).toNat % 4) core s))

/-- CTRDX. -/
def execCtrdx (d a b : BitVec 5) : State → Host.Outcome State Fault Refusal :=
  scalarDest (.ctrdx d a b) d (sysOnly (.ctrdx d a b) fun s =>
    let v := (s.coreOf b).bind fun core => s.counterReg core ((s.cur.getS a).toNat % 4096)
    .done (s.putS d (v.getD (BitVec.allOnes 64)) [a, b]))

/-- CTZERO. -/
def execCtzero (d b : BitVec 5) : State → Host.Outcome State Fault Refusal :=
  scalarDest (.ctzero d b) d (consume [(b, 1)] (sysOnly (.ctzero d b) fun s =>
    match s.coreOf b with
    | none => .done (s.putS d 1 [])
    | some core =>
      .done ((s.setCore core { s.core core with counters := Vector.replicate 18 0 }).putS d 0 [])))

end Sys2Proof.Machine
end

