-- ==== Sys2Proof/Machine/Matrix.lean ====
section
/-!
DEFINITION. Matrix tiles: the tile grant, TLDB, TMMA, the drains and the matrix restore (major 0x20,
R149, R220-R246).
-/

namespace Sys2Proof.Machine

/-! ### Operand formats and layouts (R224-R226) -/

/-- R224: the tag of a format code. -/
def matTag (f : BitVec 3) : BitVec 5 :=
  match f.toNat with
  | 0 => 0x0B
  | 1 => 0x0C
  | 2 => 0x0D
  | 3 => 0x0E
  | 4 => 0x11
  | 5 => 0x12
  | 6 => 0x10
  | _ => 0x0F

/-- Field i of width w. -/
def getField {n : Nat} (x : BitVec n) (w i : Nat) : Nat := bits x.toNat (i * w) w

/-- Replace field i of width w. -/
def putField {n : Nat} (x : BitVec n) (w i v : Nat) : BitVec n :=
  (x &&& ~~~(BitVec.ofNat n (2 ^ w - 1) <<< (i * w))) ||| (BitVec.ofNat n (v % 2 ^ w) <<< (i * w))

/-- A matrix operand in memory (R225): its format, base and stride; lines run along K where `unit` is
true; K is the tile's K. -/
structure MatOpd where
  fmt : BitVec 3
  base : Word
  stride : Nat
  unit : Bool
  kDim : Nat

def MatOpd.z (x : MatOpd) : Nat := tagWidth (matTag x.fmt)

/-- The index of the code of line `l` at k. -/
def MatOpd.index (x : MatOpd) (l k : Nat) : Nat := if x.unit then l * x.stride + k else k * x.stride + l

/-- The access of the code of line `l` at k, to be kept under a number. -/
def MatOpd.code (x : MatOpd) (l k num : Nat) : Acc :=
  { elem := num, scale := false, addr := x.base + BitVec.ofNat 64 (x.index l k * x.z / 8), size := max 1 (x.z / 8) }

/-- The access of a scale byte of line `l`. -/
def MatOpd.scaleByte (x : MatOpd) (l kb num : Nat) : Acc :=
  { elem := num, scale := true, size := 1,
    addr := x.base + BitVec.ofNat 64 (l * x.stride * x.z / 8 + x.kDim * x.z / 8 + kb) }

/-- A code from the bytes that hold it: a 4-bit code at an odd index is bits [7:4]. -/
def MatOpd.pick (x : MatOpd) (l k v : Nat) : Nat := if x.z = 4 then v / 16 ^ (x.index l k % 2) % 16 else v

/-- R226: the reason of a stride or alignment violation. -/
def MatOpd.violation (x : MatOpd) (extent : Nat) : Option Nat :=
  if x.z = 4 ∧ x.stride % 2 = 1 ∧ 2 ≤ extent then some 1
  else if x.z = 16 ∧ x.base.toNat % 2 = 1 then some 2
  else none

/-- R227. -/
def matrixFault (w : BitVec 32) (reason : Nat) : Trap := .plain 7 (BitVec.ofNat 64 (w.toNat + reason * 2 ^ 32))

/-! ### The grant (R231, R232, R236) -/

/-- Whether another thread holds the core's grant. -/
def State.grantTaken (s : State) : Bool :=
  match (s.core s.cur.core).tile.holder with
  | some r => r != s.cur.ref
  | none => false

/-- R236: the nearest T-core whose grant is free. -/
def State.grantCore (s : State) : Option Nat :=
  leastBy (coreKey s.blend s.cur.core) ((s.candidates s.cur.ctx .t).filter fun p =>
    p != s.cur.core && (s.core p).tile.holder.isNone)

/-- R236: the migration for a grant, if one can be made. -/
def State.moveForGrant (s : State) : Option State :=
  if 7 ≤ s.cur.grantFwd then none
  else match s.grantCore with
    | none => none
    | some d => some (s.startMigration { dest := d, src := s.cur.core, cause := 0, fwd := s.cur.grantFwd + 1,
                                         sys := false, fixed := false, sched := false, injected := false })

/-- The current thread takes a fresh grant of a shape: empty macros, accumulators +0.0. -/
def State.grant (s : State) (sh : Word) : State :=
  let c := s.core s.cur.core
  let s := s.setCore s.cur.core { c with tile := { Tile.reset with holder := some s.cur.ref } }
  { s with cur := { s.cur with tshape := sh, grantFwd := 0 } }

/-- A matrix save is discarded. -/
def Thread.discardSave (t : Thread) : Thread :=
  if t.st stMSM then { t.setSt stMSM false with tshape := 0 } else t

/-- The shape word of a request (R118, R231). -/
def shapeOf (a : Word) : Word :=
  let rows := max (min (bits a.toNat 8 9) (16384 / shapeN a)) 1
  BitVec.ofNat 64 (a.toNat % 4 + 4 * ((rows + 3) / 4) * 256 + 2 ^ 31)

/-- TSHAPE: it waits until both units are idle (R240). -/
def execTshape (d a : BitVec 5) : State → Host.Outcome State Fault Refusal :=
  scalarDest (.tshape d a) d (consume [(a, 0)] fun s =>
    if s.cur.mq ≠ [] then .held s
    else
    let s := { s with cur := s.cur.discardSave }
    if s.grantTaken then
      match s.moveForGrant with
      | some s => .held s
      | none => .done { s with cur := { s.cur.setS d 0 false with grantFwd := 0 } }
    else
      let sh := shapeOf (s.cur.getS a)
      .done ((s.grant sh).putS d sh []))

/-- R240, R253: an instruction of major 0x20 enters the matrix queue with its flags. TDRAIN and TACCLD begin at
`vesr`.START, which their completion clears (R117). -/
def Thread.mdone (t : Thread) (i : Instr) (f : BitVec 6) : Thread :=
  match i with
  | .tdrain j _ _ _ _ _ => { t with vesr := 0 }.enqueueM { flags := f, drains := true, divided := true, tile := some j, requests := true }
  | .taccld j _ _ _ => { t with vesr := 0 }.enqueueM { flags := f, drains := true, divided := true, tile := some j, requests := true }
  | .trdacc _ j _ => t.enqueueM { flags := f, drains := true, divided := false, tile := some j }
  | .tmma j _ _ _ _ => t.enqueueM { flags := f, drains := false, divided := false, tile := some j, requests := true }
  | .tldb .. => t.enqueueM { flags := f, drains := false, divided := false, tile := none, requests := true }
  | .tzero0 => t.enqueueM { flags := f, drains := false, divided := false, tile := some 0 }
  | .tzero1 => t.enqueueM { flags := f, drains := false, divided := false, tile := some 1 }
  | .tzero2 => t.enqueueM { flags := f, drains := false, divided := false, tile := some 2 }
  | .tzero3 => t.enqueueM { flags := f, drains := false, divided := false, tile := some 3 }
  | _ => t.enqueueM { flags := f, drains := false, divided := false, tile := none }

/-- TREL. -/
def execTrel : State → Host.Outcome State Fault Refusal :=
  plainOp .trel fun s =>
    let s := { s with cur := s.cur.discardSave }
    if (s.core s.cur.core).tile.holder = some s.cur.ref then
      let s := s.releaseTile
      .done { s with cur := { s.cur with tshape := 0 }.mdone .trel 0 }
    else .done { s with cur := s.cur.mdone .trel 0 }

/-! ### TLDB (R234) -/

/-- The B operand of a TLDB word with its register values, for the thread's shape. -/
def bOpd (sh : Word) (w : BitVec 32) (a b : Word) : MatOpd :=
  { fmt := w.extractLsb' 4 3, base := a, stride := bits b.toNat 0 16, unit := w.getLsbD 7, kDim := shapeK sh }

/-- The codes that a TLDB reads, then its scale bytes. -/
def bAccs (sh : Word) (x : MatOpd) (b : Word) : List Acc :=
  let n := shapeN sh
  let kv := min (bits b.toNat 16 10) (shapeK sh)
  let nv := min (bits b.toNat 32 10) n
  let codes := (List.range kv).flatMap fun k => (List.range nv).map fun c => x.code c k (k * n + c)
  let scales := if tagBlock (matTag x.fmt) then
      (List.range ((kv + 31) / 32)).flatMap fun kb => (List.range nv).map fun c => x.scaleByte c kb (kb * n + c)
    else []
  codes ++ scales

/-- Put the loaded codes and scale bytes into a tile's stores. -/
def putTile (x : MatOpd) (n : Nat) (codes : BitVec 524288) (scales : BitVec 8192) :
    List (Acc × Nat) → BitVec 524288 × BitVec 8192
  | [] => (codes, scales)
  | (y, v) :: rest =>
    if y.scale then putTile x n codes (putField scales 8 y.elem v) rest
    else putTile x n (putField codes 16 y.elem (x.pick (y.elem % n) (y.elem / n) v)) scales rest

/-- Fields of width w, from i on, that keep their old value: those that a number's bits choose and those
that could not be read. -/
def mixMask (m w r : Nat) (bad : Nat → Bool) : Nat → BitVec m
  | 0 => 0
  | k + 1 => if r.testBit k || bad k then putField (mixMask m w r bad k) w k (2 ^ w - 1) else mixMask m w r bad k

/-- Some fields of one store and the others of another. -/
def mixBits {m : Nat} (mask old new : BitVec m) : BitVec m := (old &&& mask) ||| (new &&& ~~~mask)

/-- Load the macros from the fields of a TLDB word and its operands. A fault leaves each position with
its old code or its new one, by free choices; and the last TLDB that a matrix save records (R245) stays
the one before (DESIGN CHOICE, log entry 24). -/
def State.loadTile (s : State) (w : BitVec 32) (a b : Word) : State × Option Trap :=
  let sh := s.cur.tshape
  let x := bOpd sh w a b
  let kv := min (bits b.toNat 16 10) (shapeK sh)
  let nv := min (bits b.toNat 32 10) (shapeN sh)
  let space := bits w.toNat 8 1
  match x.violation (if x.unit then nv else kv) with
  | some r => (s, some (matrixFault w r))
  | none =>
    let core := s.cur.core
    match s.placeAll space false wantLoad (bAccs sh x b) with
    | (s, places, none) =>
      let (s, vals, _, _) := s.loadAll space 0 0 places
      let (codes, scales) := putTile x (shapeN sh) 0 Tile.reset.scales vals
      let c := s.core core
      (s.setCore core { c with tile := { c.tile with codes := codes, scales := scales, fmt := x.fmt,
                                                     loaded := some (a, b, w) } }, none)
    | (s, places, some (code, v, y, rest)) =>
      let (s, more) := s.placeRest space false wantLoad rest
      let (s, vals, _, _) := s.loadAll space 0 0 (places ++ more)
      let (codes, scales) := putTile x (shapeN sh) 0 Tile.reset.scales vals
      let lost (sc : Bool) (k : Nat) : Bool :=
        (y :: rest.accs).any fun z => z.scale == sc && z.elem == k && !more.any fun m => m.1 == z
      let (r1, s) := s.fresh
      let (r2, s) := s.fresh
      let c := s.core core
      let t := { c.tile with
        codes := mixBits (mixMask 524288 16 r1 (lost false) 32768) c.tile.codes codes
        scales := mixBits (mixMask 8192 8 r2 (lost true) 1024) c.tile.scales scales
        fmt := if r2.testBit 1024 then c.tile.fmt else x.fmt }
      (s.setCore core { c with tile := t }, some (.plain code v))

/-! ### Restore (R246) and the check of R223 -/

/-- The words of an accumulator image as the store. -/
def State.restoreSave (s : State) : State × Option Trap :=
  match s.saveRead 0x800 5 with
  | (s, none) => (s.fatal, none)
  | (s, some h) =>
    let sh : Word := BitVec.ofNat 64 (bits h 0 31 + 2 ^ 31)
    match s.saveRead 0x9000 (shapeM sh * shapeN sh / 2) with
    | (s, none) => (s.fatal, none)
    | (s, some img) =>
      let old := s.cur.tshape
      let s := s.grant sh
      let core := s.cur.core
      let c := s.core core
      let s := s.setCore core { c with tile := { c.tile with acc := BitVec.ofNat 524288 img } }
      let r := if h.testBit 64 then
          s.loadTile (BitVec.ofNat 32 (bits h 128 32)) (BitVec.ofNat 64 (bits h 192 64)) (BitVec.ofNat 64 (bits h 256 64))
        else (s, none)
      match r with
      | (s, none) => ({ s with cur := s.cur.setSt stMSM false }, none)
      | (s, some x) =>
        let s := s.releaseTile
        ({ s with cur := { s.cur with tshape := old } }, some x)

/-- What every instruction but TSHAPE and TREL does first: restore a matrix save, or raise reason 0
without a grant. `start` is START of the entry of one that is convoy-eligible (R254). -/
def withGrant (w : BitVec 32) (start : Option Nat) (body : State → Res) (s : State) : Res :=
  if s.cur.st stMSM then
    if s.grantTaken then
      match s.moveForGrant with
      | some s => .held s
      | none => .trap { matrixFault w 4 with start := start } s
    else match s.restoreSave with
      | (s, some x) => .trap { x with start := start } s
      | (s, none) => if s.cur.run = .run ∧ s.cur.dying = false then body s else .held s
  else if s.cur.tshape.getLsbD 31 then body s
  else .trap { matrixFault w 0 with start := start } s

/-- The rows of one accumulator tile. -/
def tileRows (sh : Word) : Nat := shapeM sh / 4

/-- Replace accumulator element i of a core. -/
def State.setAcc (s : State) (core i v : Nat) : State :=
  let c := s.core core
  s.setCore core { c with tile := { c.tile with acc := putField c.tile.acc 32 i v } }

/-- Accumulator element i of a core. -/
def State.getAcc (s : State) (core i : Nat) : Nat := getField (s.core core).tile.acc 32 i

/-- TZERO of tile j: its rows become +0.0. -/
def zeroTile (i : Instr) (j : Nat) : State → Host.Outcome State Fault Refusal :=
  plainOp i (withGrant (encode i) none fun s =>
    let sh := s.cur.tshape
    let len := 32 * (tileRows sh * shapeN sh)
    let c := s.core s.cur.core
    let mask : BitVec 524288 := BitVec.ofNat 524288 (2 ^ len - 1) <<< (j * len)
    let s := s.setCore s.cur.core { c with tile := { c.tile with acc := c.tile.acc &&& ~~~mask } }
    .done { s with cur := s.cur.mdone i 0 })

/-- TZERO a0. -/
def execTzero0 : State → Host.Outcome State Fault Refusal := zeroTile .tzero0 0

/-- TZERO a1. -/
def execTzero1 : State → Host.Outcome State Fault Refusal := zeroTile .tzero1 1

/-- TZERO a2. -/
def execTzero2 : State → Host.Outcome State Fault Refusal := zeroTile .tzero2 2

/-- TZERO a3. -/
def execTzero3 : State → Host.Outcome State Fault Refusal := zeroTile .tzero3 3

/-- TLDB. -/
def execTldb (a b : BitVec 5) (p o : BitVec 1) (f : BitVec 3) : State → Host.Outcome State Fault Refusal :=
  let i : Instr := .tldb a b p o f
  plainOp i (consume [(a, 0), (b, 1)] (withGrant (encode i) none fun s =>
    match s.loadTile (encode i) (s.cur.getS a) (s.cur.getS b) with
    | (s, none) => .done { s with cur := s.cur.mdone i 0 }
    | (s, some x) => .trap x s))

/-! ### TMMA (R149, R235) -/

/-- The exact sum of one block's products, before rounding; `full`: no product is padded. A zero element of int4 or mxi8,
formats without a signed zero, is +0, and a product's sign is the exclusive or of its factors' signs (DESIGN CHOICE, log
entry 44). -/
def blockSum (full : Bool) (l : List (FVal × FVal)) : FVal × FFlags :=
  let ops := l.flatMap fun p => [p.1, p.2]
  let nums := l.filter fun p => !p.1.isNan && !p.2.isNan
  let bad := nums.any fun p => (p.1.isInf && p.2.isZero) || (p.1.isZero && p.2.isInf)
  let infs := (nums.filter fun p => (p.1.isInf && !p.2.isZero) || (p.2.isInf && !p.1.isZero)).map fun p =>
    p.1.neg != p.2.neg
  let clash := infs.contains true && infs.contains false
  let nv : FFlags := sigFlag ops ||| (if bad || clash then fNV else 0)
  match firstNan ops with
  | some r => (r, nv)
  | none =>
    if bad || clash then (.invalid, nv)
    else match infs with
      | n :: _ => (.inf n, nv)
      | [] =>
        let prods := l.map fun p => (fMul p.1 p.2).1
        let total := prods.foldl (fun x y => (fAdd .rne x y).1) (.num false 0 0)
        let minus := full && prods.all fun p => p.isZero && p.neg
        (if total.isZero then .num minus 0 0 else total, nv)

/-- One accumulator element over the blocks from kb on: c := c + blocksum, each rounded once (R149). -/
def accumulate (kv : Nat) (pair : Nat → FVal × FVal) (c : Nat) : Nat → Nat → Nat × FFlags
  | _, 0 => (c, 0)
  | kb, n + 1 =>
    let live := (List.range 32).filter fun j => decide (32 * kb + j < kv)
    let (v, f1) := blockSum (live.length == 32) (live.map fun j => pair (32 * kb + j))
    let (b, f2) := Fmt.f32.ofVal .rne false v
    let (w, f3) := fAdd .rne (Fmt.f32.value c) (Fmt.f32.value b)
    let (c', f4) := Fmt.f32.ofVal .rne false w
    let (r, f5) := accumulate kv pair c' (kb + 1) n
    (r, f1 ||| f2 ||| f3 ||| f4 ||| f5)

/-- The value of B(k, n) in a tile (R224). -/
def Tile.value (t : Tile) (n k c : Nat) : FVal :=
  elemVal (matTag t.fmt) (getField t.codes 16 (k * n + c)) (getField t.scales 8 (k / 32 * n + c))

/-- Columns from c on of one row: the accumulators' new values, with flags. -/
def State.multiplyRow (s : State) (row n kDim kv : Nat) (a : Nat → FVal) (c : Nat) : Nat → State × FFlags
  | 0 => (s, 0)
  | k + 1 =>
    let t := (s.core s.cur.core).tile
    let (v, f1) := accumulate kv (fun k => (a k, t.value n k c)) (s.getAcc s.cur.core (row * n + c)) 0 (kDim / 32)
    let (s, f2) := (s.setAcc s.cur.core (row * n + c) v).multiplyRow row n kDim kv a (c + 1) k
    (s, f1 ||| f2)

/-- Rows from m on. -/
def State.multiplyRows (s : State) (first n kDim kv : Nat) (a : Nat → Nat → FVal) (m : Nat) : Nat → State × FFlags
  | 0 => (s, 0)
  | k + 1 =>
    let (s, f1) := s.multiplyRow (first + m) n kDim kv (a m) 0 n
    let (s, f2) := s.multiplyRows first n kDim kv a (m + 1) k
    (s, f1 ||| f2)

/-- The value of A(m, k) among the loaded codes and scale bytes. -/
def aValue (x : MatOpd) (codes : BitVec 524288) (scales : BitVec 8192) (m k : Nat) : FVal :=
  elemVal (matTag x.fmt) (getField codes 16 (m * x.kDim + k)) (getField scales 8 (m * (x.kDim / 32) + k / 32))

/-- Put loaded codes and scale bytes of A under their numbers. -/
def putA (x : MatOpd) (codes : BitVec 524288) (scales : BitVec 8192) :
    List (Acc × Nat) → BitVec 524288 × BitVec 8192
  | [] => (codes, scales)
  | (y, v) :: rest =>
    if y.scale then putA x codes (putField scales 8 y.elem v) rest
    else putA x (putField codes 16 y.elem (x.pick (y.elem / x.kDim) (y.elem % x.kDim) v)) scales rest

/-- The A operand of a TMMA. -/
def aOpd (sh : Word) (f : BitVec 3) (o : BitVec 1) (base : Word) (sb : Nat) : MatOpd :=
  { fmt := f, base := base, stride := bits sb 0 16, unit := o == 0, kDim := shapeK sh }

/-- What a TMMA reads of A: row by row the codes, then the row's scale bytes. Where several of these
addresses fault, `trval` has the first in this order (DESIGN CHOICE, log entry 24): R235 orders none. -/
def aAccs (sh : Word) (f : BitVec 3) (o : BitVec 1) (base : Word) (sb : Nat) : List Acc :=
  let x := aOpd sh f o base sb
  let kv := min (bits sb 16 10) x.kDim
  (List.range (min (bits sb 32 10) (tileRows sh))).flatMap fun m =>
    ((List.range kv).map fun k => x.code m k (m * x.kDim + k)) ++
    (if tagBlock (matTag f) then
      (List.range ((kv + 31) / 32)).map fun kb => x.scaleByte m kb (m * (x.kDim / 32) + kb)
    else [])

/-- TMMA. -/
def execTmma (j : BitVec 2) (a b : BitVec 5) (o : BitVec 1) (f : BitVec 3) :
    State → Host.Outcome State Fault Refusal :=
  let i : Instr := .tmma j a b o f
  plainOp i (consume [(a, 0), (b, 1)] (withGrant (encode i) none fun s =>
    let sh := s.cur.tshape
    let sb := (s.cur.getS b).toNat
    let x := aOpd sh f o (s.cur.getS a) sb
    let kv := min (bits sb 16 10) x.kDim
    let mv := min (bits sb 32 10) (tileRows sh)
    match x.violation (if x.unit then mv else kv) with
    | some r => .trap (matrixFault (encode i) r) s
    | none =>
      match s.placeAll 1 false wantLoad (aAccs sh f o x.base sb) with
      | (s, _, some (c, v, _, _)) => .trap (.plain c v) s
      | (s, places, none) =>
        let (s, vals, _, _) := s.loadAll 1 0 0 places
        let (codes, scales) := putA x 0 Tile.reset.scales vals
        let (s, fl) := s.multiplyRows (j.toNat * tileRows sh) (shapeN sh) x.kDim kv (aValue x codes scales) 0 mv
        .done { s with cur := s.cur.mdone i (fl &&& (fNV ||| fOF)) }))

/-! ### The drains and TRDACC (R229, R237-R239) -/

/-- The accumulator element that a position word names in tile j; none outside the tile. `len`: the
elements taken from it. -/
def position (sh : Word) (j : Nat) (b : Word) (len : Nat) : Option Nat :=
  let r := bits b.toNat 0 9
  let c := bits b.toNat 16 9
  if r < tileRows sh ∧ c < shapeN sh ∧ c + len ≤ shapeN sh then some ((j * tileRows sh + r) * shapeN sh + c)
  else none

/-- R228: the format and bytes of a drain type. -/
def drainFmt (t : BitVec 3) : Fmt × Nat :=
  match t.toNat with
  | 0 => (.f32, 4)
  | 1 => (.bf16, 2)
  | 2 => (.f16, 2)
  | 3 => (.e4m3, 1)
  | _ => (.e5m2, 1)

/-- R237: DrainConvert. -/
def drainConvert (t : BitVec 3) (mode : RMode) (x : Nat) : Nat × FFlags :=
  if t = 0 then (x, 0)
  else
    let (c, f) := (drainFmt t).1.ofVal mode true (Fmt.f32.value x)
    (c, f &&& (fNV ||| fOF))

/-- Store converted accumulator elements. -/
def State.drainAll (s : State) (space size first : Nat) (g : Nat → Nat × FFlags) :
    List (Acc × Place) → State × FFlags
  | [] => (s, 0)
  | (y, p) :: rest =>
    let (c, f1) := g (s.getAcc s.cur.core (first + y.elem))
    let (s, f2) := (s.store space y.addr p size c).drainAll space size first g rest
    (s, f1 ||| f2)

/-- The accesses of a drain: enabled elements from `start` to vl − 1. -/
def drainAccs (t : Thread) (a : Word) (size start : Nat) (en : Nat → Bool) : List Acc :=
  ((List.range t.vl.toNat).filter fun e => decide (start ≤ e) && en e).map fun e =>
    { elem := e, scale := false, addr := a + BitVec.ofNat 64 (e * size), size := size }

/-- TDRAIN. -/
def execTdrain (j : BitVec 2) (a b : BitVec 5) (p : BitVec 1) (r t : BitVec 3) :
    State → Host.Outcome State Fault Refusal :=
  let i : Instr := .tdrain j a b p r t
  issue i (true, true, false) .done fun l s =>
    let start := s.cur.start
    let conv := some (s.groupStart s.cur.core 16 start)
    if s.cur.vl = 0 then .done { s with cur := s.cur.endDrain i }
    else match s.cur.firstPoison [(a, 0), (b, 1)] with
      | some v => .trap { code := 2, val := v, elem := none, start := conv } s
      | none =>
        if 64 < s.cur.vl.toNat then
          .trap { code := 6, val := BitVec.ofNat 64 ((encode i).toNat + 64 * 2 ^ 32), elem := none, start := conv } s
        else withGrant (encode i) conv (fun s =>
          let sh := s.cur.tshape
          let base := s.cur.getS a
          let (_, size) := drainFmt t
          match position sh j.toNat (s.cur.getS b) s.cur.vl.toNat with
          | none => .trap { matrixFault (encode i) 3 with start := conv } s
          | some first =>
            if base.toNat % size ≠ 0 then .trap { matrixFault (encode i) 2 with start := conv } s
            else
              let g := drainConvert t (rmodeOf r.toNat s.cur.rmode)
              match s.placeAll p.toNat false wantStore (drainAccs s.cur base size start (s.cur.enabled l)) with
              | (s, places, none) =>
                let (s, f) := s.drainAll p.toNat size first g places
                .done { s with cur := s.cur.mdone i f }
              | (s, places, some (c, v, y, rest)) =>
                let st := s.faultStart false p.toNat 16 (drainAccs s.cur base size 0 (s.cur.enabled l)) y
                let (s, more) := s.placeRest p.toNat false wantStore rest
                let (s, some') := s.partly st (places ++ more)
                let (s, f) := s.drainAll p.toNat size first g some'
                .trap (elemTrap c v y.elem st.1) { s with cur := s.cur.orFlags f }) s

/-- Write loaded words into the accumulators. -/
def State.fillAcc (s : State) (first : Nat) : List (Acc × Nat) → State
  | [] => s
  | (y, v) :: rest => (s.setAcc s.cur.core (first + y.elem) v).fillAcc first rest

/-- TACCLD. With `vl` above 64 it raises no vector-length fault, a check that R237 gives for TDRAIN and
R238 not for TACCLD (DESIGN CHOICE, log entry 24). -/
def execTaccld (j : BitVec 2) (a b : BitVec 5) (p : BitVec 1) : State → Host.Outcome State Fault Refusal :=
  let i : Instr := .taccld j a b p
  plainOp i fun s =>
    let start := s.cur.start
    let conv := some (s.groupStart s.cur.core 16 start)
    if s.cur.vl = 0 then .done { s with cur := s.cur.endDrain i }
    else match s.cur.firstPoison [(a, 0), (b, 1)] with
      | some v => .trap { code := 2, val := v, elem := none, start := conv } s
      | none => withGrant (encode i) conv (fun s =>
          let base := s.cur.getS a
          match position s.cur.tshape j.toNat (s.cur.getS b) s.cur.vl.toNat with
          | none => .trap { matrixFault (encode i) 3 with start := conv } s
          | some first =>
            if base.toNat % 4 ≠ 0 then .trap { matrixFault (encode i) 2 with start := conv } s
            else match s.placeAll p.toNat false wantLoad (drainAccs s.cur base 4 start fun _ => true) with
              | (s, places, none) =>
                let (s, vals, _, _) := s.loadAll p.toNat 0 0 places
                let s := s.fillAcc first vals
                .done { s with cur := s.cur.mdone i 0 }
              | (s, places, some (c, v, y, rest)) =>
                let st := s.faultStart false p.toNat 16 (drainAccs s.cur base 4 0 fun _ => true) y
                let (s, more) := s.placeRest p.toNat false wantLoad rest
                let (s, some') := s.partly st (places ++ more)
                let (s, vals, _, _) := s.loadAll p.toNat 0 0 some'
                .trap (elemTrap c v y.elem st.1) (s.fillAcc first vals)) s

/-- TRDACC: a poisoned position poisons S[d], and nothing is read. -/
def execTrdacc (d : BitVec 5) (j : BitVec 2) (b : BitVec 5) : State → Host.Outcome State Fault Refusal :=
  let i : Instr := .trdacc d j b
  scalarDest i d (withGrant (encode i) none fun s =>
    if s.cur.poisonedS b then .done { s with cur := (s.cur.poisonS d).mdone i 0 }
    else match position s.cur.tshape j.toNat (s.cur.getS b) 0 with
      | none => .trap (matrixFault (encode i) 3) s
      | some e =>
        let s := s.putS d (BitVec.ofNat 64 (s.getAcc s.cur.core e)) []
        .done { s with cur := s.cur.mdone i 0 })

end Sys2Proof.Machine
end

