-- ==== Sys2Proof/Machine/Digest.lean ====
section
/-!
DEFINITION. SHA-256, which the spec names for placed images, the boot ROM and attestation (R20, R417, R485, R489). The
function itself is that of FIPS 180-4, which the spec cites by name alone (PRESUMED, log entry 10).
-/

namespace Sys2Proof.Machine

/-- The constants of the 64 rounds. -/
def shaConstants : List (BitVec 32) := [
   0x428A2F98, 0x71374491, 0xB5C0FBCF, 0xE9B5DBA5, 0x3956C25B, 0x59F111F1, 0x923F82A4, 0xAB1C5ED5,
   0xD807AA98, 0x12835B01, 0x243185BE, 0x550C7DC3, 0x72BE5D74, 0x80DEB1FE, 0x9BDC06A7, 0xC19BF174,
   0xE49B69C1, 0xEFBE4786, 0x0FC19DC6, 0x240CA1CC, 0x2DE92C6F, 0x4A7484AA, 0x5CB0A9DC, 0x76F988DA,
   0x983E5152, 0xA831C66D, 0xB00327C8, 0xBF597FC7, 0xC6E00BF3, 0xD5A79147, 0x06CA6351, 0x14292967,
   0x27B70A85, 0x2E1B2138, 0x4D2C6DFC, 0x53380D13, 0x650A7354, 0x766A0ABB, 0x81C2C92E, 0x92722C85,
   0xA2BFE8A1, 0xA81A664B, 0xC24B8B70, 0xC76C51A3, 0xD192E819, 0xD6990624, 0xF40E3585, 0x106AA070,
   0x19A4C116, 0x1E376C08, 0x2748774C, 0x34B0BCB5, 0x391C0CB3, 0x4ED8AA4A, 0x5B9CCA4F, 0x682E6FF3,
   0x748F82EE, 0x78A5636F, 0x84C87814, 0x8CC70208, 0x90BEFFFA, 0xA4506CEB, 0xBEF9A3F7, 0xC67178F2]

/-- The hash value before the first block. -/
def shaStart : List (BitVec 32) :=
  [0x6A09E667, 0xBB67AE85, 0x3C6EF372, 0xA54FF53A, 0x510E527F, 0x9B05688C, 0x1F83D9AB, 0x5BE0CD19]

/-- The two functions of the message schedule. -/
def shaSmall0 (w : BitVec 32) : BitVec 32 := w.rotateRight 7 ^^^ w.rotateRight 18 ^^^ (w >>> 3)
def shaSmall1 (w : BitVec 32) : BitVec 32 := w.rotateRight 17 ^^^ w.rotateRight 19 ^^^ (w >>> 10)

/-- The message schedule, newest word first, extended by n words. -/
def shaSchedule : Nat → List (BitVec 32) → List (BitVec 32)
  | 0, l => l
  | n + 1, l =>
    let at' (k : Nat) : BitVec 32 := l[k]?.getD 0
    shaSchedule n ((shaSmall1 (at' 1) + at' 6 + shaSmall0 (at' 14) + at' 15) :: l)

/-- One round on the working variables a to h, with its constant and its word. -/
def shaRound (v : List (BitVec 32)) (e : BitVec 32 × BitVec 32) : List (BitVec 32) :=
  match v with
  | [a, b, c, d, x, f, g, h] =>
    let t1 := h + (x.rotateRight 6 ^^^ x.rotateRight 11 ^^^ x.rotateRight 25) + ((x &&& f) ^^^ (~~~x &&& g)) + e.1 + e.2
    let t2 := (a.rotateRight 2 ^^^ a.rotateRight 13 ^^^ a.rotateRight 22) + ((a &&& b) ^^^ (a &&& c) ^^^ (b &&& c))
    [t1 + t2, a, b, c, d + t1, x, f, g]
  | v => v

/-- The 32-bit words of bytes, the first byte the most significant; n of them. -/
def shaWords : Nat → List Byte → List (BitVec 32)
  | 0, _ => []
  | n + 1, l => ((l.take 4).foldl (fun w b => w * 256 + b.setWidth 32) 0) :: shaWords n (l.drop 4)

/-- The hash value after one more block of 64 bytes. -/
def shaBlock (v : List (BitVec 32)) (l : List Byte) : List (BitVec 32) :=
  let w := (shaSchedule 48 (shaWords 16 l).reverse).reverse
  (v.zip ((shaConstants.zip w).foldl shaRound v)).map fun e => e.1 + e.2

/-- The hash value after n more blocks. -/
def shaBlocks : Nat → List (BitVec 32) → List Byte → List (BitVec 32)
  | 0, v, _ => v
  | n + 1, v, l => shaBlocks n (shaBlock v (l.take 64)) (l.drop 64)

/-- The bytes of a number of n bytes, the most significant first. -/
def bigEndian (v : Nat) : Nat → List Byte
  | 0 => []
  | n + 1 => bigEndian (v / 256) n ++ [BitVec.ofNat 8 v]

/-- A message with its padding: a one bit, zeros, and its length in bits, to a multiple of 64 bytes. -/
def shaPad (l : List Byte) : List Byte :=
  l ++ [0x80] ++ List.replicate ((119 - l.length % 64) % 64) 0 ++ bigEndian (8 * l.length) 8

/-- The SHA-256 digest of a byte sequence, its first byte in the low bits, which memory holds first. -/
def sha256 (l : List Byte) : BitVec 256 :=
  let m := shaPad l
  let v := shaBlocks (m.length / 64) shaStart m
  BitVec.ofNat 256 ((v.flatMap fun w => bigEndian w.toNat 4).foldr (fun b n => b.toNat + 256 * n) 0)

end Sys2Proof.Machine
end

