-- ==== Sys2Proof/Machine/Tables.lean ====
section
/-!
DEFINITION. The device tables and the table instructions of major 0x2E (R405-R421, R423: words are read whole), page walks and
evictions.
-/

namespace Sys2Proof.Machine

/-! ### Selectors (R405, R419) -/

/-- Entries and words of a table. -/
def tableSize : Nat → Nat × Nat
  | 0 => (4096, 1)
  | 1 | 2 => (16384, 1)
  | 3 | 4 | 5 => (4096, 1)
  | 6 => (1024, 1)
  | 7 => (256, 1)
  | 8 => (4096, 3)
  | 9 => (8192, 2)
  | _ => (0, 0)

/-- A selector. -/
structure Selector where
  tbl : Nat
  word : Nat
  cmp : Bool
  ctx : Nat
  index : Nat

/-- The selector in B; CTX is ignored for the tables of the device. -/
def Selector.ofWord (b : Word) : Selector :=
  let tbl := bits b.toNat 0 4
  { tbl := tbl, word := bits b.toNat 4 2, cmp := b.getLsbD 6,
    ctx := if tbl = 0 ∨ tbl = 9 then 0 else bits b.toNat 16 12, index := bits b.toNat 32 32 }

/-- Whether a selector names a word. -/
def Selector.exists (x : Selector) : Bool :=
  decide (x.index < (tableSize x.tbl).1) && decide (x.word < (tableSize x.tbl).2)

/-- Word k of the entry that a selector names. -/
def State.entryWord (s : State) (x : Selector) (k : Nat) : BitVec 256 := s.table x.tbl x.ctx x.index k

/-- GEN of an entry; member records have none (R413). -/
def State.entryGen (s : State) (x : Selector) : Nat :=
  if x.tbl = 6 then 0 else tfield (s.entryWord x 0) 2 2

/-! ### What a TBLW refuses (R407-R417, R419, R420) -/

/-- The bytes [off, off + len) of word 0 that a table gives as Zero, and the bits of a field that it gives
as zero: first bit and length. -/
def zeroBits : Nat → List (Nat × Nat)
  | 0 => [(2, 6), (8, 8), (0xE0, 32)]
  | 1 => [(0x38, 200)]
  | 2 => [(8, 8), (46, 2), (0x30, 208)]
  | 3 => [(0x70, 16), (0xA0, 96)]
  | 4 => [(8, 8), (0x28, 8), (0x58, 8), (0x60, 32)]
  | 5 => [(2, 6), (8, 8), (40, 8), (0x50, 176)]
  | 7 => [(0x98, 8), (0xA0, 32)]
  | 8 => [(0x40, 192)]
  | _ => []

/-- The limits on the fields of a word 0 with VALID = 1. -/
def State.limits (s : State) (x : Selector) (w : BitVec 256) : Bool :=
  match x.tbl with
  | 0 =>
    let ars := tfield w 4 4
    let arb := tfield w 8 8
    decide (1 ≤ ars) && decide (ars ≤ 4096) && arb % 0x10000 == 0 &&
      decide (arb + ars * 0x10000 ≤ 0x00C000000000) && tfield w 0x10 8 % 0x1000 == 0 &&
      decide (1 ≤ tfield w 0x1A 2) && decide (tfield w 0x1A 2 ≤ 16384)
  | 1 =>
    decide (tfield w 1 1 ≤ 2) && (clsOfCode (tfield w 6 1)).isSome &&
      s.cls (tfield w 4 2) == clsOfCode (tfield w 6 1) && decide (x.index < tfield (s.descr x.ctx) 0x1A 2)
  | 3 =>
    decide (tfield w 1 1 ≤ 2) && decide (1 ≤ tfield w 0xC 2) && decide (tfield w 0xC 2 ≤ 1024) &&
      tfield w 0x10 4 % 16 == 0
  | 5 => !w.getLsbD 1 || decide (tfield w 6 2 < 1024)
  | 7 => decide (tfield w 1 1 ≤ 4) && tfield w 4 4 % 4 == 0
  | 8 =>
    let h := tfield w 1 1
    (h == 0 || h == 1 || h == 2 || h == 4 || h == 8) && decide (1 ≤ tfield w 6 1) &&
      decide (tfield w 6 1 ≤ 56) && decide (tfield w 7 1 ≤ 3) && (tfield w 7 1 == 0 || h != 0)
  | 9 => decide (tfield w 1 1 ≤ 1) && tfield w 0x10 8 % 0x1000 == 0 && decide (tfield w 0x10 8 < 2 ^ 35)
  | _ => true

/-- ContentsRefused. -/
def State.contentsRefused (s : State) (x : Selector) (w : BitVec 256) : Bool :=
  x.word == 0 && x.tbl != 6 &&
    ((zeroBits x.tbl).any (fun f => bits w.toNat f.1 f.2 != 0) || (tvalid w && !s.limits x w))

/-- MakesQuarantinedAvailable (R409). -/
def State.makesAvailable (s : State) (x : Selector) (w : BitVec 256) : Bool :=
  let core := tfield w 4 2
  x.tbl == 1 && tvalid w && tfield w 1 1 == 0 && ((s.core core).quarantined || (s.die (dieOf core)).cut)

/-- R415, R420, R411: what a write would take from under a thread. The old core of an entry that is all zero is core 0. -/
def State.entryBusy (s : State) (x : Selector) (w : BitVec 256) : Bool :=
  let e := s.entryWord x 0
  let differs (off len : Nat) : Bool := tfield e off len != tfield w off len
  match x.tbl with
  | 0 =>
    (differs 8 8 || differs 4 4 || differs 0x1A 2 || (tvalid e && !tvalid w)) &&
      (!(s.members x.index).isEmpty || (s.ctxSt x.index).isSaved)
  | 1 =>
    differs 4 2 && (s.queue (tfield e 4 2)).any (·.ctx == x.ctx)
  | 3 => (differs 0x10 4 || differs 0xC 2 || differs 8 2) && (s.ring x.ctx x.index).held != 0
  | 8 => x.word != 0 && tvalid e
  | _ => false

/-- The status of a TBLW whose selector names a word. -/
def State.writeStatus (s : State) (x : Selector) (w : BitVec 256) : Nat :=
  if x.cmp ∧ x.word ≠ 0 then 1
  else if x.cmp ∧ x.tbl ≠ 6 ∧ tfield w 2 2 ≠ s.entryGen x then 6
  else if s.contentsRefused x w then 3
  else if s.makesAvailable x w then 4
  else if s.entryBusy x w then 5
  else 0

/-! ### Writing an entry -/

/-- R405: every entry of a context becomes invalid; its rings are empty. -/
def State.clearTables (s : State) (ctx : Nat) : State :=
  { s with tables := s.tables.filter fun e => e.1.tbl == 0 || e.1.tbl == 9 || e.1.ctx != ctx,
           rings := s.rings.filter (·.ctx != ctx) }

/-- The word itself, and GEN of word 0 (R406). -/
def State.putEntry (s : State) (x : Selector) (w : BitVec 256) : State :=
  let gen := tfield (s.entryWord x 0) 2 2 + 1
  if x.tbl = 6 then s.setTable x.tbl x.ctx x.index 0 w
  else if x.word = 0 then s.setTable x.tbl x.ctx x.index 0 (tput w 2 2 gen)
  else (s.setTable x.tbl x.ctx x.index x.word w).setTable x.tbl x.ctx x.index 0
    (tput (s.entryWord x 0) 2 2 gen)

/-- TBLW at status 0: the word, and what the device does with it (R405, R409, R411). -/
def State.writeEntry (s : State) (x : Selector) (w : BitVec 256) : State :=
  let old := s.entryWord x 0
  let s := s.putEntry x w
  match x.tbl with
  | 0 => if tvalid old = false ∧ tvalid w then s.clearTables x.index else s
  | 1 => if tvalid w ∧ tfield w 1 1 ≠ 0 then s.evacuate (tfield w 4 2) (some x.ctx) else s
  | 3 => { s with rings := s.rings.filter fun r => !(r.ctx == x.ctx && r.chan == x.index) }
  | _ => s

/-- S[d] of TBLW and TBLR. -/
def State.entryStatus (s : State) (x : Selector) (st : Nat) : Word :=
  BitVec.ofNat 64 (s.entryGen x * 2 ^ 16 + st)

/-- R419: a selector that names no word: status 1, with GEN of word 0 of the entry; where there is no entry, with a free
value (log entry 3). -/
def noEntry (d : BitVec 5) (x : Selector) (s : State) : Res :=
  if x.index < (tableSize x.tbl).1 then .done (s.putS d (s.entryStatus x 1) [])
  else
    let (n, s) := s.fresh
    .done (s.putS d (BitVec.ofNat 64 (n % 65536 * 2 ^ 16 + 1)) [])

/-! ### The flash-store directory (R417) -/

/-- Word k of a directory entry. -/
def State.directoryWord (s : State) (i k : Nat) : BitVec 256 := s.table 9 0 i k

/-- SHAPE of a context: the first 8 bytes of the digest over PHYS and CLASS of its core entries, in logical order,
invalid ones as zero. -/
def State.shapeOfCores (s : State) (ctx : Nat) : Nat :=
  let entry (k : Nat) : List Byte :=
    let w := s.coreEntry ctx k
    if tvalid w then (List.range 3).map fun j => BitVec.ofNat 8 (tfield w (4 + j) 1) else [0, 0, 0]
  (sha256 ((List.range (tfield (s.descr ctx) 0x1A 2)).flatMap entry)).toNat % 2 ^ 64

/-- Whether entry i is valid with a key: image hash, REV and SHAPE. -/
def State.directoryHit (s : State) (hash : BitVec 256) (rev shape i : Nat) : Bool :=
  let w := s.directoryWord i 0
  tvalid w && s.directoryWord i 1 == hash && tfield w 4 4 == rev && tfield w 8 8 == shape

/-- The lowest-indexed valid entry with a key. -/
def State.directoryLookup (s : State) (hash : BitVec 256) (rev shape : Nat) : Option Nat :=
  (List.range 8192).find? (s.directoryHit hash rev shape)

/-- The entry that the placer replaces: the valid one with the smallest LAST, the lowest index on equal LAST. -/
def State.directoryVictim (s : State) : Option Nat :=
  leastBy (fun i => tfield (s.directoryWord i 0) 0x1C 4 * 8192 + i)
    ((List.range 8192).filter fun i => tvalid (s.directoryWord i 0))

/-! ### The instructions -/

/-- Poison, then the permission of a use (R250, R419). -/
def tableOp (i : Instr) (d a b : BitVec 5) (allowed : State → Selector → Bool)
    (body : Selector → State → Res) : State → Host.Outcome State Fault Refusal :=
  scalarDest i d (consume [(a, 0), (b, 1)] fun s =>
    let x := Selector.ofWord (s.cur.getS b)
    if s.cur.st stSYS ∨ allowed s x then body x s else .trap (privileged (encode i) 0) s)

/-- R419: whether a thread in user state may write a table. -/
def State.mayWrite (s : State) (x : Selector) : Bool :=
  (x.tbl == 4 || x.tbl == 5 || x.tbl == 6) && x.ctx == s.cur.ctx && (s.descr x.ctx).getLsbD 1

/-- R419: whether a thread in user state may read a table. -/
def State.mayRead (s : State) (x : Selector) : Bool :=
  decide (1 ≤ x.tbl) && decide (x.tbl ≤ 8) && x.ctx == s.cur.ctx

/-- TBLW. -/
def execTblw (d a b : BitVec 5) : State → Host.Outcome State Fault Refusal :=
  tableOp (.tblw d a b) d a b State.mayWrite fun x s =>
    let addr := s.cur.getS a
    match s.access 0 addr 32 wantLoad with
    | (s, .error t) => .trap t s
    | (s, .ok p) =>
      let (s, img) := s.load 0 addr p 32
      let w : BitVec 256 := BitVec.ofNat 256 img
      if x.exists = false then noEntry d x s
      else
        let st := s.writeStatus x w
        let f (s : State) : State := if st = 0 then s.writeEntry x w else s
        let gen := if st = 0 ∧ x.tbl ≠ 6 then (s.entryGen x + 1) % 65536 else s.entryGen x
        doneUnlessFatal (f (s.putS d (BitVec.ofNat 64 (gen * 2 ^ 16 + st)) []))

/-- TBLR. -/
def execTblr (d a b : BitVec 5) : State → Host.Outcome State Fault Refusal :=
  tableOp (.tblr d a b) d a b State.mayRead fun x s =>
    let addr := s.cur.getS a
    if x.exists = false then noEntry d x s
    else if x.cmp ∧ x.word ≠ 0 then .done (s.putS d (s.entryStatus x 1) [])
    else
      match s.access 0 addr 32 wantStore with
      | (s, .error t) => .trap t s
      | (s, .ok p) =>
        .done ((s.store 0 addr p 32 (s.entryWord x x.word).toNat).putS d (s.entryStatus x 0) [])

/-- R421: whether a range of a context's addresses meets another; a length of 0 is all of them. -/
def inRange (base len lo size : Nat) : Bool :=
  len == 0 || (decide (lo < base + len) && decide (base < lo + size))

/-- R421: a transfer that checked a translation in a range has not completed. -/
def State.translating (s : State) (ctx base len : Nat) : Bool :=
  s.cores.any fun e => (e.2.streamQ ++ e.2.xfer.toList).any fun x =>
    x.checked.any fun p => p.1 == ctx && inRange base len (p.2 * 0x10000) 0x10000

/-- R421: the cached translations of a range are removed from every core and die, and the walks under way for it end
without a fill. -/
def State.dropTranslations (s : State) (ctx base len : Nat) : State :=
  let keep (e : TlbEntry) : Bool := !(e.ctx == ctx && inRange base len e.vbase (2 ^ e.sizeLog))
  let going (c page : Nat) : Bool := !(c == ctx && inRange base len (page * 0x10000) 0x10000)
  { s with cores := s.cores.map fun e =>
             (e.1, { e.2 with tlb := e.2.tlb.filter keep, misses := e.2.misses.filter fun q => going q.ctx q.page }),
           dies := s.dies.map fun e =>
             (e.1, { e.2 with tcache := e.2.tcache.filter keep, walks := e.2.walks.filter fun q => going q.1 q.2 }) }

/-- TINV. -/
def execTinv (d a b : BitVec 5) : State → Host.Outcome State Fault Refusal :=
  tableOp (.tinv d a b) d a b (fun _ _ => false) fun _ s =>
    let base := (s.cur.getS a).toNat
    let len := bits (s.cur.getS b).toNat 0 48
    let ctx := bits (s.cur.getS b).toNat 48 12
    if s.translating ctx base len then .held s
    else .done ((s.dropTranslations ctx base len).putS d 0 [])

/-! ### Events -/

/-- The requests of a die that its 8 walkers serve now: context and page, in the order of the queue (R295). -/
def DieSt.walking (d : DieSt) : List (Nat × Nat) := d.walks.take 8

/-- R295: the result of a walk fills the caches of a core whose access it permits. -/
def State.fillWalk (s : State) (q : WalkReq) : State :=
  match TlbEntry.granting q.read q.write
      (s.walk q.ctx (q.page * 0x10000) walkLevels (tfield (s.descr q.ctx) 0x10 8)) with
  | .ok e => s.fillTlb q.core e
  | .error _ => s

/-- PAGE_WALK_COMPLETE: a walk under way on a die ends, for every core that waits for its page (R295, R296). -/
def execPageWalkComplete (die ctx page : Nat) (s : State) : Host.Outcome State Fault Refusal :=
  if (s.die die).walking.contains (ctx, page) = false then .next s
  else
    let mine (q : WalkReq) : Bool := q.ctx == ctx && q.page == page
    let l := (s.cores.filter fun e => dieOf e.1 = die).flatMap fun e => e.2.misses.filter mine
    let s := s.walkFills die (s.walkPath ctx (page * 0x10000))
    let s := s.setDie die { s.die die with walks := (s.die die).walks.filter (· != (ctx, page)) }
    let s := l.foldl (fun s q => s.setCore q.core
      { s.core q.core with misses := (s.core q.core).misses.filter (!mine ·) }) s
    .next ((l.foldl State.fillWalk s).queueWalks die)

/-- R280, R293: a compute die's L2 gives up a line, its own dirty bytes or sectors written back. -/
def State.evictL2 (s : State) (die line : Nat) : State := (s.drainLine die line true).recallL2 die line true

/-- R14, R291: a slice of a die that holds more lines than it has room for gives one up, a free choice. -/
def State.makeRoom (s : State) (die : Nat) (lines : List Nat) : State :=
  let (r, s) := s.fresh
  match lines[r % lines.length]? with
  | some line => s.evictL2 die line
  | none => s

/-- CACHE_EVICTION: a compute die's L2 gives up a line, its own dirty bytes or sectors written back (R280, R293); for the
hub die its slice does. -/
def execCacheEviction (die line : Nat) (s : State) : Host.Outcome State Fault Refusal :=
  .next (if die < 12 then s.evictL2 die line else s.evictHub line)

end Sys2Proof.Machine
end

