-- ==== Sys2Proof/Machine/Power.lean ====
section
/-!
DEFINITION. The power manager: budget units and loans (R443, R444), caps, cluster clocks and fast
throttle (R42, R445-R447), lane groups and the in-rush queue (R372, R450).
-/

namespace Sys2Proof.Machine

/-! ### Budgets and loans (R443, R444) -/

/-- Change the budget of one kind of a die. -/
def State.setBudget (s : State) (die : Nat) (sustained : Bool) (f : Budget → Budget) : State :=
  let d := s.die die
  s.setDie die (if sustained then { d with sust := f d.sust } else { d with peak := f d.peak })

/-- A number that no loan has. -/
def State.newLoan (s : State) : Nat := s.loans.foldl (fun n l => max n (l.id + 1)) 0

/-- Whether the hub link of a die works (R13). -/
def State.hubUp (s : State) (d : Nat) : Bool :=
  if d < 12 then s.linkUp (16 + d) else d == 12 || s.linkUp (27 + d)

/-- R444: the sideband of working die-to-die links joins two dies, as ring neighbours or through the hub. -/
def State.nearBy (s : State) (a b : Nat) : Bool := decide (a < 12) && (s.ringUp a).any (·.2 == b)
def State.sideband (s : State) (a b : Nat) : Bool := s.nearBy a b || (s.hubUp a && s.hubUp b)

/-- R444: the dies that a request reaches: ring neighbours and the hub die, and through the hub, for what it cannot meet,
every other die. -/
def State.reachesLender (s : State) (borrower lender : Nat) (sustained : Bool) : Bool :=
  s.nearBy borrower lender ||
    (s.hubUp borrower && s.hubUp lender && (lender == 12 || borrower == 12 ||
      decide ((s.budget 12 sustained).holding ≤ s.demand 12 sustained)))

/-- R444: the surplus that a die lends: what its holding has above its demand, of its own units: one that it has borrowed
may end before the loan would, and would then be counted twice. -/
def State.surplus (s : State) (die : Nat) (sustained : Bool) : Nat :=
  let b := s.budget die sustained
  min (b.holding - s.demand die sustained) (b.own.toNat - b.lent.toNat)

/-- Units of a kind that have been lent to a die and have not reached it. -/
def State.onTheWay (s : State) (die : Nat) (sustained : Bool) : Nat :=
  s.loans.foldl (fun n l => if l.borrower = die ∧ l.sustained = sustained ∧ l.granted = false then n + l.units else n) 0

/-- R444: what a die lacks of a kind. -/
def State.short (s : State) (die : Nat) (sustained : Bool) : Nat :=
  s.demand die sustained - ((s.budget die sustained).holding + s.onTheWay die sustained)

/-- R444: a request of a control interval that reaches a die: it lends what its surplus covers of at most what the borrower
lacks. Of the requests of one interval and kind it serves those of lower die numbers first. -/
def State.lend (s : State) (lender borrower units at' : Nat) (sustained : Bool) : State :=
  let late := (lookup (s.die lender).served sustained).any fun x => x.1 == at' && decide (borrower < x.2)
  let n := min (min units (s.short borrower sustained)) (s.surplus lender sustained)
  if n = 0 ∨ late ∨ s.dtime / interval < at' ∨ s.reachesLender borrower lender sustained = false ∨ (s.die lender).cut ∨
      (s.die borrower).cut then s
  else
    let l : Loan := { id := s.newLoan, lender := lender, borrower := borrower, sustained := sustained,
                      units := n, granted := false, expiry := s.dtime + 1000000, renewed := false,
                      counted := false }
    let s := s.setBudget lender sustained fun b => { b with lent := b.lent + BitVec.ofNat 16 n }
    let d := s.die lender
    let s := s.setDie lender { d with served := assign d.served sustained (at', borrower) }
    { s.sampleDie lender with loans := s.loans ++ [l] }

/-- LOAN_REQUEST: `at'` is the control interval in which the request was sent. -/
def execLoanRequest (lender borrower units at' : Nat) (sustained : Bool) (s : State) :
    Host.Outcome State Fault Refusal :=
  if 17 ≤ lender ∨ 17 ≤ borrower ∨ lender = borrower then .fault .noSuchUnit
  else .next (s.lend lender borrower units at' sustained)

/-- R444: a die that lacks units of a kind asks its ring neighbours, the hub die, and through it the others. -/
def State.askFor (s : State) (die : Nat) (sustained : Bool) : State :=
  if s.short die sustained = 0 then s
  else
    let ring := (List.range 12).filter fun d => die < 12 && dieDistance die d == 1
    let order := ring ++ [12] ++ (List.range 17).filter fun d => !ring.contains d && d != 12
    (order.filter (· != die)).foldl (fun s lender => s.lend lender die (s.short die sustained) (s.dtime / interval) sustained) s

/-- R444: the requests of a die in a control interval, of either kind. -/
def State.askLoans (s : State) (die : Nat) : State := (s.askFor die false).askFor die true

/-- The loan of a number. -/
def State.loan (s : State) (k : Nat) : Option Loan := s.loans.find? (·.id == k)

def State.setLoan (s : State) (l : Loan) : State :=
  { s with loans := s.loans.map fun m => if m.id = l.id then l else m }

/-- The borrower starts, or stops, counting a loan. -/
def State.countLoan (s : State) (l : Loan) (on : Bool) : State :=
  let n := BitVec.ofNat 16 l.units
  let s := s.setBudget l.borrower l.sustained fun b =>
    { b with borr := if on then b.borr + n else b.borr - n }
  (s.setLoan { l with granted := true, counted := on }).sampleDie l.borrower

/-- LOAN_GRANT: the granted loan reaches the borrower. -/
def execLoanGrant (loan : Nat) (s : State) : Host.Outcome State Fault Refusal :=
  match s.loan loan with
  | none => .next s
  | some l => if l.granted ∨ l.expiry ≤ s.dtime + 10000 then .next s else .next (s.countLoan l true)

/-- LOAN_RENEWAL: an accepted renewal that is acknowledged in time; none crosses a cut link (R13). -/
def execLoanRenewal (loan : Nat) (accept : Bool) (s : State) : Host.Outcome State Fault Refusal :=
  match s.loan loan with
  | none => .next s
  | some l =>
    if accept = false ∨ l.counted = false ∨ l.expiry ≤ s.dtime + 10000 ∨ (s.die l.lender).cut ∨
        (s.die l.borrower).cut ∨ s.sideband l.borrower l.lender = false then .next s
    else .next (s.setLoan { l with expiry := s.dtime + 1000000, renewed := true })

/-- LOAN_STOP_COUNT: 10 µs before the expiry. -/
def execLoanStopCount (loan : Nat) (s : State) : Host.Outcome State Fault Refusal :=
  match s.loan loan with
  | none => .next s
  | some l => if l.counted ∧ l.expiry ≤ s.dtime + 10000 then .next (s.countLoan l false) else .next s

/-- LOAN_EXPIRY: the units return to the lender. -/
def execLoanExpiry (loan : Nat) (s : State) : Host.Outcome State Fault Refusal :=
  match s.loan loan with
  | none => .next s
  | some l =>
    if s.dtime < l.expiry then .next s
    else
      let s := if l.counted then s.countLoan l false else s
      let s := s.setBudget l.lender l.sustained fun b => { b with lent := b.lent - BitVec.ofNat 16 l.units }
      .next { s.sampleDie l.lender with loans := s.loans.filter (·.id != loan) }

/-! ### Clocks (R42, R445, R446, R449) -/

/-- R445: a cap is a multiple of 50 MHz from 450 to 2,200. -/
def capOf (mhz : Nat) : Nat := max 450 (min 2200 (mhz / 50 * 50))

/-- R446: the decision for a cluster: clock, and whether the thermal cap, the current cap or a boost
decides it. -/
def decideClock (throttled : Bool) (boost : Option Nat) (thermal current : Nat) : Nat × Bool × Bool × Bool :=
  let base := min 1800 (min thermal current)
  let plain := (base, thermal == base && decide (thermal < 1800), current == base && decide (current < 1800), false)
  if throttled then (450, false, false, false)
  else match boost with
    | some b => if b ≤ thermal ∧ b ≤ current then (b, false, false, true) else plain
    | none => plain

/-- R449: the load-store level of a cluster: the smallest at which its predicted draw fits with the rest of what the die is
charged: at level 0 its draw at the decided clock; at levels 1 and 2 the shares of that draw, in 1 / 256, that the power
manager predicts, each in a byte of `predicted`. -/
def State.loadLevel (s : State) (q : Nat × Nat) (mhz predicted : Nat) : BitVec 2 :=
  let draw := drawRate (Config.dieClass s.blend q.1) * (s.cluster q).activity * mhz
  let rest := s.dieDraw q.1 - s.clusterDraw q
  let fits (share : Nat) : Bool := decide (256 * rest + draw * share ≤ s.drawLimit q.1 * powerUnit * 256)
  if fits 256 then 0 else if fits (predicted % 256) then 1 else if fits (predicted / 256 % 256) then 2 else 3

/-- The clock of a cluster changes, and what it and its die draw (R22, R443). -/
def State.setClock (s : State) (q : Nat × Nat) (mhz : Nat) (thc cuc bst : Bool) : State :=
  ((s.setCluster q ((s.cluster q).reclock s.dtime mhz thc cuc bst)).sampleCluster q).sampleDie q.1

/-- POWER_CONTROL_INTERVAL: at a boundary of 10 µs, with what was measured of a cluster over the last interval: the
thermal cap that the sensors predict, its activity, and what the load-store levels are predicted to save. The current cap
follows from what the die is charged and holds (R445), then the boost and the clock (R446); a die that lacks units asks for
them (R444). The number behind a die's clusters stands for its HBM4E stack or its optics, of which only the activity counts
(R22). -/
def execPowerControlInterval (die cluster thermal activity level : Nat) (s : State) :
    Host.Outcome State Fault Refusal :=
  let k := (die, cluster)
  if 17 ≤ die ∨ clustersOn s.blend die < cluster then .fault .noSuchUnit
  else if s.dtime % interval ≠ 0 then .next s
  else if cluster = clustersOn s.blend die then
    .next ((((s.setDie die { s.die die with activity := min 1000 activity }).amendDie die).sampleDie die).askLoans die)
  else
    let (s, boost) := (s.measured k (min 1000 activity)).boostGrant k
    let (mhz, thc, cuc, bst) := decideClock s.throttled boost (capOf thermal) (s.currentCap k)
    let s := s.setCluster k { s.cluster k with lvl := s.loadLevel k mhz level, boost := boost }
    .next ((s.setClock k mhz thc cuc bst).askLoans die)

/-! ### Fast throttle (R446, R447) -/

/-- Every cluster of the package runs at 450 MHz. -/
def State.slowAll (s : State) : List (Nat × Nat) → State
  | [] => s
  | k :: rest => (s.setClock k 450 false false false).slowAll rest

/-- An alarm input is raised. The event is recorded on the hub die. -/
def State.alarm (s : State) (src : BitVec 2) : State :=
  let th := s.throttle
  let s := { s with throttle := { th with alarms := putBit th.alarms src.toNat true, active := true, settle := none } }
  if th.active then s
  else (s.slowAll (allClusters s.blend)).record 12 0x04 0xFFFF (Config.eventArg 0x04 [src.toNat])

/-- An alarm input goes clear. -/
def State.clearAlarm (s : State) (src : BitVec 2) : State :=
  let th := s.throttle
  let a := putBit th.alarms src.toNat false
  { s with throttle := { th with alarms := a, clearSince := if a = 0 ∧ th.alarms ≠ 0 then s.dtime else th.clearSince } }

/-- FAST_THROTTLE_ALARM. -/
def execFastThrottleAlarm (src : BitVec 2) (s : State) : Host.Outcome State Fault Refusal := .next (s.alarm src)

/-- FAST_THROTTLE_ALARM_CLEAR: of a sensor, the package current or the external input; the service
alarm is cleared by its command. -/
def execFastThrottleAlarmClear (src : BitVec 2) (s : State) : Host.Outcome State Fault Refusal :=
  .next (if src = 3 then s else s.clearAlarm src)

/-- FAST_THROTTLE_RELEASE: every input has been clear for 1 ms. -/
def execFastThrottleRelease (s : State) : Host.Outcome State Fault Refusal :=
  let th := s.throttle
  if th.active ∧ th.alarms = 0 ∧ th.clearSince + 1000000 ≤ s.dtime then
    .next ({ s with throttle := { th with active := false, settle := some (s.dtime + 2000) } }.record 12 0x05 0xFFFF
      (Config.eventArg 0x05 []))
  else .next s

/-- THROTTLE_SETTLE_END. -/
def execThrottleSettleEnd (s : State) : Host.Outcome State Fault Refusal :=
  match s.throttle.settle with
  | some e => if e ≤ s.dtime then .next { s with throttle := { s.throttle with settle := none } } else .next s
  | none => .next s

/-! ### Time (R444, R446) -/

/-- When the next loan stops counting or expires, or a settle ends. -/
def State.dues (s : State) : List Nat :=
  s.loans.flatMap (fun l => if l.counted then [l.expiry - 10000] else [l.expiry]) ++ s.throttle.settle.toList

/-- What is due now takes place. -/
def State.runDue (s : State) : State :=
  let next (s : State) (o : Host.Outcome State Fault Refusal) : State := match o with
    | .next t => t
    | _ => s
  let s := s.loans.foldl (fun s l => next s (execLoanStopCount l.id s)) s
  let s := s.loans.foldl (fun s l => next s (execLoanExpiry l.id s)) s
  next s (execThrottleSettleEnd s)

/-- Device time goes on to a moment, in turn by what is due before it. -/
def State.elapseTo (s : State) (until' : Nat) : Nat → State
  | 0 => { s with dtime := until' }
  | n + 1 => match (s.dues.filter fun t => decide (t ≤ until')).min? with
    | none => { s with dtime := until' }
    | some t => ({ s with dtime := max t s.dtime }.runDue).elapseTo until' n

/-- Device time passes (R452). What the dies have drawn until now is sampled first (R443). -/
def State.elapse (s : State) (ns : Nat) : State :=
  (s.sampleDies 17).elapseTo (s.dtime + ns) (2 * s.loans.length + 1)

/-! ### Lane groups (R372, R450) -/

/-- The state of a lane group. -/
def State.lane (s : State) (core lg : Nat) : LaneGroup := ((s.core core).lanes[lg]?).getD .active

def State.setLane (s : State) (core lg : Nat) (x : LaneGroup) : State :=
  let c := s.core core
  s.setCore core { c with lanes := c.lanes.setIfInBounds lg x }

/-- Lane groups of a die that are not powered. -/
def State.lanesDown (s : State) (die : Nat) : Nat :=
  ((s.cores.filter fun e => dieOf e.1 == die).map fun e =>
    (e.2.lanes.toList.filter fun l => !l.ready s.dtime).length).foldl (· + ·) 0

/-- R450: no element group has used the lane group for 1 µs, and no hart that owns a lane of it has a vector instruction
to run, unless it waits. -/
def State.laneIdle (s : State) (core lg : Nat) : Bool :=
  decide (((s.core core).laneUsed[lg]?).getD 0 + 1000 ≤ s.dtime) && s.all.all fun t =>
    !(t.core == core && t.run == .run && ownsLane (s.core core).harts t.slot lg) || t.vq.isEmpty

/-- R450: a hart that owns a lane of the group has an element group to run. -/
def State.laneNeeded (s : State) (core lg : Nat) : Bool :=
  s.all.any fun t => t.core == core && (t.run == .run || t.run == .waitb) && ownsLane (s.core core).harts t.slot lg &&
    (s.candidate t).isSome

/-- An event at a lane group of a V-core. -/
def onLane (core lg : Nat) (f : LaneGroup → State → State) (s : State) : Host.Outcome State Fault Refusal :=
  if s.cls core = some .v ∧ lg < 4 then .next (f (s.lane core lg) s) else .fault .noSuchUnit

/-- LANE_GROUP_POWER_DOWN: at most 112 of one die. -/
def execLaneGroupPowerDown (core lg : Nat) : State → Host.Outcome State Fault Refusal :=
  onLane core lg fun l s =>
    if l.ready s.dtime ∧ s.laneIdle core lg ∧ s.lanesDown (dieOf core) < 112 then
      (s.setLane core lg (.hold s.dtime false)).count core 11
    else s

/-- A lane group joins the in-rush queue of its die. -/
def State.queueLane (s : State) (core lg : Nat) : State :=
  let s := s.setLane core lg .queued
  let d := s.die (dieOf core)
  s.setDie (dieOf core) { d with inrush := d.inrush ++ [(core, lg)] }

/-- BREAK_EVEN_HOLD_END: 200 ns after the power-down. -/
def execBreakEvenHoldEnd (core lg : Nat) : State → Host.Outcome State Fault Refusal :=
  onLane core lg fun l s =>
    match l with
    | .hold since wake =>
      if s.dtime < since + 200 then s
      else if wake then s.queueLane core lg else s.setLane core lg .down
    | _ => s

/-- LANE_GROUP_WAKE: an element group needs the lane group (R450); in the first 40 ns the wake cancels the
power-down. -/
def execLaneGroupWake (core lg : Nat) : State → Host.Outcome State Fault Refusal :=
  onLane core lg fun l s =>
    if s.laneNeeded core lg = false then s
    else match l with
    | .hold since false =>
      let s := s.count core 12
      s.setLane core lg (if s.dtime < since + 40 then .active else .hold since true)
    | .down => (s.count core 12).queueLane core lg
    | _ => s

/-- Serve requests of the in-rush queue: each is ready at the next boundary. -/
def State.serveLanes (s : State) (ready : Nat) : List (Nat × Nat) → State
  | [] => s
  | (core, lg) :: rest => (s.setLane core lg (.waking ready)).serveLanes ready rest

/-- Lane groups of a die that the boundary has already served. -/
def State.servedAt (s : State) (die ready : Nat) : Nat :=
  ((s.cores.filter fun e => dieOf e.1 == die).map fun e =>
    (e.2.lanes.toList.filter (· == .waking ready)).length).foldl (· + ·) 0

/-- INRUSH_SERVICE: at a 100 ns boundary, at most 4 requests, first in, first out. -/
def execInrushService (die : Nat) (s : State) : Host.Outcome State Fault Refusal :=
  if s.dtime % 100 ≠ 0 then .next s
  else
    let ready := s.dtime + 100
    let n := 4 - s.servedAt die ready
    let d := s.die die
    .next ((s.setDie die { d with inrush := d.inrush.drop n }).serveLanes ready (d.inrush.take n))

end Sys2Proof.Machine
end

