-- ==== Sys2Proof/Machine/Service.lean ====
section
/-!
DEFINITION. Links and cut-off dies (R478-R482), host, CXL and Ultra Ethernet (R473-R475, R484), the
service commands (R476, R477, R487-R489), the black-box record (R490, R491), power-up, reset and power
loss (R279, R485-R488), and the arena fault (R298).
-/

namespace Sys2Proof.Machine

/-! ### The black-box record (R301, R490, R491) -/

/-- A ring freezes; what it held before in flash is no dump of it. -/
def State.freeze (s : State) (die : Nat) : State :=
  let d := s.die die
  if d.frozen then s else s.setDie die { d with frozen := true, dumped := false }

/-- A fatal event on a die. -/
def State.fatalEvent (s : State) (die : Nat) : State :=
  (s.record die 0x0F 0xFFFF (Config.eventArg 0x0F [die])).freeze die

/-- Freeze several dies' rings. -/
def State.freezeAll (s : State) : List Nat → State
  | [] => s
  | d :: rest => (s.freeze d).freezeAll rest

/-- R47: a migration packet has CAUSE at or above 4, or a nonzero bit in a zero field. -/
def packetMalformed (p : BitVec 2304) : Bool :=
  let f (lo n : Nat) : Nat := bits p.toNat lo n
  decide (4 ≤ f 48 8) || f 44 4 != 0 || f 61 3 != 0 || f 200 1 != 0 || f 240 16 != 0

/-- R47, R490: a core discards a malformed packet and records that. -/
def State.strayPacket (s : State) (core : Nat) (p : BitVec 2304) : State :=
  if (s.cls core).isSome ∧ packetMalformed p then s.record (dieOf core) 0x06 core (Config.eventArg 0x06 [core]) else s

/-- FIRMWARE_FAULT. -/
def execFirmwareFault (die : Nat) (s : State) : Host.Outcome State Fault Refusal :=
  if 17 ≤ die then .fault .noSuchUnit else .next (s.fatalEvent die)

/-- BLACKBOX_DUMP_COMPLETE: a frozen ring goes to the next of 16 dump slots of its die. -/
def execBlackboxDumpComplete (die : Nat) (s : State) : Host.Outcome State Fault Refusal :=
  let d := s.die die
  if 17 ≤ die then .fault .noSuchUnit
  else if d.frozen = false ∨ d.dumped then .next s
  else
    let n := (lookup s.flash.dumpNext die).getD 0
    let f := s.flash
    let f := { f with dumpSlots := assign f.dumpSlots (die, n) d.ring,
                      dumpNext := assign f.dumpNext die ((n + 1) % 16) }
    let s := s.setDie die { d with dumped := true, dumps := if d.dumps = 0xFFFF then d.dumps else d.dumps + 1 }
    .next { s with flash := f }

/-! ### Cut-off dies (R13, R481) -/

/-- The dies a set of dies reaches over one more working ring link. -/
def State.spread (s : State) (l : List Nat) : List Nat :=
  (List.range 12).filter fun d => l.contains d || (s.ringUp d).any fun r => l.contains r.2

/-- The compute dies from which a working path joins the hub die. -/
def State.reachHub (s : State) : List Nat :=
  (List.range 12).foldl (fun l _ => s.spread l) ((List.range 12).filter fun d => s.linkUp (16 + d))

/-- The threads of a die that end with it: those on its cores and in their run queues and buffers. -/
def State.threadsOn (s : State) (die : Nat) : List TRef :=
  (s.all.filter fun t => match t.mig with
    | some m =>
      if t.run = .transit ∧ m.injected then
        s.cores.any fun e => dieOf e.1 == die && (e.2.arrivals ++ e.2.refusals).contains t.ref
      else dieOf t.core == die
    | none => dieOf t.core == die && (t.run != .saved || t.restoredRun)).map (·.ref)

/-- R481: the outstanding accesses of a thread are discarded. -/
def State.dropXfers (s : State) (r : TRef) : State :=
  { s with cores := s.cores.map fun e =>
      (e.1, { e.2 with streamQ := e.2.streamQ.filter (·.ref != r),
                       xfer := e.2.xfer.filter (·.ref != r),
                       arrivals := e.2.arrivals.filter (· != r)
                       refusals := e.2.refusals.filter (· != r) }) }

/-- R481: a fatal fault ends threads at once. -/
def State.killThreads (s : State) : List TRef → State
  | [] => s
  | r :: rest => ((s.dropXfers r).onThread r (·.finish true)).killThreads rest

/-- R409: STATE := 2 in every valid entry that names a core of a die. -/
def State.fenceEntries (s : State) (die : Nat) : State :=
  { s with tables := s.tables.map fun e =>
      if namesCore (tfield e.2 4 2) e ∧ dieOf (tfield e.2 4 2) = die then
        (e.1, tput (tput e.2 1 1 2) 2 2 (tfield e.2 2 2 + 1))
      else e }

/-- R481: the caches of a die hold no line. -/
def State.emptyCaches (s : State) (die : Nat) : State :=
  let s := s.setDie die { s.die die with lines := [], l2 := [] }
  { s with cores := s.cores.map fun e =>
      if dieOf e.1 = die then (e.1, { e.2 with l1 := [], sectors := [] }) else e }

/-- R481, R431: a cut-off C-die quarantines its own cores. Their table entries are fenced on the surviving side, and no
thread is left to move. -/
def State.quarantineOwn (s : State) (die : Nat) : Nat → State
  | 0 => s
  | n + 1 =>
    let core := 4096 * die + n
    let c := s.core core
    let s := s.setCore core { c with guard := true, quarantined := true, acted := true,
                                     age := { c.age with quar := true }, stored := { c.stored with quar := true } }
    (s.record die 0x02 core (Config.eventArg 0x02 [core])).quarantineOwn die n

/-- R481: a die is cut off. The surviving side records it on the hub die; a C-die fences itself. An O-die has no core,
cache or entry to lose. -/
def State.cutOff (s : State) (die : Nat) : State :=
  let d := s.die die
  if d.cut then s
  else
    let s := s.setDie die { d with cut := true, cutSince := s.dtime }
    let s := s.record 12 0x0A 0xFFFF (Config.eventArg 0x0A [die])
    if 12 ≤ die then s
    else
      let s := (s.emptyCaches die).fenceEntries die
      let s := s.killThreads (s.threadsOn die)
      let s := s.record 12 0x03 0xFFFF (Config.eventArg 0x03 [die])
      if die = 5 ∨ die = 11 then
        let u := if die = 5 then 0 else 1
        ((s.setUnit u { s.unit u with fenced := true }).quarantineOwn die (Config.coresOn .c)).fatalEvent die
      else s

/-- Cut off every die of a list. -/
def State.cutAll (s : State) : List Nat → State
  | [] => s
  | d :: rest => (s.cutOff d).cutAll rest

/-! ### Links (R478-R480) -/

/-- The die that records a link's failure: the one from which the link starts. -/
def linkDie (l : Nat) : Nat :=
  if l < 16 then 13 + l / 4 else if l < 28 then l - 16 else if l < 40 then l - 28 else 13 + (l - 40)

/-- The network interface of the hub die, whose retry buffers hold the packets that pass through (R479). -/
def hubCore : Nat := 12 * 4096

/-- R479: of the packets that pass through this package, those that meet a condition or have no path left go back to their
sources. -/
def State.returnPackets (s : State) (lost : Msg → Bool) : State :=
  let c := s.core hubCore
  let back (m : Msg) : Bool := lost m || (s.path hubCore m).isNone
  let gone := c.retry.filter back
  if gone = [] then s
  else
    let s := s.setCore hubCore { c with retry := c.retry.filter (!back ·) }
    { s with links := { s.links with returned := s.links.returned ++ gone.map Msg.once
                                     frames := s.links.frames.filter fun f => !gone.any (f.carries hubCore ·) } }

/-- R478, R479, R481: a link is declared failed; its frames are gone, and their messages wait again in the
retry buffers that keep them, or go back to the packages that sent them. An O-die without its hub link is cut off and
carries no fabric link. -/
def State.failLink (s : State) (l : Nat) : State :=
  if s.linkUp l = false then s
  else
    let with' := if 40 ≤ l then [l] ++ (List.range 4).map fun k => 4 * (l - 40) + k else [l]
    let x := s.links
    let fresh := with'.filter (!x.failed.contains ·)
    let s := { s with links := { x with failed := x.failed ++ fresh,
                                        failedAt := x.failedAt ++ fresh.map fun k => (k, s.dtime),
                                        frames := x.frames.filter fun f => !with'.contains f.link } }
    let s := s.record (linkDie l) 0x09 0xFFFF (Config.eventArg 0x09 [l])
    let s := s.returnPackets fun m => x.frames.any fun f => with'.contains f.link && f.carries hubCore m
    let up := s.reachHub
    s.cutAll (((List.range 12).filter fun d => !up.contains d) ++ if 40 ≤ l then [l - 27] else [])

/-- An event at a link of the package. -/
def onLink (l : Nat) (f : State → State) (s : State) : Host.Outcome State Fault Refusal :=
  if l < 44 then .next (f s) else .fault .noSuchUnit

/-- LINK_FAILURE. -/
def execLinkFailure (link : Nat) : State → Host.Outcome State Fault Refusal := onLink link (·.failLink link)

/-- LINK_NAK: after three resends of one frame the link fails; else the frame and every later frame of
its channel are sent again. -/
def execLinkNak (link : Nat) (chan : BitVec 2) (seq : Nat) : State → Host.Outcome State Fault Refusal :=
  onLink link fun s =>
    match s.links.frames.find? fun f => f.link == link && f.chan == chan && f.seq == seq with
    | none => s
    | some f =>
      let mine (g : Frame) : Bool := g.link == link && g.chan == chan && g.dest == f.dest
      if 3 ≤ f.resends then s.failLink link
      else
        let again (g : Frame) : Frame :=
          if mine g ∧ seq ≤ g.seq then
            { g with sent := s.dtime, resends := if g.seq = seq then g.resends + 1 else g.resends }
          else g
        { s with links := { s.links with frames := s.links.frames.map again } }

/-- LINK_ACK_TIMEOUT: 10 µs with frames outstanding and none acknowledged. -/
def execLinkAckTimeout (link : Nat) : State → Host.Outcome State Fault Refusal :=
  onLink link fun s =>
    let old := s.links.frames.any fun f => f.link == link && decide (f.sent + 10000 ≤ s.dtime)
    let quiet := decide ((lookup s.links.acked link).getD 0 + 10000 ≤ s.dtime)
    if old ∧ quiet then s.failLink link else s

/-- The message of a frame (R390), with the package it goes to; its destination core follows from this package's tables
(R411). -/
def State.msgOfFrame (s : State) (x : Nat) : Msg :=
  let f (lo n : Nat) : Nat := bits x lo n
  let ctx := f 32 12
  let chan := f 48 12
  let core := match s.channel ctx chan with
    | some e => (s.corePhys ctx e.dlcore).getD 0xFFFF
    | none => 0xFFFF
  { cls := f 60 2, sender := { ctx := ctx, tid := 0 }, dstPkg := f 16 14, dstCore := core, dstCtx := ctx,
    chan := chan, len := f 64 16, data := BitVec.ofNat 2048 (x / 2 ^ 256), srcCore := f 80 16, srcPkg := f 96 16,
    seq := BitVec.ofNat 64 (f 128 64), time := BitVec.ofNat 64 (f 192 64), pa := chan % 2 * 0x1000000,
    refused := false }

/-- A packet from another package: accepted once, and false where there is no room for it or no path to the die it goes to
(its way within the package is no step of its own, log entry 2). One for a third package goes on to it, or back to its
source (R479). -/
def State.takePacket (s : State) (m : Msg) : State × Bool :=
  if m.dstPkg ≠ s.manifest.package then
    let c := s.core hubCore
    ((s.setCore hubCore { c with retry := c.retry ++ [m] }).returnPackets fun _ => false, true)
  else if s.links.accepted.contains m.once then (s, true)
  else
    let (s, ok) := if m.cls = 3 then ((s.offerToken m.unit { m.token 0 with core := none }).1, true) else s.deliver m
    if ok then ({ s with links := { s.links with accepted := m.once :: s.links.accepted } }, true) else (s, false)

/-- A request of another package on channel 0: a write of up to 32 bytes, with the address in [63:0], the
length in [71:64], the write flag in [72], the source core and package in [111:80], the sequence number in [191:128] and
the data from bit 256 (log entry 2). One that was performed before is not performed again (R480). -/
def State.takeRequest (s : State) (x : Nat) : State :=
  let pa := bits x 0 42
  let n := min 32 (bits x 64 8)
  let key : Nat × Nat × Nat × Word := (bits x 96 16 * 65536 + bits x 80 16, 0x20000, 4, BitVec.ofNat 64 (bits x 128 64))
  if bits x 72 1 = 0 ∨ s.links.accepted.contains key then s
  else
    let s := { s with links := { s.links with accepted := key :: s.links.accepted } }
    if s.region pa = .nowhere then s else s.storeAt 12 { pa := pa, attr := 0 } n (bits x 256 (8 * n))

/-- LINK_FRAME_RECEIVE: a frame in order, whole and with room for it is accepted; any other is discarded,
with a negative acknowledgement unless it was accepted before. The message and the escape channel carry packets, the
request channel writes; a response answers an access that the model has performed at once (log entry 2). -/
def execLinkFrameReceive (link : Nat) (chan : BitVec 2) (seq : Nat) (crcOk room : Bool) (msg : BitVec 2304) :
    State → Host.Outcome State Fault Refusal :=
  onLink link fun s =>
    if s.linkUp link = false then s
    else
      let n := (lookup s.links.rxNext (link, chan.toNat)).getD 0
      let nak (s : State) : State :=
        if seq < n then s else { s with links := { s.links with naks := s.links.naks ++ [(link, chan.toNat, seq)] } }
      if crcOk = false ∨ room = false ∨ seq ≠ n then nak s
      else
        let (s, ok) := if 2 ≤ chan then s.takePacket (s.msgOfFrame msg.toNat)
          else if chan = 0 then (s.takeRequest msg.toNat, true) else (s, true)
        if ok then { s with links := { s.links with rxNext := assign s.links.rxNext (link, chan.toNat) (n + 1) } }
        else nak s

/-- The local physical address of a byte that a thread names (R281, R295). -/
def State.physOf (s : State) (va : Nat) : Option Nat :=
  match (s.translate s.cur.core s.cur.ctx va false false).2 with
  | .ok e => some (s.canon (e.pbase + (va - e.vbase)))
  | .error _ => none

/-- R482: 100 µs have passed since a device time. -/
def State.longSince (s : State) (t : Nat) : Bool := decide (t + 100000 ≤ s.dtime)

/-- The package with the links that have been failed, and the dies that have been cut off, for 100 µs alone. -/
def State.lasting (s : State) : State :=
  { s with
    links := { s.links with failed := s.links.failed.filter fun l => s.longSince ((lookup s.links.failedAt l).getD 0) }
    dies := s.dies.map fun d => (d.1, { d.2 with cut := d.2.cut && s.longSince d.2.cutSince }) }

/-- R482: no path from the die of a core to another package has worked for 100 µs. -/
def State.unreachable (s : State) (core package : Nat) : Bool :=
  (s.lasting.die (dieOf core)).cut || (s.lasting.pathsOut (dieOf core) package).isEmpty

/-- R482: a message has had no working path for 100 µs. -/
def State.stranded (s : State) (core : Nat) (m : Msg) : Bool :=
  s.longSince m.time.toNat && (s.lasting.path core m).isNone

/-- R482: the first stranded message of a thread is discarded. -/
def State.giveUpMessage (s : State) (r : TRef) : List (Nat × CoreSt) → State
  | [] => s
  | (k, c) :: rest => match c.retry.find? fun m => m.sender == r && s.stranded k m with
    | some m => ((s.dropFrame k m).setMsg k m none).discard (dieOf k) k m
    | none => s.giveUpMessage r rest

/-- R482: a fabric access of the current thread to a byte is given up where its package has been out of reach. -/
def State.giveUpAccess (s : State) (addr : Word) (f : Nat → State) : State :=
  match s.physOf addr.toNat with
  | none => s
  | some pa => match s.region pa with
    | .fabric package _ => if s.unreachable s.cur.core package then f pa else s
    | _ => s

/-- FABRIC_GIVE_UP: kind 0 a load or atomic of a thread, kind 1 a store, else a message or token. -/
def execFabricGiveUp (kind c t : Nat) (addr : BitVec 64) (s : State) : Host.Outcome State Fault Refusal :=
  let r : TRef := { ctx := c, tid := t }
  .next (if kind = 0 then
      s.onThread r fun s => s.giveUpAccess addr fun pa => { s with failing := some (s.cur.ref, pa) }
    else if kind = 1 then
      s.onThread r fun s => s.giveUpAccess addr fun _ => { s with cur := s.cur.storeFailed addr }
    else s.giveUpMessage r s.cores)

/-! ### Host, CXL, Ultra Ethernet (R473-R475, R484) -/

/-- The local physical address of a host access, if it lies in a region that its aperture maps. -/
def State.hostPlace (s : State) (bar2 : Bool) (off len : Nat) : Option Nat :=
  let pa := if bar2 then off else 0x020000000000 + off
  let inside := if bar2 then decide (off + len ≤ 2 ^ 40) else decide (off + len ≤ 2 ^ 32)
  if inside ∧ s.region pa ≠ .nowhere ∧ inAperture pa = false then some pa else none

/-- HOST_ACCESS: a read, or a write of data, of up to 64 bytes, through the host port of a C-die (R473). One aligned
64-byte write into a token window is one token. -/
def execHostAccess (u : Nat) (bar2 : Bool) (off len : Nat) (data : Option (BitVec 512)) (s : State) :
    Host.Outcome State Fault Refusal :=
  if 2 ≤ u then .fault .noSuchUnit
  else if (s.unit u).hostPort = false ∨ (s.die (unitDie u)).cut then .next s
  else match s.hostPlace bar2 off len with
  | none => .next s
  | some pa =>
    let src : BitVec 16 := BitVec.ofNat 16 (s.manifest.package + 0x4000)
    let n := min 64 len
    match data with
    | none => .next (s.loadAt 12 { pa := pa, attr := 0 } n).1
    | some w =>
      if s.region pa = .device then
        if pa < 0x020002000000 ∧ pa % 0x1000000 < 0x10000 ∧ pa % 64 = 0 ∧ len = 64 then
          .next (s.offerToken (pa / 0x1000000 % 2) { tok := w, time := 0, src := src, whole := true }).1
        else .next (s.devWrite pa n w.toNat src)
      else .next (s.storeAt 12 { pa := pa, attr := 0 } n (w.toNat % 2 ^ (8 * n)))

/-- CXL_COMPLETION_TIMEOUT: the access of a thread to the CXL tier fails (R475): a load or atomic with code 0x0C, a store
as R251 says. -/
def execCxlCompletionTimeout (c t : Nat) (addr : BitVec 64) (s : State) : Host.Outcome State Fault Refusal :=
  .next (s.onThread { ctx := c, tid := t } fun s => match s.physOf addr.toNat with
    | none => s
    | some pa => if s.region pa = .cxl then { s with failing := some (s.cur.ref, pa) } else s)

/-- Every die gives up its copies of a line. -/
def State.backInvalidate (s : State) (line : Nat) : Nat → State
  | 0 => s
  | d + 1 => ((s.drainLine d line true).recallL2 d line true).backInvalidate line d

/-- R475: no cache of the package holds a line any more; dirty sectors have gone to its home. -/
def State.giveUpLine (s : State) (line : Nat) : State :=
  ((s.recallStash line true 0 none).backInvalidate line 12).evictHub line

/-- CXL_BACK_INVALIDATE. -/
def execCxlBackInvalidate (line : Nat) (s : State) : Host.Outcome State Fault Refusal :=
  .next (if s.region (256 * line) = .cxl then s.giveUpLine line else s)

/-- CXL_POOL_HOST_WRITE: the line is recalled first, as a shared line stays coherent with the other hosts (R475). -/
def execCxlPoolHostWrite (pa : Nat) (data : BitVec 8) (s : State) : Host.Outcome State Fault Refusal :=
  .next (if s.region pa = .cxl then
      let s := s.giveUpLine (pa / 256)
      { s with mem := writeByte s.mem pa data }.fireAt none pa 1
    else s)

/-- ULTRA_ETHERNET_RECEIVE: a peer's read of local memory, or write of data, of up to 64 bytes, through one of eight ports, four on each
C-die (R483). A write into a scratchpad fills the granules that it covers (R288); whether it brings the last byte of one that it
covers in part is a free choice, since the event does not say where the peer's transfer ends. -/
def execUltraEthernetReceive (port pa len : Nat) (data : Option (BitVec 512)) (s : State) :
    Host.Outcome State Fault Refusal :=
  let n := min 64 len
  let p : Place := { pa := pa, attr := 0 }
  if 8 ≤ port then .fault .noSuchUnit
  else if (s.die (unitDie (port / 4))).cut then .next s
  else match data with
    | none => .next s
    | some w =>
      let t := s.storeAt 12 p n (w.toNat % 2 ^ (8 * n))
      .next (match s.region pa with
        | .hbm | .cxl => t
        | .scratch _ _ =>
          let (r, t) := t.fresh
          let lo := if pa % 16 = 0 ∨ r.testBit 0 then pa / 16 else pa / 16 + 1
          let hi := if (pa + n) % 16 = 0 ∨ r.testBit 1 = false then (pa + n) / 16 else (pa + n) / 16 + 1
          t.setFullFrom lo (hi - lo)
        | _ => s)

/-- R476, R477: the registers of a launch-unit range that software sets or triggers something with. -/
def serviceRegister (pa : Nat) : Bool :=
  decide (0x020000000000 ≤ pa) && decide (pa < 0x020002000000) && decide (0x10180 ≤ pa % 0x1000000) &&
    decide (pa % 0x1000000 < 0x10198)

/-- Whether a device-window address has no behaviour of its own (R7). -/
def plainRegister (pa : Nat) : Bool :=
  !(decide (pa < 0x020002000000) && decide (pa % 0x1000000 < 0x10198)) &&
    !(decide (0x020010000000 ≤ pa) && decide (pa < 0x020010000000 + 17 * 0x20000)) && !inAperture pa

/-- REGISTER_WRITE: the field is set, or the action of R477 triggered (R7, R476). -/
def execRegisterWrite (pa : Nat) (v : BitVec 64) (s : State) : Host.Outcome State Fault Refusal :=
  .next (if s.region pa = .device ∧ plainRegister pa then { s with mem := writeNat s.mem pa 8 v.toNat }
    else if serviceRegister pa ∧ pa % 8 = 0 then s.devWriteWord pa 8 v.toNat
    else s)

/-! ### What the outside writes (R281, R466, R475, R484) -/

/-- R475: capacity of a CXL device is added or released. -/
def State.setCapacity (s : State) (base len : Nat) (present : Bool) : State :=
  { s with capacity := (base, len, present) :: s.capacity }

/-- Another package writes a byte of its own memory: the line is recalled first. -/
def State.peerWrite (s : State) (pa : Nat) (data : BitVec 8) (full : Bool) : State :=
  match s.region pa with
  | .fabric _ .hbm =>
    let s := s.giveUpLine (pa / 256)
    { s with mem := writeByte s.mem pa data }.fireAt none pa 1
  | .fabric _ .window =>
    let s := { s with mem := writeByte s.mem pa data }.fireAt none pa 1
    if full then s.setFull (pa / 16) else s
  | .fabric _ .device => { s with mem := writeByte s.mem pa data }
  | _ => s

/-- A peer in another load-store domain writes a byte of its memory (R484). -/
def State.remoteWrite (s : State) (peer : BitVec 128) (job : BitVec 32) (addr : Word) (data : BitVec 8) : State :=
  { s with peers := writeByte s.peers (peer.toNat * 2 ^ 96 + job.toNat * 2 ^ 64 + addr.toNat) data }

/-- R479: the packet of a frame sent through a third package has come back, and takes the next path. -/
def State.packetBack (s : State) (link seq : Nat) : State :=
  match s.links.frames.find? fun f => f.link == link && f.seq == seq && f.dest == 17 && f.core != hubCore with
  | none => s
  | some f => match f.msg with
    | none => s
    | some m =>
      let s := s.dropFrame f.core m
      let c := s.core f.core
      let on (q : Msg) : Msg := if f.carries f.core q then { q with tried := q.tried + 1 } else q
      s.setCore f.core { c with retry := c.retry.map on }

/-- One more leg of a message's way (R478). -/
def State.hopInput (s : State) (core cls k : Nat) : State :=
  let buf := s.retryOf core cls
  match buf[k]? with
  | some m => if mayOffer buf k m ∧ s.links.frames.any (·.carries core m) = false ∨
        s.links.frames.any (fun f => f.carries core m && f.rest != []) then (s.hop core m).1 else s
  | none => s

/-! ### Power-up, reset and power loss (R279, R485-R488, R491) -/

/-- The cores after a reset, each with its plan and counters from flash. -/
def bootCores (now : Nat) : Nat → List (Nat × CoreSt) → Nat × List (Nat × CoreSt)
  | free, [] => (free, [])
  | free, (k, c) :: rest =>
    let a := c.stored.load now (Config.freeNat free) (Config.freeNat (free + 1))
    let c := { CoreSt.reset k now with age := a, stored := c.stored.kept a, step := a.plan.start, top := a.plan.top,
                                       guard := a.quar, quarantined := a.quar }
    let (free, l) := bootCores now (free + 2) rest
    (free, (k, c) :: l)

/-- The cores without power, or held by the boot ROM: no plan is loaded or applied (R436), and what was not written to
flash is lost (R437). -/
def coldCores (now : Nat) (l : List (Nat × CoreSt)) : List (Nat × CoreSt) :=
  l.map fun e => (e.1, { CoreSt.reset e.1 now with age := e.2.stored, stored := e.2.stored })

/-- R443, R486: the dies with their shares of the manifest's allocations; `keep` makes of the dies before
what outlives the reset. -/
def bootDies (m : Manifest) (keep : Nat → DieSt → DieSt) (s : State) : List (Nat × DieSt) :=
  (List.range 17).map fun d =>
    (d, keep d { DieSt.reset with
      peak := { own := BitVec.ofNat 16 (m.peak[d]?.getD 0), lent := 0, borr := 0 },
      sust := { own := BitVec.ofNat 16 (m.sust[d]?.getD 0), lent := 0, borr := 0 },
      dumps := (s.die d).dumps })

/-- What memory holds once the package's caches are lost. -/
def State.flatMem (s : State) : List Host.Cell := s.behind.foldl (fun m c => writeByte m c.1 c.2) s.mem

/-- What survives without the package's power: what the CXL pool itself holds (R279), and the memory of other packages. -/
def State.outsideMem (s : State) : List Host.Cell :=
  s.flatMem.filter fun c => match s.region c.1 with
    | .cxl | .fabric _ _ => true
    | _ => false

/-- What is left where HBM4E has not been zeroed (R485). -/
def State.keptMem (s : State) : List Host.Cell :=
  s.flatMem.filter fun c => match s.region c.1 with
    | .hbm | .cxl | .fabric _ _ => true
    | _ => false

/-- R484: the segment entries that the manifest sets. -/
def Manifest.writeSegments (m : Manifest) (mem : List Host.Cell) : List Host.Cell :=
  m.segments.foldl (fun l e => writeNat l (0x020020000000 + 32 * (e.1 % 2048)) 32 e.2.toNat) mem

/-- A package at a device time under a manifest, with the cores and memory given: flash, the directory (R300, R405) and
what lies outside the package are kept; everything else is as at power-up. -/
def State.cleared (s : State) (now : Nat) (m : Manifest) (mem : List Host.Cell) (cores : List (Nat × CoreSt)) (free : Nat)
    (keep : Nat → DieSt → DieSt) : State :=
  { State.reset with
    blend := m.blend
    mem := mem
    cores := cores
    dies := bootDies m keep s
    tables := s.tables.filter fun e => e.1.tbl == 9
    dtime := now
    bootTime := now
    manifest := m
    flash := s.flash
    capacity := s.capacity
    peers := s.peers
    inputs := s.inputs
    free := free }

/-- R443: the allocations of a manifest lie within the package limit and its sustained budget, at most that of R21. -/
def Manifest.fits (m : Manifest) : Bool :=
  decide (m.peak.foldl (· + ·) 0 ≤ 7200) && decide (m.sust.foldl (· + ·) 0 ≤ m.budget) && decide (m.budget ≤ 6000)

/-- R485: the image and the manifest in flash verify. A manifest whose allocations do not fit counts as a failure (DEDUCED,
log entry 41). -/
def State.verified (s : State) : Bool :=
  Config.signatureOk s.flash.fw && Config.signatureOk s.flash.manifest.text && s.flash.manifest.fits

/-- What stands for a manifest where none is in force: the package is what it was, and MINFW is what flash holds (R488);
every other field has its default (log entry 34). -/
def State.noManifest (s : State) : Manifest :=
  { Manifest.default with blend := s.blend, package := s.manifest.package, minfw := s.flash.manifest.minfw }

/-- R485, R488: the boot ROM, and either what its third step does, with the manifest in force, or recovery: no plan is
loaded, HBM4E is not zeroed, and the host port of C-die 5 alone is enabled; C-die 11 follows. -/
def State.boot (s : State) (now : Nat) (keep : Nat → DieSt → DieSt) : State :=
  if s.verified then
    let (free, cores) := bootCores now s.free s.cores
    s.cleared now s.flash.manifest (s.flash.manifest.writeSegments s.outsideMem) cores free keep
  else
    let t := s.cleared now s.noManifest s.keptMem (coldCores now s.cores) s.free keep
    { t with unit0 := { t.unit0 with recov := true }, unit1 := { t.unit1 with recov := true, hostPort := false } }

/-- R279, R443: what a die keeps without power is what flash holds. -/
def powerUpDie (_ : Nat) (d : DieSt) : DieSt := d

/-- R491: what a die keeps across a warm reset: its ring, which records again where it was dumped. -/
def State.warmDie (s : State) (k : Nat) (d : DieSt) : DieSt :=
  let o := s.die k
  { d with ring := o.ring, next := o.next, frozen := o.frozen && !o.dumped, dumped := o.dumped }

/-- PACKAGE_POWER_UP. -/
def execPackagePowerUp (s : State) : Host.Outcome State Fault Refusal := .next (s.boot 0 powerUpDie)

/-- A warm reset: device time and the count of dead tokens go on. -/
def State.warmReset (s : State) : State :=
  let t := s.boot s.dtime s.warmDie
  { t with unit0 := { t.unit0 with count := s.unit0.count }, unit1 := { t.unit1 with count := s.unit1.count } }

/-- WARM_RESET. -/
def execWarmReset (s : State) : Host.Outcome State Fault Refusal := .next s.warmReset

/-- The bytes of a memory range. -/
def readBytes (m : List Host.Cell) (a : Nat) : Nat → List Byte
  | 0 => []
  | n + 1 => readByte m a :: readBytes m (a + 1) n

/-- R487: the image that command 3 of a C-die reads, ARG[31:0] bytes long; `len` is the outside's where none runs. -/
def State.newImage (s : State) (x : LaunchUnit) (len : Nat) : List Byte :=
  readBytes s.mem x.svcbuf.toNat (match x.busy with
    | some w => bits w.toNat 8 32
    | none => len)

/-- R477, R487: the status of command 3 for an image. -/
def State.imageStatus (s : State) (img : List Byte) : Nat :=
  if Config.signatureOk img = false then 1
  else if (Config.imageVersion img).toNat < s.manifest.minfw.toNat then 2
  else 0

/-- R487, R488: without power, a command 3 that was writing flash has written a part of the image, a free choice. -/
def State.interrupted (s : State) : State :=
  match [s.unit0, s.unit1].find? fun x => x.cmd == some 3 with
  | none => s
  | some x =>
    let img := s.newImage x 0
    let (n, s) := s.fresh
    let k := n % (img.length + 1)
    if s.imageStatus img ≠ 0 ∨ k = 0 then s
    else
      let fw := img.take k ++ (if k < img.length then s.flash.fw.drop k else [])
      { s with flash := { s.flash with fw := fw, fwVersion := Config.imageVersion fw } }

/-- POWER_LOSS: only flash and the CXL pool keep their contents. No core reset takes place (R436). -/
def execPowerLoss (s : State) : Host.Outcome State Fault Refusal :=
  let s := s.interrupted
  .next (s.cleared s.dtime s.noManifest s.outsideMem (coldCores s.dtime s.cores) s.free powerUpDie)

/-! ### Service commands (R476, R477, R487-R489) -/

/-- A service command runs to its end: f gives the state and LAST. Nothing happens where a C-die runs no
such command. A boot ROM in recovery waits for command 3, and takes every other as unassigned (R488; DEDUCED, log
entry 34). -/
def service (u : Nat) (is : Nat → Bool) (f : LaunchUnit → State → State × Nat) (s : State) :
    Host.Outcome State Fault Refusal :=
  if 2 ≤ u then .fault .noSuchUnit
  else match (s.unit u).cmd with
    | none => .next s
    | some k =>
      if is k = false then .next s
      else
        let (s, last) := if (s.unit u).recov ∧ k ≠ 3 then (s, 0xFF) else f (s.unit u) s
        .next (s.setUnit u { s.unit u with last := BitVec.ofNat 8 last, busy := none })

/-- SVC_RAISE_ALARM. -/
def execSvcRaiseAlarm (u : Nat) : State → Host.Outcome State Fault Refusal :=
  service u (· == 1) fun x s => ((s.setUnit u { x with salm := true }).alarm 3, 0)

/-- SVC_CLEAR_ALARM: the input is clear once neither C-die raises it. -/
def execSvcClearAlarm (u : Nat) : State → Host.Outcome State Fault Refusal :=
  service u (· == 2) fun x s =>
    let s := s.setUnit u { x with salm := false }
    (if s.unit0.salm || s.unit1.salm then s else s.clearAlarm 3, 0)

/-- SVC_FIRMWARE_UPDATE: the image in the buffer, ARG[31:0] bytes long. In recovery the package then
resets (R488). -/
def execSvcFirmwareUpdate (u len : Nat) : State → Host.Outcome State Fault Refusal :=
  service u (· == 3) fun x s =>
    let img := s.newImage x len
    if s.imageStatus img ≠ 0 then (s, s.imageStatus img)
    else
      let s := { s with flash := { s.flash with fw := img, fwVersion := Config.imageVersion img } }
      let s := s.record (unitDie u) 0x0C 0xFFFF (Config.eventArg 0x0C [img.length])
      (if x.recov then s.warmReset else s, 0)

/-- The bytes 0x000 to 0x0BF of an attestation report as a number. -/
def State.report (s : State) (nonce : Nat) : Nat :=
  nonce + (sha256 s.flash.fw).toNat * 2 ^ 256 + (sha256 s.manifest.text).toNat * 2 ^ 512 +
    (sha256 Config.identityKey).toNat * 2 ^ 768 + s.devrev.toNat % 2 ^ 32 * 2 ^ 1024 +
    s.flash.fwVersion.toNat * 2 ^ 1056 + s.dtime % 2 ^ 64 * 2 ^ 1088

/-- The bytes of a number, least significant first. -/
def bytesOf (v : Nat) : Nat → List Byte
  | 0 => []
  | n + 1 => BitVec.ofNat 8 v :: bytesOf (v / 256) n

/-- The number of a list of bytes. -/
def natOf (l : List Byte) : Nat := l.foldr (fun b n => b.toNat + 256 * n) 0

/-- Write n bytes of a service buffer. -/
def State.writeBuffer (s : State) (x : LaunchUnit) (n v : Nat) : State :=
  s.storeAt 12 { pa := x.svcbuf.toNat, attr := 0 } n v

/-- SVC_ATTEST: the report and its signature go into the buffer. -/
def execSvcAttest (u : Nat) : State → Host.Outcome State Fault Refusal :=
  service u (· == 4) fun x s =>
    let r := s.report (readNat s.mem x.svcbuf.toNat 32)
    let sig := (Config.signReport (bytesOf r 0xC0)).toNat
    (s.writeBuffer x 0x240 (r + sig * 2 ^ (8 * 0xC0)), 0)

/-- SVC_BLACKBOX_DUMP: every ring freezes. -/
def execSvcBlackboxDump (u : Nat) : State → Host.Outcome State Fault Refusal :=
  service u (· == 5) fun _ s => (s.freezeAll (List.range 17), 0)

/-- SVC_MANIFEST_COPY. -/
def execSvcManifestCopy (u : Nat) : State → Host.Outcome State Fault Refusal :=
  service u (· == 6) fun x s =>
    let t := s.manifest.text
    if 4096 < t.length then (s, 3) else (s.writeBuffer x t.length (natOf t), 0)

/-- SVC_INVALID_CMD. -/
def execSvcInvalidCmd (u : Nat) : State → Host.Outcome State Fault Refusal :=
  service u (fun k => decide (k < 1) || decide (6 < k)) fun _ s => (s, 0xFF)

/-! ### Fetch (R249, R298) -/

/-- The base and the size of the arena that the current thread fetches from. -/
def State.arena (s : State) : Nat × Nat :=
  if s.cur.st stSYS then (s.sysArb, s.sysArs)
  else (tfield (s.descr s.cur.ctx) 8 8, tfield (s.descr s.cur.ctx) 4 4 * 0x10000)

/-- ARENA_FAULT: a fetch outside the arena, before any word is decoded. -/
def execArenaFault (s : State) : Host.Outcome State Fault Refusal :=
  if s.arena.2 ≤ s.cur.pc.toNat then .next (s.trap (.plain 4 s.cur.pc)) else .next s

end Sys2Proof.Machine
end

