-- ==== Sys2Proof/Machine/Dispatch.lean ====
section
/-!
DEFINITION. One arm for each constructor of Instr: the meaning of the instruction or event on the
thread whose turn it is, or on the units that the event names.
-/

namespace Sys2Proof.Machine

def exec (i : Instr) (s : State) : Host.Outcome State Fault Refusal :=
  match i with
  | .pfx d e k n x z => Sys2Proof.Machine.execPfx d e k n x z s
  | .add d a b => Sys2Proof.Machine.execAdd d a b s
  | .sub d a b => Sys2Proof.Machine.execSub d a b s
  | .and d a b => Sys2Proof.Machine.execAnd d a b s
  | .or d a b => Sys2Proof.Machine.execOr d a b s
  | .xor d a b => Sys2Proof.Machine.execXor d a b s
  | .andcm d a b => Sys2Proof.Machine.execAndcm d a b s
  | .orcm d a b => Sys2Proof.Machine.execOrcm d a b s
  | .eqv d a b => Sys2Proof.Machine.execEqv d a b s
  | .sll d a b => Sys2Proof.Machine.execSll d a b s
  | .srl d a b => Sys2Proof.Machine.execSrl d a b s
  | .sra d a b => Sys2Proof.Machine.execSra d a b s
  | .rol d a b => Sys2Proof.Machine.execRol d a b s
  | .ror d a b => Sys2Proof.Machine.execRor d a b s
  | .min d a b => Sys2Proof.Machine.execMin d a b s
  | .max d a b => Sys2Proof.Machine.execMax d a b s
  | .minn d a b => Sys2Proof.Machine.execMinn d a b s
  | .maxn d a b => Sys2Proof.Machine.execMaxn d a b s
  | .ixadd1 d a b => Sys2Proof.Machine.execIxadd1 d a b s
  | .ixadd2 d a b => Sys2Proof.Machine.execIxadd2 d a b s
  | .ixadd3 d a b => Sys2Proof.Machine.execIxadd3 d a b s
  | .clz d a => Sys2Proof.Machine.execClz d a s
  | .ctz d a => Sys2Proof.Machine.execCtz d a s
  | .popc d a => Sys2Proof.Machine.execPopc d a s
  | .byterev d a => Sys2Proof.Machine.execByterev d a s
  | .addi d a x => Sys2Proof.Machine.execAddi d a x s
  | .andi d a x => Sys2Proof.Machine.execAndi d a x s
  | .ori d a x => Sys2Proof.Machine.execOri d a x s
  | .xori d a x => Sys2Proof.Machine.execXori d a x s
  | .slli d a p => Sys2Proof.Machine.execSlli d a p s
  | .srli d a p => Sys2Proof.Machine.execSrli d a p s
  | .srai d a p => Sys2Proof.Machine.execSrai d a p s
  | .rori d a p => Sys2Proof.Machine.execRori d a p s
  | .bext d a p l => Sys2Proof.Machine.execBext d a p l s
  | .bexts d a p l => Sys2Proof.Machine.execBexts d a p l s
  | .bins d a p l => Sys2Proof.Machine.execBins d a p l s
  | .bclrf d a p l => Sys2Proof.Machine.execBclrf d a p l s
  | .bsetf d a p l => Sys2Proof.Machine.execBsetf d a p l s
  | .mullo d a b => Sys2Proof.Machine.execMullo d a b s
  | .mulhnn d a b => Sys2Proof.Machine.execMulhnn d a b s
  | .mulhii d a b => Sys2Proof.Machine.execMulhii d a b s
  | .mulhin d a b => Sys2Proof.Machine.execMulhin d a b s
  | .quon d a b => Sys2Proof.Machine.execQuon d a b s
  | .quoi d a b => Sys2Proof.Machine.execQuoi d a b s
  | .remn d a b => Sys2Proof.Machine.execRemn d a b s
  | .remi d a b => Sys2Proof.Machine.execRemi d a b s
  | .ldhi d x => Sys2Proof.Machine.execLdhi d x s
  | .addpc d x => Sys2Proof.Machine.execAddpc d x s
  | .cmpeq p c a b => Sys2Proof.Machine.execCmpeq p c a b s
  | .cmpne p c a b => Sys2Proof.Machine.execCmpne p c a b s
  | .cmplt p c a b => Sys2Proof.Machine.execCmplt p c a b s
  | .cmpge p c a b => Sys2Proof.Machine.execCmpge p c a b s
  | .cmpltu p c a b => Sys2Proof.Machine.execCmpltu p c a b s
  | .cmpgeu p c a b => Sys2Proof.Machine.execCmpgeu p c a b s
  | .fcmpeq p c a b f => Sys2Proof.Machine.execFcmpeq p c a b f s
  | .fcmplt p c a b f => Sys2Proof.Machine.execFcmplt p c a b f s
  | .fcmple p c a b f => Sys2Proof.Machine.execFcmple p c a b f s
  | .fcmpun p c a b f => Sys2Proof.Machine.execFcmpun p c a b f s
  | .cmpeqi p c a x => Sys2Proof.Machine.execCmpeqi p c a x s
  | .cmpnei p c a x => Sys2Proof.Machine.execCmpnei p c a x s
  | .cmplti p c a x => Sys2Proof.Machine.execCmplti p c a x s
  | .cmpgei p c a x => Sys2Proof.Machine.execCmpgei p c a x s
  | .cmpltui p c a x => Sys2Proof.Machine.execCmpltui p c a x s
  | .cmpgeui p c a x => Sys2Proof.Machine.execCmpgeui p c a x s
  | .plog p c a b t => Sys2Proof.Machine.execPlog p c a b t s
  | .sel d a b c => Sys2Proof.Machine.execSel d a b c s
  | .fadd d a b r f => Sys2Proof.Machine.execFadd d a b r f s
  | .fsub d a b r f => Sys2Proof.Machine.execFsub d a b r f s
  | .fmul d a b r f => Sys2Proof.Machine.execFmul d a b r f s
  | .fdiv d a b r f => Sys2Proof.Machine.execFdiv d a b r f s
  | .fsqrt d a r f => Sys2Proof.Machine.execFsqrt d a r f s
  | .fmin d a b f => Sys2Proof.Machine.execFmin d a b f s
  | .fmax d a b f => Sys2Proof.Machine.execFmax d a b f s
  | .fneg d a f => Sys2Proof.Machine.execFneg d a f s
  | .fabs d a f => Sys2Proof.Machine.execFabs d a f s
  | .fcpys d a b f => Sys2Proof.Machine.execFcpys d a b f s
  | .fkind d a f => Sys2Proof.Machine.execFkind d a f s
  | .fcvt d a g r f => Sys2Proof.Machine.execFcvt d a g r f s
  | .fcvti d a t r f => Sys2Proof.Machine.execFcvti d a t r f s
  | .fcvtf d a t r f => Sys2Proof.Machine.execFcvtf d a t r f s
  | .fmadd d a b c f r => Sys2Proof.Machine.execFmadd d a b c f r s
  | .fnmadd d a b c f r => Sys2Proof.Machine.execFnmadd d a b c f r s
  | .br p n o => Sys2Proof.Machine.execBr p n o s
  | .call d x => Sys2Proof.Machine.execCall d x s
  | .callr d a => Sys2Proof.Machine.execCallr d a s
  | .rdcsr d c => Sys2Proof.Machine.execRdcsr d c s
  | .wrcsr a c => Sys2Proof.Machine.execWrcsr a c s
  | .xchcsr d a c => Sys2Proof.Machine.execXchcsr d a c s
  | .setcsr a c => Sys2Proof.Machine.execSetcsr a c s
  | .clrcsr a c => Sys2Proof.Machine.execClrcsr a c s
  | .setvl d a t => Sys2Proof.Machine.execSetvl d a t s
  | .vcfg v t => Sys2Proof.Machine.execVcfg v t s
  | .vkill a b => Sys2Proof.Machine.execVkill a b s
  | .vadd d a b k r => Sys2Proof.Machine.execVadd d a b k r s
  | .vsub d a b k r => Sys2Proof.Machine.execVsub d a b k r s
  | .vrsub d a b k r => Sys2Proof.Machine.execVrsub d a b k r s
  | .vmul d a b k r => Sys2Proof.Machine.execVmul d a b k r s
  | .vmulh d a b k => Sys2Proof.Machine.execVmulh d a b k s
  | .vmin d a b k => Sys2Proof.Machine.execVmin d a b k s
  | .vmax d a b k => Sys2Proof.Machine.execVmax d a b k s
  | .vadds d a b k r => Sys2Proof.Machine.execVadds d a b k r s
  | .vsubs d a b k r => Sys2Proof.Machine.execVsubs d a b k r s
  | .vand d a b k => Sys2Proof.Machine.execVand d a b k s
  | .vor d a b k => Sys2Proof.Machine.execVor d a b k s
  | .vxor d a b k => Sys2Proof.Machine.execVxor d a b k s
  | .vsll d a b k => Sys2Proof.Machine.execVsll d a b k s
  | .vsrl d a b k => Sys2Proof.Machine.execVsrl d a b k s
  | .vsra d a b k => Sys2Proof.Machine.execVsra d a b k s
  | .vmovVv d a => Sys2Proof.Machine.execVmovVv d a s
  | .vmovVs d t b => Sys2Proof.Machine.execVmovVs d t b s
  | .vmovVi d t x => Sys2Proof.Machine.execVmovVi d t x s
  | .vfadd d a b k r => Sys2Proof.Machine.execVfadd d a b k r s
  | .vfsub d a b k r => Sys2Proof.Machine.execVfsub d a b k r s
  | .vfmul d a b k r => Sys2Proof.Machine.execVfmul d a b k r s
  | .vfdiv d a b k r => Sys2Proof.Machine.execVfdiv d a b k r s
  | .vfsqrt d a r => Sys2Proof.Machine.execVfsqrt d a r s
  | .vfmin d a b k => Sys2Proof.Machine.execVfmin d a b k s
  | .vfmax d a b k => Sys2Proof.Machine.execVfmax d a b k s
  | .vfneg d a => Sys2Proof.Machine.execVfneg d a s
  | .vfabs d a => Sys2Proof.Machine.execVfabs d a s
  | .vfcpys d a b k => Sys2Proof.Machine.execVfcpys d a b k s
  | .vfkind d a => Sys2Proof.Machine.execVfkind d a s
  | .vmadd d a b c k => Sys2Proof.Machine.execVmadd d a b c k s
  | .vmsub d a b c k => Sys2Proof.Machine.execVmsub d a b c k s
  | .vnmadd d a b c k => Sys2Proof.Machine.execVnmadd d a b c k s
  | .vcmpeq m a b k => Sys2Proof.Machine.execVcmpeq m a b k s
  | .vcmpne m a b k => Sys2Proof.Machine.execVcmpne m a b k s
  | .vcmplt m a b k => Sys2Proof.Machine.execVcmplt m a b k s
  | .vcmple m a b k => Sys2Proof.Machine.execVcmple m a b k s
  | .vcmpgt m a b k => Sys2Proof.Machine.execVcmpgt m a b k s
  | .vcmpge m a b k => Sys2Proof.Machine.execVcmpge m a b k s
  | .vcmpun m a b k => Sys2Proof.Machine.execVcmpun m a b k s
  | .vcvt d a r t => Sys2Proof.Machine.execVcvt d a r t s
  | .vcvts d a r t => Sys2Proof.Machine.execVcvts d a r t s
  | .vquant d a r t => Sys2Proof.Machine.execVquant d a r t s
  | .vrcp d a => Sys2Proof.Machine.execVrcp d a s
  | .vrsqrt d a => Sys2Proof.Machine.execVrsqrt d a s
  | .vexp2 d a => Sys2Proof.Machine.execVexp2 d a s
  | .vidx d x t g => Sys2Proof.Machine.execVidx d x t g s
  | .vgather d a b k => Sys2Proof.Machine.execVgather d a b k s
  | .vslideup d a b k => Sys2Proof.Machine.execVslideup d a b k s
  | .vslidedn d a b k => Sys2Proof.Machine.execVslidedn d a b k s
  | .vslide1up d a b => Sys2Proof.Machine.execVslide1up d a b s
  | .vslide1dn d a b => Sys2Proof.Machine.execVslide1dn d a b s
  | .vcompress d a m => Sys2Proof.Machine.execVcompress d a m s
  | .vexpand d a m => Sys2Proof.Machine.execVexpand d a m s
  | .vredsum d a b r => Sys2Proof.Machine.execVredsum d a b r s
  | .vredmax d a b => Sys2Proof.Machine.execVredmax d a b s
  | .vredmin d a b => Sys2Proof.Machine.execVredmin d a b s
  | .vredand d a b => Sys2Proof.Machine.execVredand d a b s
  | .vredor d a b => Sys2Proof.Machine.execVredor d a b s
  | .vscansum d a b r => Sys2Proof.Machine.execVscansum d a b r s
  | .vscanmax d a b => Sys2Proof.Machine.execVscanmax d a b s
  | .vscanmin d a b => Sys2Proof.Machine.execVscanmin d a b s
  | .vxscansum d a b r => Sys2Proof.Machine.execVxscansum d a b r s
  | .vxscanmax d a b => Sys2Proof.Machine.execVxscanmax d a b s
  | .vxscanmin d a b => Sys2Proof.Machine.execVxscanmin d a b s
  | .vconf d a => Sys2Proof.Machine.execVconf d a s
  | .mpopc d m => Sys2Proof.Machine.execMpopc d m s
  | .mfirst d m => Sys2Proof.Machine.execMfirst d m s
  | .mlog d a b t => Sys2Proof.Machine.execMlog d a b t s
  | .msbf d a => Sys2Proof.Machine.execMsbf d a s
  | .msif d a => Sys2Proof.Machine.execMsif d a s
  | .msof d a => Sys2Proof.Machine.execMsof d a s
  | .tshape d a => Sys2Proof.Machine.execTshape d a s
  | .tldb a b x o f => Sys2Proof.Machine.execTldb a b x o f s
  | .tmma j a b o f => Sys2Proof.Machine.execTmma j a b o f s
  | .tdrain j a b x r t => Sys2Proof.Machine.execTdrain j a b x r t s
  | .taccld j a b x => Sys2Proof.Machine.execTaccld j a b x s
  | .trdacc d j b => Sys2Proof.Machine.execTrdacc d j b s
  | .ld d a z p o => Sys2Proof.Machine.execLd d a z p o s
  | .ldGrp d a o t => Sys2Proof.Machine.execLdGrp d a o t s
  | .st d a z p o => Sys2Proof.Machine.execSt d a z p o s
  | .ldSem d a c e w p => Sys2Proof.Machine.execLdSem d a c e w p s
  | .ldFe d a c e w p => Sys2Proof.Machine.execLdFe d a c e w p s
  | .ldFc d a c e w p => Sys2Proof.Machine.execLdFc d a c e w p s
  | .stSem d a c e w p => Sys2Proof.Machine.execStSem d a c e w p s
  | .stFe d a c e w p => Sys2Proof.Machine.execStFe d a c e w p s
  | .atadd d a b c e w p => Sys2Proof.Machine.execAtadd d a b c e w p s
  | .atand d a b c e w p => Sys2Proof.Machine.execAtand d a b c e w p s
  | .ator d a b c e w p => Sys2Proof.Machine.execAtor d a b c e w p s
  | .atxor d a b c e w p => Sys2Proof.Machine.execAtxor d a b c e w p s
  | .atmin d a b c e w p => Sys2Proof.Machine.execAtmin d a b c e w p s
  | .atmax d a b c e w p => Sys2Proof.Machine.execAtmax d a b c e w p s
  | .atminn d a b c e w p => Sys2Proof.Machine.execAtminn d a b c e w p s
  | .atmaxn d a b c e w p => Sys2Proof.Machine.execAtmaxn d a b c e w p s
  | .atxch d a b c e w p => Sys2Proof.Machine.execAtxch d a b c e w p s
  | .atcmpx d a b c e w p => Sys2Proof.Machine.execAtcmpx d a b c e w p s
  | .vld8 d a b m o e c => Sys2Proof.Machine.execVld8 d a b m o e c s
  | .vld16 d a b m o e c => Sys2Proof.Machine.execVld16 d a b m o e c s
  | .vld32 d a b m o e c => Sys2Proof.Machine.execVld32 d a b m o e c s
  | .vld64 d a b m o e c => Sys2Proof.Machine.execVld64 d a b m o e c s
  | .vld4 d a b o e c => Sys2Proof.Machine.execVld4 d a b o e c s
  | .vldmx4 d a b o e c => Sys2Proof.Machine.execVldmx4 d a b o e c s
  | .vldmx8 d a b o e c => Sys2Proof.Machine.execVldmx8 d a b o e c s
  | .vldmxi8 d a b o e c => Sys2Proof.Machine.execVldmxi8 d a b o e c s
  | .vst8 d a b m o e c => Sys2Proof.Machine.execVst8 d a b m o e c s
  | .vst16 d a b m o e c => Sys2Proof.Machine.execVst16 d a b m o e c s
  | .vst32 d a b m o e c => Sys2Proof.Machine.execVst32 d a b m o e c s
  | .vst64 d a b m o e c => Sys2Proof.Machine.execVst64 d a b m o e c s
  | .vst4 d a o e c => Sys2Proof.Machine.execVst4 d a o e c s
  | .vstmx4 d a o e c => Sys2Proof.Machine.execVstmx4 d a o e c s
  | .vstmx8 d a o e c => Sys2Proof.Machine.execVstmx8 d a o e c s
  | .vstmxi8 d a o e c => Sys2Proof.Machine.execVstmxi8 d a o e c s
  | .vatadd d a b m o e c => Sys2Proof.Machine.execVatadd d a b m o e c s
  | .vatand d a b m o e c => Sys2Proof.Machine.execVatand d a b m o e c s
  | .vator d a b m o e c => Sys2Proof.Machine.execVator d a b m o e c s
  | .vatxor d a b m o e c => Sys2Proof.Machine.execVatxor d a b m o e c s
  | .vatmin d a b m o e c => Sys2Proof.Machine.execVatmin d a b m o e c s
  | .vatmax d a b m o e c => Sys2Proof.Machine.execVatmax d a b m o e c s
  | .vatxch d a b m o e c => Sys2Proof.Machine.execVatxch d a b m o e c s
  | .fence c e => Sys2Proof.Machine.execFence c e s
  | .waita d a b c e w p => Sys2Proof.Machine.execWaita d a b c e w p s
  | .rwb a b p => Sys2Proof.Machine.execRwb a b p s
  | .rinv a b p => Sys2Proof.Machine.execRinv a b p s
  | .stmap d a b => Sys2Proof.Machine.execStmap d a b s
  | .stunmap d b => Sys2Proof.Machine.execStunmap d b s
  | .strm a j x => Sys2Proof.Machine.execStrm a j x s
  | .strmv d a b p n j x => Sys2Proof.Machine.execStrmv d a b p n j x s
  | .strmw b j => Sys2Proof.Machine.execStrmw b j s
  | .send d a h l x => Sys2Proof.Machine.execSend d a h l x s
  | .recv d a h l x => Sys2Proof.Machine.execRecv d a h l x s
  | .recvt d a h l x => Sys2Proof.Machine.execRecvt d a h l x s
  | .tokw a b x => Sys2Proof.Machine.execTokw a b x s
  | .launch d a x => Sys2Proof.Machine.execLaunch d a x s
  | .dleave m => Sys2Proof.Machine.execDleave m s
  | .coll a x j => Sys2Proof.Machine.execColl a x j s
  | .migrate a => Sys2Proof.Machine.execMigrate a s
  | .sysc a => Sys2Proof.Machine.execSysc a s
  | .ctxsave d a b => Sys2Proof.Machine.execCtxsave d a b s
  | .ctxload d a b => Sys2Proof.Machine.execCtxload d a b s
  | .tblw d a b => Sys2Proof.Machine.execTblw d a b s
  | .tblr d a b => Sys2Proof.Machine.execTblr d a b s
  | .tinv d a b => Sys2Proof.Machine.execTinv d a b s
  | .agrd d a => Sys2Proof.Machine.execAgrd d a s
  | .agrdx d a b => Sys2Proof.Machine.execAgrdx d a b s
  | .mgnreq d a b => Sys2Proof.Machine.execMgnreq d a b s
  | .ctrdx d a b => Sys2Proof.Machine.execCtrdx d a b s
  | .ctzero d b => Sys2Proof.Machine.execCtzero d b s
  | .pfL2r a x => Sys2Proof.Machine.execPfL2r a x s
  | .pfL2w a x => Sys2Proof.Machine.execPfL2w a x s
  | .pfL1 a x => Sys2Proof.Machine.execPfL1 a x s
  | .pri n => Sys2Proof.Machine.execPri n s
  | .hint h a k x => Sys2Proof.Machine.execHint h a k x s
  | .trel => Sys2Proof.Machine.execTrel s
  | .tzero0 => Sys2Proof.Machine.execTzero0 s
  | .tzero1 => Sys2Proof.Machine.execTzero1 s
  | .tzero2 => Sys2Proof.Machine.execTzero2 s
  | .tzero3 => Sys2Proof.Machine.execTzero3 s
  | .uiret => Sys2Proof.Machine.execUiret s
  | .endT => Sys2Proof.Machine.execEndT s
  | .bar0 => Sys2Proof.Machine.execBar0 s
  | .bar1 => Sys2Proof.Machine.execBar1 s
  | .bar2 => Sys2Proof.Machine.execBar2 s
  | .bar3 => Sys2Proof.Machine.execBar3 s
  | .tret => Sys2Proof.Machine.execTret s
  | .vresume => Sys2Proof.Machine.execVresume s
  | .brk => Sys2Proof.Machine.execBrk s
  | .migrationInject c t => Sys2Proof.Machine.execMigrationInject c t s
  | .migrationArrival c t => Sys2Proof.Machine.execMigrationArrival c t s
  | .arrivalBufferAdmit core => Sys2Proof.Machine.execArrivalBufferAdmit core s
  | .vectorLazyLoad c t v => Sys2Proof.Machine.execVectorLazyLoad c t v s
  | .threadBind core => Sys2Proof.Machine.execThreadBind core s
  | .waitbToWaitu c t => Sys2Proof.Machine.execWaitbToWaitu c t s
  | .yieldMark c t => Sys2Proof.Machine.execYieldMark c t s
  | .preemptionDeadline c t => Sys2Proof.Machine.execPreemptionDeadline c t s
  | .schedulerWindowEnd c t => Sys2Proof.Machine.execSchedulerWindowEnd c t s
  | .elementGroupGrant core => Sys2Proof.Machine.execElementGroupGrant core s
  | .vectorComplete c t => Sys2Proof.Machine.execVectorComplete c t s
  | .storeErrorAck c t addr => Sys2Proof.Machine.execStoreErrorAck c t addr s
  | .commandProcessorLaunch u ctx block => Sys2Proof.Machine.execCommandProcessorLaunch u ctx block s
  | .commandProcessorPreempt ctx deadline pa => Sys2Proof.Machine.execCommandProcessorPreempt ctx deadline pa s
  | .commandProcessorRestore ctx pa => Sys2Proof.Machine.execCommandProcessorRestore ctx pa s
  | .contextImageComplete ctx => Sys2Proof.Machine.execContextImageComplete ctx s
  | .workToken u src whole tok => Sys2Proof.Machine.execWorkToken u src whole tok s
  | .tokenDispatch u => Sys2Proof.Machine.execTokenDispatch u s
  | .launchPerform u => Sys2Proof.Machine.execLaunchPerform u s
  | .launchQueueInsert u => Sys2Proof.Machine.execLaunchQueueInsert u s
  | .deadTokenRecordRead u => Sys2Proof.Machine.execDeadTokenRecordRead u s
  | .streamTransferStart core => Sys2Proof.Machine.execStreamTransferStart core s
  | .streamElementLanding core e => Sys2Proof.Machine.execStreamElementLanding core e s
  | .userInterruptEntry c t => Sys2Proof.Machine.execUserInterruptEntry c t s
  | .countersReturn c t => Sys2Proof.Machine.execCountersReturn c t s
  | .collReadyPoll core q => Sys2Proof.Machine.execCollReadyPoll core q s
  | .collShardCopy core q => Sys2Proof.Machine.execCollShardCopy core q s
  | .messageDelivery core cls k => Sys2Proof.Machine.execMessageDelivery core cls k s
  | .retryOffer core cls => Sys2Proof.Machine.execRetryOffer core cls s
  | .groupMemberRequest c t j => Sys2Proof.Machine.execGroupMemberRequest c t j s
  | .pageWalkComplete die ctx page => Sys2Proof.Machine.execPageWalkComplete die ctx page s
  | .cacheEviction die line => Sys2Proof.Machine.execCacheEviction die line s
  | .lateTransitionReplay hits => Sys2Proof.Machine.execLateTransitionReplay hits s
  | .replayWindowStart core => Sys2Proof.Machine.execReplayWindowStart core s
  | .guardWindowExpire core => Sys2Proof.Machine.execGuardWindowExpire core s
  | .ageingMeasure core rodly flashOk => Sys2Proof.Machine.execAgeingMeasure core rodly flashOk s
  | .ageingWriteback core => Sys2Proof.Machine.execAgeingWriteback core s
  | .coreReset core => Sys2Proof.Machine.execCoreReset core s
  | .packagePowerUp => Sys2Proof.Machine.execPackagePowerUp s
  | .warmReset => Sys2Proof.Machine.execWarmReset s
  | .powerControlInterval die cluster thermal activity level => Sys2Proof.Machine.execPowerControlInterval die cluster thermal activity level s
  | .loanRequest lender borrower units interval sustained => Sys2Proof.Machine.execLoanRequest lender borrower units interval sustained s
  | .loanGrant loan => Sys2Proof.Machine.execLoanGrant loan s
  | .loanRenewal loan accept => Sys2Proof.Machine.execLoanRenewal loan accept s
  | .loanStopCount loan => Sys2Proof.Machine.execLoanStopCount loan s
  | .loanExpiry loan => Sys2Proof.Machine.execLoanExpiry loan s
  | .fastThrottleAlarm src => Sys2Proof.Machine.execFastThrottleAlarm src s
  | .fastThrottleRelease => Sys2Proof.Machine.execFastThrottleRelease s
  | .throttleSettleEnd => Sys2Proof.Machine.execThrottleSettleEnd s
  | .laneGroupPowerDown core lg => Sys2Proof.Machine.execLaneGroupPowerDown core lg s
  | .breakEvenHoldEnd core lg => Sys2Proof.Machine.execBreakEvenHoldEnd core lg s
  | .laneGroupWake core lg => Sys2Proof.Machine.execLaneGroupWake core lg s
  | .inrushService die => Sys2Proof.Machine.execInrushService die s
  | .linkFrameReceive link chan seq crcOk room msg => Sys2Proof.Machine.execLinkFrameReceive link chan seq crcOk room msg s
  | .linkNak link chan seq => Sys2Proof.Machine.execLinkNak link chan seq s
  | .linkFailure link => Sys2Proof.Machine.execLinkFailure link s
  | .linkAckTimeout link => Sys2Proof.Machine.execLinkAckTimeout link s
  | .fabricGiveUp kind c t addr => Sys2Proof.Machine.execFabricGiveUp kind c t addr s
  | .hostAccess u bar2 off len data => Sys2Proof.Machine.execHostAccess u bar2 off len data s
  | .cxlCompletionTimeout c t addr => Sys2Proof.Machine.execCxlCompletionTimeout c t addr s
  | .cxlBackInvalidate line => Sys2Proof.Machine.execCxlBackInvalidate line s
  | .svcRaiseAlarm u => Sys2Proof.Machine.execSvcRaiseAlarm u s
  | .svcClearAlarm u => Sys2Proof.Machine.execSvcClearAlarm u s
  | .svcFirmwareUpdate u len => Sys2Proof.Machine.execSvcFirmwareUpdate u len s
  | .svcAttest u => Sys2Proof.Machine.execSvcAttest u s
  | .svcBlackboxDump u => Sys2Proof.Machine.execSvcBlackboxDump u s
  | .svcManifestCopy u => Sys2Proof.Machine.execSvcManifestCopy u s
  | .svcInvalidCmd u => Sys2Proof.Machine.execSvcInvalidCmd u s
  | .blackboxDumpComplete die => Sys2Proof.Machine.execBlackboxDumpComplete die s
  | .registerWrite pa v => Sys2Proof.Machine.execRegisterWrite pa v s
  | .unassignedEncoding w => Sys2Proof.Machine.execUnassignedEncoding w s
  | .arenaFault => Sys2Proof.Machine.execArenaFault s
  | .powerLoss => Sys2Proof.Machine.execPowerLoss s
  | .fastThrottleAlarmClear src => Sys2Proof.Machine.execFastThrottleAlarmClear src s
  | .ultraEthernetReceive port pa len data => Sys2Proof.Machine.execUltraEthernetReceive port pa len data s
  | .cxlPoolHostWrite pa data => Sys2Proof.Machine.execCxlPoolHostWrite pa data s
  | .firmwareFault die => Sys2Proof.Machine.execFirmwareFault die s

end Sys2Proof.Machine
end

