-- ==== Sys2Proof/Machine/Fetch.lean ====
section
/-!
DEFINITION. What a step does around an instruction: fetch (R249, R298, R299), what a thread takes at an
instruction boundary (R45, R251, R258), and which unit acts while the thread whose turn it is cannot go on
(log entry 2).
-/

namespace Sys2Proof.Machine

/-! ### Fetch -/

/-- The tag of a thread's instruction-cache lines: its context, or the system arena. -/
def Thread.codeTag (t : Thread) : Nat := if t.st stSYS then 4096 else t.ctx

/-- The physical address of the word at PC. -/
def State.fetchAddr (s : State) : Nat := s.canon (s.arena.1 + s.cur.pc.toNat)

/-- The sector of a core's instruction cache that holds an offset is filled from its arena; a full cache loses one line, a
free choice (R16, R279). -/
def State.icFill (s : State) (core tag base off : Nat) : State :=
  let c := s.core core
  let mine (e : ICLine) : Bool := e.ctx == tag && e.line == off / 256
  let lines := (match s.cls core with
    | some k => Config.icacheSize k
    | none => 0) / 256
  let old := (c.icache.find? mine).getD { ctx := tag, line := off / 256, valid := 0, data := 0 }
  let sh := 256 * (off % 256 / 32)
  let sector : BitVec 2048 := BitVec.ofNat 2048 (readNat s.mem (s.canon (base + off / 32 * 32)) 32) <<< sh
  let new : ICLine :=
    { old with valid := putBit old.valid (off % 256 / 32) true
               data := (old.data &&& ~~~(BitVec.ofNat 2048 (2 ^ 256 - 1) <<< sh)) ||| sector }
  let rest := c.icache.filter (!mine ·)
  if c.icache.any mine ∨ rest.length < lines then s.setCore core { c with icache := new :: rest }
  else
    let (n, s) := s.fresh
    s.setCore core { c with icache := new :: rest.eraseIdx (n % max 1 rest.length) }

/-- The word at an offset in a core's instruction cache. -/
def State.icWord (s : State) (core tag off : Nat) : Option (BitVec 32) :=
  match (s.core core).icache.find? fun e => e.ctx == tag && e.line == off / 256 with
  | some e => if e.valid.getLsbD (off % 256 / 32) then some (BitVec.ofNat 32 (bits e.data.toNat (8 * (off % 256)) 32)) else none
  | none => none

/-- The word at PC. Where the arena was written after the core cached the word, either is fetched (R299). -/
def State.fetch (s : State) : State × BitVec 32 :=
  let t := s.cur
  let s := { s with streak := s.streak + 1 }
  let now := BitVec.ofNat 32 (readNat s.mem s.fetchAddr 4)
  match s.icWord t.core t.codeTag t.pc.toNat with
  | none => (s.icFill t.core t.codeTag s.arena.1 t.pc.toNat, now)
  | some w =>
    if w = now then (s, now)
    else
      let (n, s) := s.fresh
      (s, if n % 2 = 0 then w else now)

/-! ### Instruction boundaries -/

/-- What the current thread, in RUN, takes at an instruction boundary before it fetches: the end of a window (R45), a
migration off a quarantined core (R44), a deadline that has passed (R54, R261), a trap or an interrupt. The trap of a store's error
waits, as a user-level interrupt does, for the instruction that a prefix applies to (R87) and for the end of a convoy
under restart; the spec says so of interrupts alone (DESIGN CHOICE, log entry 43). -/
def State.boundary (s : State) : Option State :=
  let t := s.cur
  if t.dying then (if s.hasXfer t.ref then none else some (s.finish true))
  else if t.leaving ∧ t.stall.isNone then some s.evacuateThread
  else if 4096 ≤ t.winInstr then some { s with cur := t.windowEnd (s.windowTarget t) }
  else if s.overdue then some s.meetDeadline
  else if t.latch.isSome ∨ t.reissue.isSome ∨ t.stall.isSome then none
  else match t.storeErrors, t.st stINTRAP with
    | a :: _, false => some (s.storeErrorTrap a)
    | _, _ =>
      if t.pending ≠ [] ∧ t.st stUIE ∧ t.st stINUI = false ∧ t.st stINTRAP = false then
        some (match execUserInterruptEntry t.ctx t.tid s with
          | .next s => s
          | _ => s)
      else none

/-! ### Other units -/

/-- The state after an event that names units of the package. -/
def nextOf (o : Host.Outcome State Fault Refusal) (s : State) : State :=
  match o with
  | .next t => t
  | _ => s

/-- An event, if it changes what a measure shows. -/
def tryEvent {α : Type} [DecidableEq α] (f : State → α) (s : State)
    (e : State → Host.Outcome State Fault Refusal) : Option State :=
  let t := nextOf (e s) s
  if f t = f s then none else some t

/-- The next thing a core's stream engine does. -/
def State.engineStep (s : State) (core : Nat) : Option State :=
  let c := s.core core
  let moved (s : State) : Option Xfer := (s.core core).xfer
  match c.xfer with
  | none => if c.streamQ = [] then none else tryEvent moved s (execStreamTransferStart core)
  | some x => match x.kind with
    | .coll _ _ _ _ p _ _ _ _ _ _ _ _ =>
      ((List.range p).findSome? fun q => tryEvent moved s (execCollReadyPoll core q)).orElse fun _ =>
        (List.range p).findSome? fun q => tryEvent moved s (execCollShardCopy core q)
    | _ => (List.range x.count).findSome? fun e => tryEvent moved s (execStreamElementLanding core e)

/-- The next message of a core's retry buffers that is accepted, is refused for the first time, or goes into a frame. -/
def State.messageStep (s : State) (core : Nat) : Option State :=
  let moved (s : State) : List Msg × List Frame × List Token × List Token :=
    ((s.core core).retry, s.links.frames, s.unit0.refused, s.unit1.refused)
  [0, 1, 2, 3].findSome? fun cls =>
    let buf := s.retryOf core cls
    (List.range buf.length).findSome? fun k =>
      match buf[k]? with
      | none => none
      | some m =>
        if s.links.frames.any (fun f => f.carries core m && f.dest == 17) then none
        else tryEvent moved s (execMessageDelivery core cls k)

/-- What a core does for its run queue. -/
def State.queueStep (s : State) (core : Nat) : Option State :=
  let running (s : State) : Nat := (s.all.filter fun t => t.run == .run).length
  let waiting (s : State) : List TRef × List TRef := ((s.core core).arrivals, (s.core core).refusals)
  (tryEvent running s (execThreadBind core)).orElse fun _ => tryEvent waiting s (execArrivalBufferAdmit core)

/-- What a V-core does with its lane groups: one that is idle is powered down, and one that an element group needs is woken
(R372, R450). -/
def State.laneStep (s : State) (core : Nat) : Option State :=
  let moved (s : State) : Vector LaneGroup 4 := (s.core core).lanes
  if s.cls core = some .v then
    (List.range 4).findSome? fun g => (tryEvent moved s (execBreakEvenHoldEnd core g)).orElse fun _ =>
      (tryEvent moved s (execLaneGroupWake core g)).orElse fun _ => tryEvent moved s (execLaneGroupPowerDown core g)
  else none

/-- What the queues of a thread, or its group load, let happen to it. -/
def State.unitsStep (s : State) (t : Thread) : Option State :=
  let queues (s : State) : List (List VEntry × List MEntry) := s.all.map fun u => (u.vq, u.mq)
  let moved (s : State) : Option Thread := s.find t.ref
  (if t.vq = [] ∧ t.mq = [] then none else (tryEvent queues s (execVectorComplete t.ctx t.tid)).orElse fun _ =>
    tryEvent queues s (execElementGroupGrant t.core)).orElse fun _ =>
  match t.stall with
  | some (.group _ _ _ _ members) =>
    (List.range members.length).findSome? fun j => tryEvent moved s (execGroupMemberRequest t.ctx t.tid j)
  | _ => none

/-- What a thread's state lets happen to it. -/
def State.threadStep (s : State) (t : Thread) : Option State :=
  let moved (s : State) : Option Thread := s.find t.ref
  if t.dying then
    if s.hasXfer t.ref then none else some (s.onThread t.ref (·.finish true))
  else match t.run, t.mig with
    | .done, _ => none
    | .transit, some m =>
      tryEvent moved s (if m.injected then execMigrationArrival t.ctx t.tid else execMigrationInject t.ctx t.tid)
    | .waitb, _ => (tryEvent moved s (execWaitbToWaitu t.ctx t.tid)).orElse fun _ => s.unitsStep t
    | _, _ => (if t.scAway = false then none else tryEvent moved s (execCountersReturn t.ctx t.tid)).orElse fun _ =>
      s.unitsStep t

/-- The next thing a launch unit does. -/
def State.unitStep (s : State) (u : Nat) : Option State :=
  let moved (s : State) : LaunchUnit := s.unit u
  let x := s.unit u
  (if x.queue = [] then none else (tryEvent moved s (execLaunchPerform u)).orElse fun _ =>
    tryEvent moved s (execLaunchQueueInsert u)).orElse fun _ =>
    if x.tokens = [] then none else tryEvent moved s (execTokenDispatch u)

/-! ### Turns (R330, log entry 2) -/

/-- The agents of the package as it is. -/
def State.agents (s : State) : List Agent :=
  s.all.map (fun t => .thread t.ref) ++
    s.cores.flatMap (fun e => [.engine e.1, .messages e.1, .runQueue e.1, .lanes e.1]) ++
    s.dies.flatMap (fun e => [.walkers e.1, .inrush e.1]) ++ [.launches 0, .launches 1] ++
    .loans :: s.ctxs.map (fun e => .image e.1) ++ (s.threads.filter (·.run == .run)).map fun t => .runner t.ref

/-- What an agent does next; none where it can do nothing. -/
def State.act (s : State) (a : Agent) : Option State :=
  match a with
  | .thread r => (s.find r).bind s.threadStep
  | .runner r => if (s.find r).any (·.run == .run) then some (s.focus r) else none
  | .engine core => s.engineStep core
  | .messages core => s.messageStep core
  | .runQueue core => s.queueStep core
  | .lanes core => s.laneStep core
  | .loans => (s.loans.find? (·.granted == false)).bind fun l => tryEvent (·.loans) s (execLoanGrant l.id)
  | .walkers die => (s.die die).walking.head?.map fun q => nextOf (execPageWalkComplete die q.1 q.2 s) s
  | .inrush die => tryEvent (fun s => (s.die die).inrush) s (execInrushService die)
  | .launches u => s.unitStep u
  | .image ctx => if s.savingCtx ctx then tryEvent (·.ctxs) s (execContextImageComplete ctx) else none

/-- The agents in the order of their turns: those known before in their order, then new ones. -/
def State.turns (s : State) : List Agent :=
  let l := s.agents
  s.agenda.filter l.contains ++ l.filter fun a => !s.agenda.contains a

/-- The first agent of a list that can do something acts, and goes to the end of the order; none where only the outside
can help. -/
def State.nextAct (s : State) (order : List Agent) : List Agent → Option State
  | [] => none
  | a :: rest => match s.act a with
    | some t => some { t with agenda := order.filter (· != a) ++ [a] }
    | none => s.nextAct order rest

/-- What happens while the current thread cannot go on. -/
def State.background (s : State) : Option State := s.nextAct s.turns s.turns

/-- R330: how many instructions are fetched before another agent takes its turn. -/
def streakLimit : Nat := 64

/-- R330: a turn of another agent. -/
def State.rotate (s : State) : State := { s.background.getD s with streak := 0 }

/-! ### What the outside does (log entry 2) -/

/-- Whether an instruction is a device event that the outside, or another unit, brings about. -/
def isEvent (i : Instr) : Bool :=
  match i with
  | .migrationInject _ _ | .migrationArrival _ _ | .arrivalBufferAdmit _ | .vectorLazyLoad _ _ _
  | .threadBind _ | .waitbToWaitu _ _ | .yieldMark _ _ | .preemptionDeadline _ _
  | .schedulerWindowEnd _ _ | .elementGroupGrant _ | .vectorComplete _ _ | .storeErrorAck _ _ _
  | .commandProcessorLaunch _ _ _ | .commandProcessorPreempt _ _ _ | .commandProcessorRestore _ _
  | .contextImageComplete _ | .workToken _ _ _ _ | .tokenDispatch _ | .launchPerform _
  | .launchQueueInsert _ | .deadTokenRecordRead _ | .streamTransferStart _ | .streamElementLanding _ _
  | .userInterruptEntry _ _ | .countersReturn _ _ | .collReadyPoll _ _ | .collShardCopy _ _
  | .messageDelivery _ _ _ | .retryOffer _ _ | .groupMemberRequest _ _ _ | .pageWalkComplete _ _ _
  | .cacheEviction _ _ | .lateTransitionReplay _ | .replayWindowStart _ | .guardWindowExpire _
  | .ageingMeasure _ _ _ | .ageingWriteback _ | .coreReset _ | .packagePowerUp | .warmReset
  | .powerControlInterval _ _ _ _ _ | .loanRequest _ _ _ _ _ | .loanGrant _ | .loanRenewal _ _
  | .loanStopCount _ | .loanExpiry _ | .fastThrottleAlarm _ | .fastThrottleRelease | .throttleSettleEnd
  | .laneGroupPowerDown _ _ | .breakEvenHoldEnd _ _ | .laneGroupWake _ _ | .inrushService _
  | .linkFrameReceive _ _ _ _ _ _ | .linkNak _ _ _ | .linkFailure _ | .linkAckTimeout _
  | .fabricGiveUp _ _ _ _ | .hostAccess _ _ _ _ _ | .cxlCompletionTimeout _ _ _ | .cxlBackInvalidate _
  | .svcRaiseAlarm _ | .svcClearAlarm _ | .svcFirmwareUpdate _ _ | .svcAttest _ | .svcBlackboxDump _
  | .svcManifestCopy _ | .svcInvalidCmd _ | .blackboxDumpComplete _ | .registerWrite _ _ | .powerLoss
  | .fastThrottleAlarmClear _ | .ultraEthernetReceive _ _ _ _ | .cxlPoolHostWrite _ _
  | .firmwareFault _ => true
  | _ => false

/-- An input that is no event. -/
def State.input (s : State) (x : Input) : State :=
  match x with
  | .event _ => s
  | .elapse ns => s.elapse ns
  | .focus c t => s.focus { ctx := c, tid := t }
  | .softError pa bad => { s with bad := if bad then insertNat s.bad pa else removeNat s.bad pa }
  | .corrected core =>
    let c := s.core core
    let a := c.age
    s.setCore core { c with age := { a with cec := if a.cec = 0xFFFFFFFF then a.cec else a.cec + 1 } }
  | .fetchAhead core ctx off =>
    let sys : Bool := decide (4096 ≤ ctx)
    let base := if sys then s.sysArb else tfield (s.descr ctx) 8 8
    let size := if sys then s.sysArs else tfield (s.descr ctx) 4 4 * 0x10000
    if off < size then s.icFill core (min 4096 ctx) base off else s
  | .packet core p => s.strayPacket core p
  | .directoryError => s.fatalEvent 12
  | .peerWrite pa data full => s.peerWrite pa data full
  | .remoteWrite peer job addr data => s.remoteWrite peer job addr data
  | .capacity base len present => s.setCapacity base len present
  | .hop core cls k => s.hopInput core cls k
  | .packetReturned link seq => s.packetBack link seq
  | .cycles core k n =>
    if k = 1 ∨ k = 2 ∨ k = 7 ∨ k = 13 ∨ k = 14 ∨ k = 16 then
      let c := s.core core
      s.setCore core
        { c with counters := c.counters.setIfInBounds k (c.counters[k]?.getD 0 + BitVec.ofNat 64 n) }
    else s

/-! ### Placing an instruction where the next step fetches it -/

/-- The core that runs a lone instruction of a major: the first C-core, or the first T-core where class C
does not have the major. -/
def loneCore (major : Nat) : Nat := if inMark major .c then 0x5000 else 0

/-- The descriptor of a context whose arena is the 64 KiB at physical address 0 (R407). -/
def loneDescriptor : BitVec 256 := BitVec.ofNat 256 (1 + 2 ^ 32 + 2 ^ 208)

/-- A thread of context 0 in RUN takes the turn, as a launch would have left it (log entry 5). -/
def State.withLoneThread (s : State) (core : Nat) : State :=
  let t := { Thread.null with run := .run, core := core }
  let s := s.setTable 0 0 0 0 loneDescriptor
  { s with cur := t, threads := if s.cur.run = .done then s.threads else s.cur :: s.threads }

/-- Whether the current thread fetches at the next step, on a class that has a major. -/
def State.fetches (s : State) (major : Nat) : Bool :=
  s.cur.run == .run && (s.all.find? s.dueSave).isNone && s.overfull.isNone && s.boundary.isNone && decide (s.cur.pc.toNat < s.arena.2) &&
    (match s.cls s.cur.core with
      | some k => inMark major k
      | none => false)

/-- Store a word where the current thread fetches, dropping the line that its core cached there. -/
def State.putFetchWord (s : State) (w : BitVec 32) : State :=
  let t := s.cur
  let c := s.core t.core
  let rest := c.icache.filter fun e => !(e.ctx == t.codeTag && e.line == t.pc.toNat / 256)
  let s := if rest = c.icache then s else s.setCore t.core { c with icache := rest }
  { s with mem := writeNat s.mem s.fetchAddr 4 w.toNat, bad := s.bad.filter fun a =>
      !(decide (s.fetchAddr ≤ a) && decide (a < s.fetchAddr + 4)) }

end Sys2Proof.Machine
end

