-- ==== Sys2Proof/Machine/Step.lean ====
section
/-!
DEFINITION. The step: an input of the outside if one waits; else the instruction at PC of the thread whose
turn it is; else whatever another unit can do.
-/

namespace Sys2Proof.Machine

/-- The instruction at PC of the current thread, in RUN. -/
def State.instruction (s : State) : Host.Outcome State Fault Refusal :=
  if s.arena.2 ≤ s.cur.pc.toNat then exec .arenaFault s
  else if s.badRange s.fetchAddr 4 then .next (s.trap (.plain 0x0C (BitVec.allOnes 64)))
  else
    let (s, w) := s.fetch
    match decodeBytes (bytesOfWord w) with
    | .ok i => exec i s
    | .error _ => execUnassignedEncoding w s

/-- A turn: a thread of a context being saved is saved at its first opportunity (R261), an L2 slice that holds too many
lines gives one up (R14); else the current thread goes on,
or another unit does. -/
def State.turn (s : State) : Host.Outcome State Fault Refusal :=
  if (s.all.find? s.dueSave).isSome then .next s.saveDue
  else if let some (die, lines) := s.overfull then .next (s.makeRoom die lines)
  else if s.cur.run = .run ∧ s.held = false ∧ s.streak < streakLimit then
    match s.boundary with
    | some s => .next s
    | none => if s.cur.dying then .next ((s.background).getD s) else s.instruction
  else if s.cur.run = .run ∧ s.held = false then .next s.rotate
  else match s.background with
    | some t => .next { t with held := false, streak := 0 }
    | none => if s.cur.run = .run then .next { s with held := false } else .next s

def step (s : State) : Host.Outcome State Fault Refusal :=
  match s.inputs with
  | [] => s.turn
  | x :: rest =>
    let s := { s with inputs := rest }
    match x with
    | .event i => if isEvent i then exec i s else .next s
    | x => .next (s.input x)

/-- The state with a word stored where step fetches its next instruction; where no thread would fetch and
run it, a thread takes the turn that does (log entry 5). An instruction has no bits above the 32 of
its word. -/
def State.withFetchWord (s : State) (_nbits w : Nat) : State :=
  let word : BitVec 32 := BitVec.ofNat 32 w
  let major := bits word.toNat 26 6
  let s := { s with inputs := [], held := false, streak := 0 }
  let s := if s.fetches major then s else s.withLoneThread (loneCore major)
  s.putFetchWord word

end Sys2Proof.Machine
end

