-- ==== Sys2Proof/Machine/Consistency.lean ====
section
/-!
DEFINITION. The memory consistency model (R305-R329): the accesses of a candidate execution, the edges that
order them, and which executions are allowed. The machine's own steps perform accesses one after another,
which is one of the executions allowed (log entry 1); this file says which others are.
-/

namespace Sys2Proof.Machine

/-! ### Scopes and instances (R307) -/

/-- The scopes, in the order of their codes (R63). -/
inductive Scope where
  | hart | core | domain | die | device | fabric | system
  deriving DecidableEq, Repr

def Scope.ofCode (c : BitVec 3) : Scope :=
  match c.toNat with
  | 0 => .hart
  | 1 => .core
  | 2 => .domain
  | 3 => .die
  | 4 => .device
  | 5 => .fabric
  | _ => .system

/-- Who makes an access (R307). For an instance the transfers, sends and collectives of a thread count as the thread; as
agents of an execution its events tell them apart. -/
inductive Party where
  | thread (r : TRef)
  /-- A launch unit with its command processor. -/
  | unit (u : Nat)
  /-- A page walker of a die (R297). -/
  | walker (die : Nat)
  /-- The L2 of a die, which evicts lines at any time (R321). -/
  | cache (die : Nat)
  /-- Another package of the load-store domain. -/
  | package (p : Nat)
  /-- A host, a CXL pool, or a peer beyond the fabric. -/
  | outside
  deriving DecidableEq, Repr

/-- The innermost domain of a thread: its level and number. -/
def Thread.innermost (t : Thread) : Option (Nat × Nat) :=
  [0, 1, 2, 3].findSome? fun k => (t.domAt k).map fun n => (k, n)

/-- R307: whether a party is in the instance of an operation that the current thread executes now. A thread that has ended,
or is still to be launched, counts as what `known` says of it: as it was when it ended, or as it will begin (DEDUCED from
R456 and R458, log entry 43). -/
def State.inInstance (s : State) (known : List Thread) (k : Scope) (a : Party) : Bool :=
  let t := s.cur
  match a with
  | .thread r =>
    let other (f : Thread → Bool) : Bool := (((s.find r).orElse fun _ => known.find? (·.ref == r)).map f).getD false
    let queued : Bool := (s.queue t.core).any (·.ref == r) || ((s.find r).isNone && other (·.core == t.core))
    r == t.ref || (match k with
      | .hart => false
      | .core => queued
      | .domain => match t.innermost with
        | none => queued
        | some (l, n) => other fun u => u.ctx == t.ctx && u.launch == t.launch && u.domAt l == some n
      | .die => other fun u => dieOf u.core == dieOf t.core
      | _ => true)
  | .unit u => match k with
    | .die => unitDie u == dieOf t.core
    | .device | .fabric | .system => true
    | _ => false
  | .walker d | .cache d => match k with
    | .die => d == dieOf t.core
    | .device | .fabric | .system => true
    | _ => false
  | .package _ => k == .fabric || k == .system
  | .outside => k == .system

/-- The parties of an execution that are in an instance. -/
def State.instanceOf (s : State) (known : List Thread) (k : Scope) (l : List Party) : List Party :=
  l.filter (s.inInstance known k)

/-! ### The semantics of the instructions (R307, R310, R312, R318, R325) -/

/-- Acquire, release, scope, and .o. -/
structure Semantics where
  acq : Bool
  rel : Bool
  scope : Scope
  ordered : Bool
  deriving DecidableEq, Repr

/-- The semantics of a sem and a scope field and of .o. -/
def Semantics.ofFields (c : BitVec 3) (e : BitVec 2) (o : BitVec 1) : Semantics :=
  { acq := e.getLsbD 0, rel := e.getLsbD 1, scope := .ofCode c, ordered := o == 1 }

/-- R318: the scope of the edges between the elements of a .o instruction. -/
def Semantics.elementScope (x : Semantics) : Scope :=
  if x.acq = false ∧ x.rel = false ∧ x.scope = .hart then .device else x.scope

/-- The semantics of an instruction; every other one has none. END's is that of its update of the completion word. -/
def semanticsOf (i : Instr) : Semantics :=
  match i with
  | .ldSem _ _ c e _ _ | .ldFe _ _ c e _ _ | .ldFc _ _ c e _ _ | .stSem _ _ c e _ _ | .stFe _ _ c e _ _
  | .atadd _ _ _ c e _ _ | .atand _ _ _ c e _ _ | .ator _ _ _ c e _ _ | .atxor _ _ _ c e _ _ | .atmin _ _ _ c e _ _
  | .atmax _ _ _ c e _ _ | .atminn _ _ _ c e _ _ | .atmaxn _ _ _ c e _ _ | .atxch _ _ _ c e _ _
  | .atcmpx _ _ _ c e _ _ | .fence c e => .ofFields c e 0
  | .waita _ _ _ c e _ _ => .ofFields c (e.setWidth 2) 0
  | .vld8 _ _ _ _ o e c | .vld16 _ _ _ _ o e c | .vld32 _ _ _ _ o e c | .vld64 _ _ _ _ o e c
  | .vst8 _ _ _ _ o e c | .vst16 _ _ _ _ o e c | .vst32 _ _ _ _ o e c | .vst64 _ _ _ _ o e c
  | .vatadd _ _ _ _ o e c | .vatand _ _ _ _ o e c | .vator _ _ _ _ o e c | .vatxor _ _ _ _ o e c
  | .vatmin _ _ _ _ o e c | .vatmax _ _ _ _ o e c | .vatxch _ _ _ _ o e c
  | .vld4 _ _ _ o e c | .vldmx4 _ _ _ o e c | .vldmx8 _ _ _ o e c | .vldmxi8 _ _ _ o e c => .ofFields c e o
  | .vst4 _ _ o e c | .vstmx4 _ _ o e c | .vstmx8 _ _ o e c | .vstmxi8 _ _ o e c => .ofFields c e o
  | .endT => .ofFields 5 2 0
  | _ => .ofFields 0 0 0

/-! ### Executions (R305, R306, R309) -/

/-- Half of a byte: of memory or a scratchpad, or of a die's private copy (R306, R321). -/
structure Loc where
  die : Option Nat
  nibble : Nat
  deriving DecidableEq, Repr

/-- What an event of an execution is. -/
inductive EventKind where
  /-- A load, a store, an atomic, an element, a transfer's element, a payload write, a walker's read. -/
  | access
  /-- A member's contribution to a group load (R326). -/
  | contribution
  /-- The write of a work token: a store into no byte of memory (R324). -/
  | token
  | fence
  /-- A write-back by RWB or RINV: it reads the die's copy and writes memory. -/
  | writeBack
  /-- RINV or an eviction drops a line: it ends the die's copy, as a write that no load reads. -/
  | drop
  /-- A fill: it reads memory and writes the die's copy. -/
  | fill
  /-- An eviction write-back: it reads the die's copy and writes memory. -/
  | evict
  deriving DecidableEq, Repr

/-- One event: an access of at most 8 bytes, or a fence. -/
structure Event where
  kind : EventKind
  who : Party
  /-- The place of its instruction in its thread's program order, from 1 on; none for an access of a unit that acts for
  the thread, but that of a message has the place of its SEND (R324). -/
  po : Option Nat
  elem : Nat
  sem : Semantics
  /-- The agents in the instance of its scope, and of the scope of its .o edges. -/
  inst : List Party
  elemInst : List Party
  device : Bool
  /-- An earlier performance of an element that a restart performs again (R319). -/
  early : Bool
  reads : List (Loc × Nat)
  writes : List (Loc × Nat)
  /-- The loads whose values decide its address, its data or its execution (R314). -/
  deps : List Nat
  /-- An atomic that may have written nothing (R338). -/
  atomic : Bool := false
  /-- START of the restart that performs the element again, or of the fault at which an early one was performed (R319); none
  otherwise. -/
  start : Option Nat := none
  /-- Which of the agents that act for the thread: 0 is the thread itself, another number a transfer, a send, a
  collective or its die's cache. -/
  unit : Nat := 0
  /-- An access to a device register, whose values the device gives. -/
  register : Bool := false
  deriving DecidableEq, Repr

/-- The edges that the engines and the events of the execution model add (R322-R328). Numbers name events;
a thread stands with a place in its program order. -/
inductive Sync where
  /-- R322: a transfer issued by an instruction. -/
  | issue (a : Party) (po : Nat) (elems : List Nat)
  /-- R322: an element's read and its write. -/
  | element (r w : Nat)
  /-- R402: an acquire load or a release write of a collective engine, in either place, with the instance of fabric scope. -/
  | engine (first second : Nat) (inst : List Party)
  /-- R322: a landing observed by an instruction: the writes that it covers. -/
  | landing (a : Party) (po : Nat) (writes : List Nat)
  /-- R323: the data writes of an operation that sets a granule's bit, its write of the bit, and the load
  served by it. -/
  | fullEmpty (data : List Nat) (bit load : Nat)
  /-- R324: the payload writes of a message, and the RECV that returns it, whose own accesses come after them. -/
  | message (payload : List Nat) (a : Party) (po : Nat)
  /-- R324: the write of a token, and the threads of the launch it starts. -/
  | token (w : Nat) (threads : List Party)
  /-- R325: a LAUNCH or a command, and the threads it starts. -/
  | launch (a : Party) (po : Nat) (threads : List Party)
  /-- R325: a BAR phase: each member with its BAR. -/
  | barrier (members : List (Party × Nat))
  /-- R58: the threads of a launch with their ENDs, their updates of the completion word, and a load with acquire that shows
  DONE where it reads one of these. -/
  | completed (ends : List (Party × Nat)) (updates : List Nat) (load : Nat)
  /-- R328: each participant with its start, and with its observation of completion; the engine's writes, and the
  named buffers; the instance is that of fabric scope. -/
  | collective (starts seen : List (Party × Nat)) (writes : List Nat) (named : List Loc) (inst : List Party)
  deriving DecidableEq, Repr

/-- A candidate execution: its events, the write that each read reads (none: the initial value), and the order
of the writes of each location. -/
structure Execution where
  events : List Event
  init : List (Loc × Nat)
  rf : List ((Nat × Loc) × Option Nat)
  co : List (Loc × List Nat)
  sync : List Sync
  deriving DecidableEq, Repr

def Execution.event (x : Execution) (k : Nat) : Option Event := x.events[k]?

/-- The order of the writes of a location. -/
def Execution.order (x : Execution) (l : Loc) : List Nat := ((x.co.find? (·.1 == l)).map (·.2)).getD []

/-- The write that an event reads at a location. -/
def Execution.source (x : Execution) (k : Nat) (l : Loc) : Option Nat :=
  ((x.rf.find? (·.1 == (k, l))).map (·.2)).getD none

/-- Whether a comes before b in a list. -/
def precedes (l : List Nat) (a b : Nat) : Bool := decide (l.idxOf a < l.idxOf b) && l.contains b

/-- R309: a write comes after another in the order of some location. -/
def Execution.coherent (x : Execution) (a b : Nat) : Bool := x.co.any fun e => precedes e.2 a b

/-- R309: write b comes after the write that load a reads. -/
def Execution.fromRead (x : Execution) (a b : Nat) : Bool :=
  a != b && (match x.event a with
    | none => false
    | some e => e.reads.any fun r => match x.source a r.1 with
      | none => (x.order r.1).contains b
      | some w => precedes (x.order r.1) w b)

/-! ### The ordering rules (R310-R328) -/

/-- The bytes that an event touches. -/
def Event.bytes (e : Event) : List (Option Nat × Nat) := (e.reads ++ e.writes).map fun r => (r.1.die, r.1.nibble / 2)

/-- The physical bytes that an event touches, whichever copy holds them. -/
def Event.physical (e : Event) : List Nat := (e.reads ++ e.writes).map fun r => r.1.nibble / 2

def overlap {α : Type} [BEq α] (a b : List α) : Bool := a.any b.contains

def Event.loads (e : Event) : Bool := (e.kind == .access || e.kind == .contribution) && !e.reads.isEmpty

/-- R312: what counts as a store: an atomic does even where it writes nothing. -/
def Event.stores (e : Event) : Bool :=
  e.kind == .writeBack || e.kind == .token || (e.kind == .access && (!e.writes.isEmpty || e.atomic))

/-- R310: two events are of different threads or agents; a transfer of a thread is another agent. -/
def Event.apart (e f : Event) : Bool := e.who != f.who || e.unit != f.unit

/-- R321: fills and evictions, to which no ordering edge applies but what they read and write. -/
def Event.free (e : Event) : Bool := e.kind == .fill || e.kind == .evict || (e.kind == .drop && e.po.isNone)

/-- R293: whether a write-back reads the dirty byte that a write left in a die's copy. -/
def Execution.cleans (x : Execution) (k w : Nat) (l : Loc) : Bool :=
  match x.event k with
  | some e => (e.kind == .writeBack || e.kind == .evict) && e.reads.any (·.1 == l) && x.source k l == some w
  | none => false

/-- The write before another in the order of a location. -/
def Execution.previous (x : Execution) (k : Nat) (l : Loc) : Option Nat :=
  (((x.order l).takeWhile (· != k)).getLast?)

/-- R293: a fill or a drop of a byte comes after the write-back of the dirty byte that it replaces. -/
def Execution.cleanBefore (x : Execution) (a b : Nat) : Bool :=
  match x.event b with
  | some f => (f.kind == .fill || f.kind == .drop) && f.writes.any fun l => match x.previous b l.1 with
    | some w => x.cleans a w l.1
    | none => false
  | none => false

/-- e precedes f in the program order of one thread. -/
def Event.before (e f : Event) : Bool :=
  e.who == f.who && (match e.po, f.po with
    | some a, some b => decide (a < b)
    | _, _ => false)

/-- Elements of one instruction. -/
def Event.sibling (e f : Event) : Bool := e.who == f.who && e.po == f.po && e.po.isSome

/-- An event precedes, or follows, a place in the program order of a thread. -/
def Event.upTo (e : Event) (a : Party) (po : Nat) : Bool :=
  e.who == a && (match e.po with
    | some k => decide (k < po)
    | none => false)

def Event.from' (e : Event) (a : Party) (po : Nat) : Bool :=
  e.who == a && (match e.po with
    | some k => decide (po < k)
    | none => false)

/-- R312: whether a fence orders a before b. -/
def Event.fences (f a b : Event) : Bool :=
  f.kind == .fence && a.before f && f.before b &&
    ((f.sem.rel && b.stores) || (f.sem.acq && a.loads) || (f.sem.acq && f.sem.rel))

/-- R311: the writes of the release sequence that an atomic heads. -/
def Execution.releases (x : Execution) (head : Nat) (l : Loc) : List Nat :=
  let atomic (k : Nat) : Bool := match x.event k with
    | some e => e.atomic || (e.loads && e.stores)
    | none => false
  head :: ((x.order l).drop ((x.order l).idxOf head + 1)).takeWhile atomic

/-- The edges from one event to another by R310 to R321: each with the instance it is scoped at, or none. An earlier
performance of an element is ordered only before what reads it: R319 counts the element at its last performance. A fill or
an eviction has no ordering edge, but it is a load of memory and a store like another (R321). -/
def Execution.ordered (x : Execution) (a b : Nat) : List (Option (List Party)) :=
  match x.event a, x.event b with
  | some e, some f =>
    let when (c : Bool) (s : Option (List Party)) : List (Option (List Party)) := if c then [s] else []
    let observed := e.apart f && f.reads.any fun r => x.source b r.1 == some a
    if e.free || f.free then when (observed || x.cleanBefore a b) none
    else if e.early || f.early then when observed none
    else
      when (x.cleanBefore a b) none ++
      when (e.before f && e.unit == f.unit && e.kind != .contribution && f.kind != .contribution && overlap e.bytes f.bytes)
        none ++
      when observed none ++
      when (e.before f && f.sem.rel && f.kind != .fence) (some f.inst) ++
      when (e.before f && e.sem.acq && e.kind != .fence) (some e.inst) ++
      when (e.sem.rel && (e.atomic || (e.loads && e.stores)) && f.loads && f.sem.acq && f.reads.any fun r =>
        match x.source b r.1 with
          | some w => (x.releases a r.1).contains w
          | none => false) (some e.inst) ++
      (x.events.flatMap fun g => when (g.fences e f) (some g.inst)) ++
      when (f.stores && e.before f && f.deps.contains a) none ++
      when (e.device && f.device && (e.before f || (e.sibling f && decide (e.elem < f.elem)))) none ++
      when (e.sem.ordered && e.sibling f && e.elem + 1 == f.elem) (some e.elemInst) ++
      when (e.sem.ordered && e.sibling f && decide (e.elem < f.elem) && e.stores && f.stores && overlap e.bytes f.bytes)
        none ++
      when (f.kind == .writeBack && e.before f && overlap e.physical f.physical) none ++
      when (e.kind == .drop && e.before f && overlap e.physical f.physical) none
  | _, _ => []

/-- The edges from event a to event b that one rule of R322 to R328 adds. -/
def Sync.edges (x : Execution) (a b : Nat) (y : Sync) : List (Option (List Party)) :=
  match x.event a, x.event b with
  | some e, some f =>
    let when (c : Bool) (s : Option (List Party)) : List (Option (List Party)) := if c then [s] else []
    match y with
    | .issue t po elems => when (e.upTo t po && elems.contains b) none
    | .element r w => when (a == r && b == w) none
    | .engine c d inst => when (a == c && b == d) (some inst)
    | .landing t po ws => when (ws.contains a && f.from' t po) none
    | .fullEmpty data bit load =>
      let after : Bool := match x.event load with
        | some l => l.before f
        | none => false
      when ((data.contains a && b == bit) || ((data.contains a || a == bit) && b == load) ||
        ((data.contains a || a == bit || a == load) && after)) none
    | .message payload t po =>
      let own (g : Event) : Bool := g.who == t && g.po == some po
      when ((payload.contains a && (own f || f.from' t po)) || (own e && f.from' t po)) none
    | .token w ts => when (a == w && ts.contains f.who) none
    | .launch t po ts => when (e.upTo t po && ts.contains f.who) none
    | .barrier ms => when (ms.any (fun m => e.upTo m.1 m.2) && ms.any fun m => f.from' m.1 m.2) (some (ms.map (·.1)))
    | .completed ends updates load =>
      let (after, done) : Bool × Bool := match x.event load with
        | some l => (l.before f, l.reads.any fun r => (x.source load r.1).any updates.contains)
        | none => (false, false)
      when (done && ends.any (fun m => e.upTo m.1 m.2) && (b == load || after)) none
    | .collective starts seen ws named inst =>
      let touches (g : Event) : Bool := (g.reads ++ g.writes).any fun r => named.contains r.1
      when (touches e && touches f && (ws.contains a || starts.any fun p => e.upTo p.1 p.2) &&
        seen.any fun p => f.from' p.1 p.2) (some inst)
  | _, _ => []

/-- All edges of ob, with their instances. -/
def Execution.edges (x : Execution) (a b : Nat) : List (Option (List Party)) :=
  x.ordered a b ++ x.sync.flatMap fun y => y.edges x a b

/-! ### Allowed executions (R308, R315) -/

/-- Whether an edge leads from a to b under R308, for a cycle of some agents. -/
def Execution.leads (x : Execution) (agents : List Party) (a b : Nat) : Bool :=
  x.coherent a b || x.fromRead a b || (x.edges a b).any fun s => match s with
    | none => true
    | some inst => agents.all inst.contains

/-- No cycle: removing, again and again, what nothing leads to leaves nothing. -/
def acyclic (leads : Nat → Nat → Bool) : Nat → List Nat → Bool
  | 0, l => l.isEmpty
  | n + 1, l => acyclic leads n (l.filter fun b => l.any fun a => leads a b)

/-- The accesses of some agents that rule 2 of R315 counts; fences are no accesses. -/
def Execution.accesses (x : Execution) (agents : List Party) : List Nat :=
  (List.range x.events.length).filter fun k => match x.event k with
    | some e => e.kind != .fence && agents.contains e.who
    | none => false

def Execution.agents (x : Execution) : List Party := (x.events.map (·.who)).eraseDups

/-- Rule 1: every read returns the value of the write it reads, or the initial value. None reads what RINV dropped, nor a
write that is its own or later in its thread's program order (DEDUCED, log entry 43). -/
def Execution.readsFrom (x : Execution) : Bool :=
  (List.range x.events.length).all fun k => match x.event k with
    | none => true
    | some e => e.register || e.reads.all fun r => match x.source k r.1 with
      | none => lookup x.init r.1 == some r.2
      | some w => w != k && (match x.event w with
        | some g => g.writes.contains r && g.kind != .drop && !e.before g
        | none => false)

/-- R306: nibbles that are one, or 1, 2, 4 or 8 bytes at their natural alignment. -/
def alignedNibbles (l : List Nat) : Bool :=
  decide (l.length ≤ 1) || [2, 4, 8, 16].any fun n => match l with
    | a :: _ => a % n == 0 && l == List.range' a n
    | [] => false

/-- R305, R306, R321: what an event touches is one access; a fill and a write-back copy between memory and a die. -/
def Event.wellFormed (e : Event) : Bool :=
  let rs := e.reads.map (·.1)
  let ws := e.writes.map (·.1)
  let one (l : List Loc) : Bool := alignedNibbles (l.map (·.nibble)) && (l.map (·.die)).all fun d => some d == (l.map (·.die)).head?
  let copies (inMemory outOfMemory : Bool) : Bool :=
    e.reads.map (fun r => (r.1.nibble, r.2)) == e.writes.map (fun w => (w.1.nibble, w.2)) &&
      rs.all (fun l => l.die.isNone == inMemory) && ws.all (fun l => l.die.isNone == outOfMemory)
  one rs && one ws && (match e.kind with
    | .access => rs.isEmpty || ws.isEmpty || rs == ws
    | .contribution => ws.isEmpty
    | .fence | .token => rs.isEmpty && ws.isEmpty
    | .writeBack | .evict => copies false true
    | .drop => rs.isEmpty && ws.all fun l => l.die.isSome
    | .fill => copies true false)

/-- R309: the order of a location holds each of its writes once, and nothing else. -/
def Execution.ordersWrites (x : Execution) : Bool :=
  x.co.all (fun e => decide (e.2.Nodup) && e.2.all fun k => match x.event k with
    | some g => g.writes.any (·.1 == e.1)
    | none => false) &&
  (List.range x.events.length).all fun k => match x.event k with
    | some e => e.writes.all fun w => (x.order w.1).contains k
    | none => true

def subsets {α : Type} : List α → List (List α)
  | [] => [[]]
  | a :: l => subsets l ++ (subsets l).map (a :: ·)

/-- Rule 2: the union of ob, co and fr has no cycle, among the accesses of any set of agents. -/
def Execution.noCycle (x : Execution) : Bool :=
  (subsets x.agents).all fun p => acyclic (x.leads p) x.events.length (x.accesses p)

/-- Rule 3 (R316): no write falls between the read and the write of an atomic. -/
def Execution.atomicsHold (x : Execution) : Bool :=
  (List.range x.events.length).all fun k => match x.event k with
    | none => true
    | some e => e.reads.all fun r =>
      if e.writes.any (·.1 == r.1) then
        (x.order r.1).idxOf k == (match x.source k r.1 with
          | none => 0
          | some w => (x.order r.1).idxOf w + 1)
      else true

/-- Whether event f is the last performance of the element that event e performed early (R319). -/
def Event.again (e f : Event) : Bool :=
  !f.early && e.who == f.who && e.unit == f.unit && e.elem == f.elem && f.start.any (decide <| · ≤ f.elem) && e.writes == f.writes &&
    (match e.po, f.po with
      | some a, some b => decide (a ≤ b)
      | _, _ => false)

/-- Rule 4 (R319; R321's exception is that fills and evictions have no ordering edge): an earlier performance is of a plain
element, its last performance, which a restart made, comes after it, and what was written between them another agent wrote. -/
def Execution.restartsHold (x : Execution) : Bool :=
  (List.range x.events.length).all fun k => match x.event k with
    | none => true
    | some e => !e.early || (!e.sem.ordered && !e.device && (e.reads.isEmpty || e.writes.isEmpty) &&
        (List.range x.events.length).any fun j => match x.event j with
          | some f => e.again f && e.writes.all fun w => precedes (x.order w.1) k j && (x.order w.1).all fun m =>
              !(precedes (x.order w.1) k m && precedes (x.order w.1) m j) || (x.event m).all (·.who != e.who)
          | none => false)

/-- R293: a fill or a drop replaces no dirty byte that was not written back. -/
def Execution.fillsHold (x : Execution) : Bool :=
  (List.range x.events.length).all fun k => match x.event k with
    | none => true
    | some e => !(e.kind == .fill || e.kind == .drop) || e.writes.all fun l => match x.previous k l.1 with
      | none => true
      | some w => match x.event w with
        | some g => g.kind == .fill || g.kind == .drop || (List.range x.events.length).any fun j => x.cleans j w l.1
        | none => false

/-- An execution of accesses and fences whose events stand in the order of their performance: program order and element order agree
with it, the writes of a location are in that order, and every read reads the latest write before it. This is
what the machine's own steps make (log entry 1). -/
def Execution.sequential (x : Execution) : Bool :=
  let n := List.range x.events.length
  (n.all fun a => n.all fun b => match x.event a, x.event b with
    | some e, some f => !(e.before f || (e.sibling f && decide (e.elem < f.elem))) || decide (a < b)
    | _, _ => true) &&
  x.events.all (fun e => !e.early && e.wellFormed && (e.kind == .access || e.kind == .contribution || e.kind == .fence)) &&
  x.sync.isEmpty &&
  x.co.all (fun c => decide (c.2.Pairwise (· < ·)) && c.2.all fun k => match x.event k with
    | some g => g.writes.any (·.1 == c.1)
    | none => false) &&
  n.all fun k => match x.event k with
    | none => true
    | some e => e.writes.all (fun w => (x.order w.1).contains k) && e.reads.all fun r =>
      match ((x.order r.1).filter fun w => decide (w < k)).getLast? with
      | none => x.source k r.1 == none && lookup x.init r.1 == some r.2
      | some w => x.source k r.1 == some w && (match x.event w with
        | some g => g.writes.contains r && g.kind != .drop
        | none => false)

/-- R315: whether an execution is allowed. -/
def Execution.allowed (x : Execution) : Bool :=
  x.events.all Event.wellFormed && x.readsFrom && x.ordersWrites && x.noCycle && x.atomicsHold && x.restartsHold &&
    x.fillsHold

end Sys2Proof.Machine
end

