-- ==== Sys2Proof/Safety.lean ====
section
/-!
DEFINITION. The terms that claims are stated in: the invariant of a safe state, when an instruction of
the current thread runs, and the states in which it completes.
-/

namespace Sys2Proof.Machine

/-- What every step keeps: memory has its canonical form. -/
def State.Inv (s : State) : Prop := Memory.wf s.mem = true

/-- R65: the class of the current thread's core is in the mark of a major. -/
def State.onClass (s : State) (major : Nat) : Bool :=
  match s.cls s.cur.core with
  | some k => inMark major k
  | none => false

/-- R82, R84, R85: the prefix latch is empty, or what it holds is accepted and disables nothing as a whole. -/
def State.passes (s : State) (acc : Bool × Bool × Bool) : Bool :=
  match s.cur.latch with
  | none => true
  | some l => (!lDE l || acc.2.2) &&
      (if lPK l then acc.2.1 else acc.1 && (s.cur.getP (lPN l) != lPI l))

/-- R357, R358: the vector queue, or the matrix queue, has a place for an instruction of a major: TDRAIN needs the most. -/
def State.room (s : State) (major : Nat) : Bool :=
  match s.cls s.cur.core with
  | some k => !s.cur.queueFull k (.tdrain 0 0 0 0 0 0) major
  | none => true

/-- The same for one instruction. -/
def State.roomFor (s : State) (i : Instr) : Bool :=
  match s.cls s.cur.core with
  | some k => !s.cur.queueFull k i (bits (encode i).toNat 26 6)
  | none => true

/-- An instruction of a major that accepts its row of R84 runs: neither its class nor a prefix nor a full queue stops it. -/
def State.runs (s : State) (major : Nat) : Bool := s.onClass major && s.passes (accepts major) && s.room major

/-- The same without a prefix. -/
def State.bare (s : State) (major : Nat) : Bool := s.onClass major && s.cur.latch.isNone && s.room major

/-- An instruction of a major has completed, and the thread goes on at an address: the latch is empty
(R83), the window counts have grown (R45), INSTRET has grown (R453). -/
def State.retiredAt (s : State) (major : Nat) (pc : Word) : State :=
  { s with cur := s.cur.advance major pc, failing := none }.count s.cur.core 0

/-- An instruction of a major has completed, and the thread goes on after it. -/
def State.retired (s : State) (major : Nat) : State := s.retiredAt major (s.cur.pc + 4)

/-- A word or an instruction of a major without an effect beyond its issue slot has been passed: it is counted, and
`vesr` keeps its value (R69, R181). -/
def State.passed (s : State) (major : Nat) : State :=
  { s with cur := s.cur.pass major, failing := none }.count s.cur.core 0

/-- S[d] has a value, poisoned if a named source is, and the second destination a copy (R71, R85). -/
def State.written (s : State) (d : BitVec 5) (v : Word) (srcs : List (BitVec 5)) : State :=
  { s with cur := (s.cur.setS d v (srcs.any s.cur.poisonedS)).copyS d }

/-- ZeroDest: S[d] and the second destination become 0, without poison (R85). -/
def State.zeroed (s : State) (d : BitVec 5) : State := { s with cur := (s.cur.setS d 0 false).copyS d }

/-- Sticky flags have joined `tstat` (R119). -/
def State.flagged (s : State) (f : FFlags) : State := { s with cur := s.cur.orFlags f }

/-- Predicate pN has a value (R111). -/
def State.predicated (s : State) (p : BitVec 3) (b : Bool) : State := { s with cur := s.cur.setP p b }

/-- Predicate pN takes a result as cm says (R166). -/
def State.combined (s : State) (p : BitVec 3) (c : BitVec 2) (r : Bool) : State :=
  s.predicated p (if c = 0 then r else if c = 1 then s.cur.getP p && r else s.cur.getP p || r)

/-- The real number that a sign, an integer and a power of two stand for (R133). -/
def realOf (neg : Bool) (mant : Nat) (exp : Int) : ℚ := (if neg then -1 else 1) * mant * (2 : ℚ) ^ exp

/-- A scalar result and its flags are written (R144, R155). -/
def State.floated (s : State) (d : BitVec 5) (r : Word × FFlags) (srcs : List (BitVec 5)) : State :=
  (s.written d r.1 srcs).flagged r.2

/-- None of some registers is poisoned. -/
def State.clean (s : State) (l : List (BitVec 5)) : Bool := l.all fun r => !s.cur.poisonedS r

/-- Every byte outside [a, a + n) reads as before. -/
def State.sameBytesBut (s t : State) (a n : Nat) : Prop :=
  ∀ x, x < a ∨ a + n ≤ x → readByte t.mem x = readByte s.mem x

/-- Every byte reads as before. -/
def State.sameBytes (s t : State) : Prop := ∀ x, readByte t.mem x = readByte s.mem x

/-- What filling, recalling and evicting lines changes: the caches, what the CXL tier holds behind them, counters, and the
count of free values (R289). Threads and memory as they read are as before. -/
def State.sameButCaches (s t : State) : Prop :=
  t = { s with hub := t.hub, behind := t.behind, cores := t.cores, dies := t.dies, free := t.free }

/-- Whether a place is plain memory: HBM, CXL or fabric memory off a die-private page, or a scratchpad. -/
def State.plainAt (s : State) (p : Place) : Bool :=
  match s.region p.pa with
  | .hbm | .cxl | .fabric _ .hbm => p.attr != 1
  | .scratch _ _ => true
  | .fabric _ _ | .device | .nowhere => false

/-- Whether a store of n bytes at a place reaches plain memory: no die or port that holds them is cut off, and no
capacity is released (R251, R475, R481). -/
def State.storesTo (s : State) (p : Place) (n : Nat) : Bool := s.plainAt p && !s.storeLost p.pa n

/-- Every vector register of the current thread has its contents in its holder (R49). -/
def State.allResident (s : State) : Bool := s.cur.v.toList.all (·.resident)

/-- The current thread's vector instructions of a width W (R180) start: `vl` is neither 0 nor beyond VLMAX, the
holder has every register, no transfer is still to write one, and no convoy is under restart. -/
def State.vready (s : State) (w : Nat) : Bool :=
  s.cur.vl != 0 && !s.tooLong w && s.allResident && (s.gathers s.cur.ref).isEmpty && s.cur.reissue.isNone

/-- The flags of the enabled elements from `start` to vl − 1 (R182). -/
def State.elemFlags (s : State) (start : Nat) (val : Nat → FFlags) : FFlags :=
  ((List.range s.cur.vl.toNat).filter fun e => decide (start ≤ e) && s.cur.enabled s.cur.latch e).foldr
    (fun e f => val e ||| f) 0

/-- What a completing vector instruction leaves as it was: all but the vector registers and masks, its place in
the queue, the sticky flags and VSM in `tstat`, `vesr`, PC, the latch and the counts (R85, R117, R120). -/
def State.vframe (s t : State) (width : Nat) (fl : FFlags) : Prop :=
  t = { s with cur := t.cur, cores := t.cores, failing := none } ∧
  t.cur = { s.cur with v := t.cur.v, m := t.cur.m, vq := t.cur.vq, tstat := t.cur.tstat, vesr := 0
                       pc := s.cur.pc + 4, latch := none, winInstr := s.cur.winInstr + 1
                       winVec := s.cur.winVec + 1 } ∧
  (∀ k, 7 ≤ k → t.cur.tstat.getLsbD k = s.cur.tstat.getLsbD k) ∧
  ∃ e, t.cur.vq = s.cur.vq ++ [e] ∧ e.flags = fl ∧ e.vl = s.cur.vl.toNat ∧ e.width = width ∧ e.taken = 0 ∧
    e.left = e.vl - e.start

/-- R85, R113, R138, R179: elements `start` to vl − 1 of v(d) are written where they are enabled, and zeroed
elsewhere under ZM; d takes the tag, and the second destination copies it; every other element, register
and mask is as before. -/
def State.vwrote (s t : State) (d tag : BitVec 5) (width start : Nat) (val : Nat → Nat × FFlags) : Prop :=
  let w := tagWidth tag
  let en := s.cur.enabled s.cur.latch
  let old (e : Nat) : Nat := elemOf (s.cur.getV d).bits w e
  s.vframe t width (s.elemFlags start fun e => (val e).2) ∧ t.cur.m = s.cur.m ∧
  (t.cur.getV d).tag = tag ∧
  (∀ e, (e + 1) * w ≤ 8192 → elemOf (t.cur.getV d).bits w e =
    if start ≤ e ∧ e < s.cur.vl.toNat then
      (if en e = true then (val e).1 % 2 ^ w else if zeroing s.cur.latch = true then 0 else old e)
    else old e) ∧
  (∀ d2, second s.cur.latch = some d2 → (t.cur.getV d2).tag = tag ∧
    ∀ e, e < s.cur.vl.toNat → elemOf (t.cur.getV d2).bits w e = elemOf (t.cur.getV d).bits w e) ∧
  (∀ v, v ≠ d → second s.cur.latch ≠ some v → (tagBlock tag = true → v ≠ companion d) →
    t.cur.getV v = s.cur.getV v)

/-- R113, R114: bits `start` to vl − 1 of m(d) are written where they are enabled, and cleared elsewhere under
ZM; every other bit, mask and vector register is as before. -/
def State.mwrote (s t : State) (d : BitVec 3) (start : Nat) (bit : Nat → Bool) : Prop :=
  t.cur.v = s.cur.v ∧ (∀ n, n ≠ d → t.cur.getM n = s.cur.getM n) ∧
  (d ≠ 0 → ∀ e, e < 2048 → (t.cur.getM d).getLsbD e =
    if start ≤ e ∧ e < s.cur.vl.toNat then
      (if s.cur.enabled s.cur.latch e = true then bit e
        else if zeroing s.cur.latch = true then false else (s.cur.getM d).getLsbD e)
    else (s.cur.getM d).getLsbD e)

/-- Whether an instruction is encoded by a word: every one but the events. -/
def encoded (i : Instr) : Bool :=
  match i with
  | .unassignedEncoding _ | .arenaFault => false
  | i => !isEvent i

/-- The scalar register that an instruction of another major than 0x1E writes as its destination. -/
def scalarDestOf (i : Instr) : Option (BitVec 5) :=
  match i with
  | .add d _ _ | .sub d _ _ | .and d _ _ | .or d _ _ | .xor d _ _ | .andcm d _ _ | .orcm d _ _ | .eqv d _ _
  | .sll d _ _ | .srl d _ _ | .sra d _ _ | .rol d _ _ | .ror d _ _ | .min d _ _ | .max d _ _ | .minn d _ _
  | .maxn d _ _ | .ixadd1 d _ _ | .ixadd2 d _ _ | .ixadd3 d _ _ | .clz d _ | .ctz d _ | .popc d _ | .byterev d _
  | .addi d _ _ | .andi d _ _ | .ori d _ _ | .xori d _ _ | .slli d _ _ | .srli d _ _ | .srai d _ _ | .rori d _ _
  | .bext d _ _ _ | .bexts d _ _ _ | .bins d _ _ _ | .bclrf d _ _ _ | .bsetf d _ _ _ | .mullo d _ _
  | .mulhnn d _ _ | .mulhii d _ _ | .mulhin d _ _ | .quon d _ _ | .quoi d _ _ | .remn d _ _ | .remi d _ _
  | .ldhi d _ | .addpc d _ | .sel d _ _ _ | .fadd d _ _ _ _ | .fsub d _ _ _ _ | .fmul d _ _ _ _
  | .fdiv d _ _ _ _ | .fsqrt d _ _ _ | .fmin d _ _ _ | .fmax d _ _ _ | .fneg d _ _ | .fabs d _ _
  | .fcpys d _ _ _ | .fkind d _ _ | .fcvt d _ _ _ _ | .fcvti d _ _ _ _ | .fcvtf d _ _ _ _ | .fmadd d _ _ _ _ _
  | .fnmadd d _ _ _ _ _ | .call d _ | .callr d _ | .ld d _ _ _ _ | .ldGrp d _ _ _ | .ldSem d _ _ _ _ _
  | .ldFe d _ _ _ _ _ | .ldFc d _ _ _ _ _ | .atadd d _ _ _ _ _ _ | .atand d _ _ _ _ _ _ | .ator d _ _ _ _ _ _
  | .atxor d _ _ _ _ _ _ | .atmin d _ _ _ _ _ _ | .atmax d _ _ _ _ _ _ | .atminn d _ _ _ _ _ _
  | .atmaxn d _ _ _ _ _ _ | .atxch d _ _ _ _ _ _ | .atcmpx d _ _ _ _ _ _ | .tshape d _ | .trdacc d _ _ => some d
  | _ => none

/-- The major of an instruction (R60). -/
def majorOf (i : Instr) : Nat := bits (encode i).toNat 26 6

/-- The vector register that an instruction writes: vd, of the majors that name one, and of the scans and VCONF in
major 0x1E (R65). -/
def vectorDestOf (i : Instr) : Option (BitVec 5) :=
  match i with
  | .vscansum d _ _ _ | .vscanmax d _ _ | .vscanmin d _ _ | .vxscansum d _ _ _ | .vxscanmax d _ _
  | .vxscanmin d _ _ | .vconf d _ => some d
  | i => if majorOf i ∈ [0x17, 0x18, 0x19, 0x1B, 0x1C, 0x1D, 0x26, 0x28] then some ((encode i).extractLsb' 21 5) else none

/-- The mask register that an instruction of majors 0x1A and 0x1F writes (R65). -/
def maskDestOf (i : Instr) : Option (BitVec 3) :=
  if majorOf i = 0x1A ∨ majorOf i = 0x1F then some ((encode i).extractLsb' 21 3) else none

/-- The scalar register that a reduction writes. -/
def reductionDestOf (i : Instr) : Option (BitVec 5) :=
  match i with
  | .vredsum d _ _ _ | .vredmax d _ _ | .vredmin d _ _ | .vredand d _ _ | .vredor d _ _ => some d
  | _ => none

/-- R84: the row of an instruction: that of its major, and for 0x20 a mask predicate with a drain only. -/
def rowOf (i : Instr) : Bool × Bool × Bool :=
  match i with
  | .tdrain _ _ _ _ _ _ => (true, true, false)
  | i => accepts (majorOf i)

/-- A vector load (R339): v(d), the addressing, the tag of a dead or unlike v(d), whether it may use GROUP space,
and the operator it uses there. -/
def vloadForm (i : Instr) : Option (BitVec 5 × Addressing × BitVec 5 × Bool × Nat) :=
  let form (d a b : BitVec 5) (m z : Nat) (t : BitVec 5) := some (d, Addressing.mk m a b z false, t, m == 0, b.toNat)
  let block (d a : BitVec 5) (z : Nat) (b : Bool) (t : BitVec 5) := some (d, Addressing.mk 0 a 0 z b, t, false, 0)
  match i with
  | .vld8 d a b m _ _ _ => form d a b m.toNat 8 0x05
  | .vld16 d a b m _ _ _ => form d a b m.toNat 16 0x06
  | .vld32 d a b m _ _ _ => form d a b m.toNat 32 0x07
  | .vld64 d a b m _ _ _ => form d a b m.toNat 64 0x08
  | .vld4 d a _ _ _ _ => block d a 4 false 0x0F
  | .vldmx4 d a _ _ _ _ => block d a 4 true 0x10
  | .vldmx8 d a _ _ _ _ => block d a 8 true 0x11
  | .vldmxi8 d a _ _ _ _ => block d a 8 true 0x12
  | _ => none

/-- A vector store (R339): v(d), the addressing, and whether it is ordered by .o. -/
def vstoreForm (i : Instr) : Option (BitVec 5 × Addressing × Bool) :=
  let form (d a b : BitVec 5) (m z : Nat) (o : BitVec 1) := some (d, Addressing.mk m a b z false, o == 1)
  let block (d a : BitVec 5) (z : Nat) (b : Bool) (o : BitVec 1) := some (d, Addressing.mk 0 a 0 z b, o == 1)
  match i with
  | .vst8 d a b m o _ _ => form d a b m.toNat 8 o
  | .vst16 d a b m o _ _ => form d a b m.toNat 16 o
  | .vst32 d a b m o _ _ => form d a b m.toNat 32 o
  | .vst64 d a b m o _ _ => form d a b m.toNat 64 o
  | .vst4 d a o _ _ => block d a 4 false o
  | .vstmx4 d a o _ _ => block d a 4 true o
  | .vstmx8 d a o _ _ => block d a 8 true o
  | .vstmxi8 d a o _ _ => block d a 8 true o
  | _ => none

/-- A vector atomic (R343): v(d), a, b, the mode, .o, and the new value of width w from the old one and v(d)'s
element. -/
def vatomicForm (i : Instr) : Option (BitVec 5 × BitVec 5 × BitVec 5 × Nat × Bool × (Bool → Nat → Nat → Nat → Nat)) :=
  match i with
  | .vatadd d a b m o _ _ => some (d, a, b, m.toNat, o == 1, fun _ _ x y => x + y)
  | .vatand d a b m o _ _ => some (d, a, b, m.toNat, o == 1, fun _ _ x y => x &&& y)
  | .vator d a b m o _ _ => some (d, a, b, m.toNat, o == 1, fun _ _ x y => x ||| y)
  | .vatxor d a b m o _ _ => some (d, a, b, m.toNat, o == 1, fun _ _ x y => x ^^^ y)
  | .vatmin d a b m o _ _ => some (d, a, b, m.toNat, o == 1, fun sg w x y =>
      if (if sg then decide (signedOf w x ≤ signedOf w y) else decide (x ≤ y)) = true then x else y)
  | .vatmax d a b m o _ _ => some (d, a, b, m.toNat, o == 1, fun sg w x y =>
      if (if sg then decide (signedOf w x ≤ signedOf w y) else decide (x ≤ y)) = true then y else x)
  | .vatxch d a b m o _ _ => some (d, a, b, m.toNat, o == 1, fun _ _ _ y => y)
  | _ => none

/-- R249, R298, R299: the current thread runs with nothing before its next instruction (no save that is due, no L2 slice
that holds too many lines), at an address of
its arena whose word is `w`, readable, and not held otherwise by its core's instruction cache. -/
def State.atWord (s : State) (w : BitVec 32) : Prop :=
  s.inputs = [] ∧ s.all.find? s.dueSave = none ∧ s.overfull = none ∧ s.cur.run = .run ∧ s.held = false ∧
  s.streak < streakLimit ∧ s.boundary = none ∧ s.cur.dying = false ∧
  s.cur.pc.toNat < s.arena.2 ∧ s.badRange s.fetchAddr 4 = false ∧
  readNat s.mem s.fetchAddr 4 = w.toNat ∧
  (match s.icWord s.cur.core s.cur.codeTag s.cur.pc.toNat with
    | some x => x = w
    | none => True)

/-! ### Progress (R330) -/

/-- A run without end of the machine. -/
def EndlessRun (f : Nat → State) : Prop := ∀ n, step (f n) = .next (f (n + 1))

/-- R330: a run performs what is under way: a transfer moves on, and a message that its ring has not refused leaves its
buffer or is refused. Stores and write-backs are performed in their own step, and every load of a location after it reads
what memory then holds, so a thread that repeats a load reads the write or a later one. -/
def Progresses (f : Nat → State) : Prop :=
  (∀ n core x, ((f n).core core).xfer = some x → ∃ m, n < m ∧ ((f m).core core).xfer ≠ some x) ∧
    ∀ n core x, x ∈ ((f n).core core).retry → x.refused = false → ∃ m, n < m ∧ x ∉ ((f m).core core).retry

end Sys2Proof.Machine
end

