-- ==== Sys2Proof/Certificates/Slice0/Obligations.lean ====
section
/-!
DEFINITION. The statements for the provers. An instruction's results are stated in the states of
Sys2Proof/Safety.lean; a value that the spec leaves open is a free value, whatever it is (log entry 3).
-/

open Sys2Proof Sys2Proof.Machine

/-! ### Encoding and the step -/

/-- Words of the spec's listings (20_programs_sync.md) decode to the instructions listed beside them. -/
def Obligations.ListedWordsDecode : Prop :=
  decode 0x0EA00001 = .ok (.addi 21 0 1) ∧
  decode 0x8A836000 = .ok (.ld 20 3 3 0 0) ∧
  decode 0x9554A820 = .ok (.atadd 10 20 21 0 0 1 0) ∧
  decode 0x2C8B5000 = .ok (.cmpeq 1 0 11 10) ∧
  decode 0x44800004 = .ok (.br 1 0 4) ∧
  decode 0xA5765A61 = .ok (.waita 11 22 11 2 1 1 0) ∧
  decode 0x8D946040 = .ok (.st 12 20 3 0 64) ∧
  decode 0x09AAA013 = .ok (.ixadd3 13 10 20) ∧
  decode 0x443FFFFC = .ok (.br 0 0 0x3FFFFC)

/-- R60 to R65: the decoder reads back every instruction that the encoder writes.
R60 to R65: a word that decodes is the word of the instruction it decodes to, which is well formed. -/
def Obligations.EncodingRoundTrips : Prop :=
  (∀ i : Instr, encoded i = true → wellFormed i = true → decode (encode i) = .ok i) ∧
  (∀ (w : BitVec 32) (i : Instr), decode w = .ok i → encode i = w ∧ wellFormed i = true ∧ encoded i = true)

/-- A step runs what the word at PC encodes (R67, R298): the decoded instruction, the fate of a word that
decodes to none, or the arena fault; an event of the outside runs before it. The fetch leaves the
thread and memory as they are.
R298: a fetch at or beyond the end of the arena raises the arena fault with PC in `trval`; within it the event
changes nothing. -/
def Obligations.StepRunsTheWord : Prop :=
  ((∀ (s : State) (w : BitVec 32) (i : Instr), s.atWord w → decode w = .ok i →
     step s = exec i s.fetch.1) ∧
   (∀ (s : State) (w : BitVec 32) (f : Fate), s.atWord w → decode w = .error f →
     step s = exec (.unassignedEncoding w) s.fetch.1) ∧
   (∀ s : State, s.fetch.1.cur = s.cur ∧ s.fetch.1.mem = s.mem ∧ s.fetch.1.threads = s.threads ∧
     s.fetch.1.tables = s.tables) ∧
   (∀ s : State, s.inputs = [] → s.all.find? s.dueSave = none → s.overfull = none → s.cur.run = .run → s.held = false →
     s.streak < streakLimit → s.boundary = none → s.cur.dying = false → s.arena.2 ≤ s.cur.pc.toNat → step s = exec .arenaFault s) ∧
   (∀ (s : State) (i : Instr) (rest : List Input), s.inputs = .event i :: rest → isEvent i = true →
     step s = exec i { s with inputs := rest })) ∧
  (∀ s : State, (s.arena.2 ≤ s.cur.pc.toNat → exec .arenaFault s =
       .next (s.trap { code := 4, val := s.cur.pc, elem := none, start := none })) ∧
     (s.cur.pc.toNat < s.arena.2 → exec .arenaFault s = .next s))

/-- R68, R69, R127: an unassigned word poisons s(d) or v(vd) and does nothing else but take its issue slot, `vesr` as it
was, or raises its fault. -/
def Obligations.UnassignedWordFates : Prop :=
  ∀ (s : State) (w : BitVec 32) (major : Nat), bits w.toNat 26 6 = major → s.bare major = true →
    (∀ d, decode w = .error (.poisonS d) →
      exec (.unassignedEncoding w) s = .next ({ s with cur := s.cur.poisonS d }.passed major)) ∧
    (∀ v, decode w = .error (.poisonV v) →
      exec (.unassignedEncoding w) s =
        .next ({ s with cur := s.cur.setV v { s.cur.getV v with tag := 0x1F } }.passed major)) ∧
    (∀ r, decode w = .error (.illegal r) →
      exec (.unassignedEncoding w) s = .next ({ s with failing := none }.threadTrap (illegal w r.toNat))) ∧
    (decode w = .error .noSuitableClass →
      exec (.unassignedEncoding w) s = .next ({ s with failing := none }.threadTrap (noSuitable w false)))

/-! ### Reset, memory and registers -/

/-- R252, R279, R405: what the package holds at power-up. -/
def Obligations.ResetHolds : Prop :=
  (∀ a, readByte State.reset.mem a = 0) ∧
  State.reset.full = [] ∧
  (∀ t c i k, State.reset.table t c i k = 0) ∧
  (∀ core, (State.reset.core core).icache = [] ∧ (State.reset.core core).stashMaps = [] ∧
    (State.reset.core core).tlb = []) ∧
  State.reset.systvec = 0 ∧ State.reset.devfeat = 0x7F ∧ State.reset.pdefault = 50 ∧
  State.reset.all = []

/-- Memory has its canonical form at power-up. -/
def Obligations.ResetMeetsInvariant : Prop :=
  State.reset.Inv

/-- Every step from a state whose memory has its canonical form leads to such a state. -/
def Obligations.EveryStepKeepsInvariant : Prop :=
  ∀ s t : State, s.Inv → step s = .next t → t.Inv

/-- R6, R279: memory read back is what was written, least significant byte first, and every other byte
reads as before.
R110, R111, R114: reads and writes of scalar registers with their poison, of predicates and of masks;
s0 reads 0, p0 reads 1 and m0 reads all ones, whatever is written. -/
def Obligations.ReadsAfterWrites : Prop :=
  (∀ (m : List Host.Cell) (a n v : Nat), Memory.wf m = true →
     readNat (writeNat m a n v) a n = v % 2 ^ (8 * n) ∧
     (∀ k, k < n → readByte (writeNat m a n v) (a + k) = BitVec.ofNat 8 (v / 2 ^ (8 * k))) ∧
     (∀ x, x < a ∨ a + n ≤ x → readByte (writeNat m a n v) x = readByte m x) ∧
     Memory.wf (writeNat m a n v) = true) ∧
  (∀ (t : Thread),
     (∀ d r v p, (t.setS d v p).getS r = if r = 0 then 0 else if r = d then v else t.getS r) ∧
     (∀ d r v p, (t.setS d v p).poisonedS r = if r = 0 then false else if r = d then p else t.poisonedS r) ∧
     (∀ n k b, (t.setP n b).getP k = if k = 0 then true else if k = n then b else t.getP k) ∧
     (∀ n k w, (t.setM n w).getM k =
       if k = 0 then BitVec.allOnes 2048 else if k = n then w else t.getM k) ∧
     (∀ d r x, (t.setV d x).getV r = if r = d then x else t.getV r))

/-- R4, R83, R85, R110: what completing with a scalar result changes: S[d] and the second destination with
their poison, PC, the latch, the window counts and INSTRET, and `vesr`, which a vector instruction sets to 0. Every
other register, predicate, mask,
vector register, control and trap register, and all of memory, is as before. -/
def Obligations.ScalarResultFrame : Prop :=
  ∀ (s : State) (d : BitVec 5) (v : Word) (srcs : List (BitVec 5)) (major : Nat), s.cur.reissue = none →
    let t := (s.written d v srcs).retired major
    let p := srcs.any s.cur.poisonedS
    let copied (r : BitVec 5) : Bool := match s.cur.latch with
      | some l => lDE l && r == lD2 l
      | none => false
    (∀ r, t.cur.getS r = if r = 0 then 0 else if copied r then (if d = 0 then 0 else v)
      else if r = d then v else s.cur.getS r) ∧
    (∀ r, t.cur.poisonedS r = if r = 0 then false else if copied r then (d != 0 && p)
      else if r = d then p else s.cur.poisonedS r) ∧
    t = { s with
      cur := { s.cur with s := t.cur.s, poison := t.cur.poison, pc := s.cur.pc + 4, latch := none, vesr := t.cur.vesr
                          winInstr := t.cur.winInstr, winVec := t.cur.winVec, winMat := t.cur.winMat }
      failing := none
      cores := t.cores } ∧
    t.cur.vesr = (if vectorMajor major = true then 0 else s.cur.vesr) ∧
    (∀ core, t.core core = if core = s.cur.core then { s.core core with counters := (t.core core).counters }
      else s.core core) ∧
    (∀ k : Nat, (t.core s.cur.core).counters[k]?.getD 0 =
      (s.core s.cur.core).counters[k]?.getD 0 + (if k = 0 then 1 else 0))

/-! ### Scalar instructions -/

/-- R161: the two-operand integer instructions.
R161: CLZ, CTZ, POPC and BYTEREV, each by what its result says of the bits of A.
R165: multiply and divide, with the edge cases of its table. -/
def Obligations.IntegerResults : Prop :=
  (∀ (s : State) (d a b : BitVec 5), s.runs 0x02 = true →
     let A := s.cur.getS a
     let B := s.cur.getS b
     let sh := B.toNat % 64
     let gives (i : Instr) (v : Word) : Prop := exec i s = .next ((s.written d v [a, b]).retired 0x02)
     gives (.add d a b) (A + B) ∧ gives (.sub d a b) (A - B) ∧ gives (.and d a b) (A &&& B) ∧
     gives (.or d a b) (A ||| B) ∧ gives (.xor d a b) (A ^^^ B) ∧ gives (.andcm d a b) (A &&& ~~~B) ∧
     gives (.orcm d a b) (A ||| ~~~B) ∧ gives (.eqv d a b) (~~~(A ^^^ B)) ∧
     gives (.sll d a b) (BitVec.ofNat 64 (A.toNat * 2 ^ sh)) ∧
     gives (.srl d a b) (BitVec.ofNat 64 (A.toNat / 2 ^ sh)) ∧
     gives (.sra d a b) (BitVec.ofInt 64 (A.toInt / 2 ^ sh)) ∧
     gives (.rol d a b) (A.rotateLeft sh) ∧ gives (.ror d a b) (A.rotateRight sh) ∧
     gives (.min d a b) (BitVec.ofInt 64 (min A.toInt B.toInt)) ∧
     gives (.max d a b) (BitVec.ofInt 64 (max A.toInt B.toInt)) ∧
     gives (.minn d a b) (BitVec.ofNat 64 (min A.toNat B.toNat)) ∧
     gives (.maxn d a b) (BitVec.ofNat 64 (max A.toNat B.toNat)) ∧
     gives (.ixadd1 d a b) (A * 2 + B) ∧ gives (.ixadd2 d a b) (A * 4 + B) ∧ gives (.ixadd3 d a b) (A * 8 + B)) ∧
  (∀ (s : State) (d a : BitVec 5), s.runs 0x02 = true →
     let A := s.cur.getS a
     let gives (i : Instr) (v : Word) : Prop := exec i s = .next ((s.written d v [a]).retired 0x02)
     (∃ n, n ≤ 64 ∧ (∀ k, k < n → A.getLsbD (63 - k) = false) ∧ (n < 64 → A.getLsbD (63 - n) = true) ∧
       gives (.clz d a) (BitVec.ofNat 64 n)) ∧
     (∃ n, n ≤ 64 ∧ (∀ k, k < n → A.getLsbD k = false) ∧ (n < 64 → A.getLsbD n = true) ∧
       gives (.ctz d a) (BitVec.ofNat 64 n)) ∧
     gives (.popc d a) (BitVec.ofNat 64 ((List.range 64).filter fun k => A.getLsbD k).length) ∧
     (∃ v : Word, (∀ k, k < 8 → v.extractLsb' (8 * k) 8 = A.extractLsb' (8 * (7 - k)) 8) ∧
       gives (.byterev d a) v)) ∧
  (∀ (s : State) (d a b : BitVec 5), s.runs 0x08 = true →
     let A := s.cur.getS a
     let B := s.cur.getS b
     let gives (i : Instr) (v : Word) : Prop := exec i s = .next ((s.written d v [a, b]).retired 0x08)
     gives (.mullo d a b) (BitVec.ofNat 64 (A.toNat * B.toNat)) ∧
     gives (.mulhnn d a b) (BitVec.ofNat 64 (A.toNat * B.toNat / 2 ^ 64)) ∧
     gives (.mulhii d a b) (BitVec.ofInt 64 (A.toInt * B.toInt / 2 ^ 64)) ∧
     gives (.mulhin d a b) (BitVec.ofInt 64 (A.toInt * (B.toNat : Int) / 2 ^ 64)) ∧
     (B = 0 → gives (.quon d a b) 0 ∧ gives (.quoi d a b) 0 ∧ gives (.remn d a b) A ∧ gives (.remi d a b) A) ∧
     (B ≠ 0 →
       gives (.quon d a b) (BitVec.ofNat 64 (A.toNat / B.toNat)) ∧
       gives (.quoi d a b) (BitVec.ofInt 64 (A.toInt.tdiv B.toInt)) ∧
       gives (.remn d a b) (BitVec.ofNat 64 (A.toNat % B.toNat)) ∧
       gives (.remi d a b) (BitVec.ofInt 64 (A.toInt.tmod B.toInt))) ∧
     (A = 0x8000000000000000 → B = BitVec.allOnes 64 →
       gives (.quoi d a b) 0x8000000000000000 ∧ gives (.remi d a b) 0))

/-- R162, R163: the immediate operations and the wide constants.
R96, R163: for every x from −2^36 to 2^36 − 1, LDHI of hi(x) and then ORI of lo(x) leave x in d.
R164: the immediate shifts and the bit fields. -/
def Obligations.ImmediateResults : Prop :=
  (∀ (s : State) (d a : BitVec 5) (i : BitVec 16) (j : BitVec 21),
     let A := s.cur.getS a
     (s.runs 0x03 = true → exec (.addi d a i) s = .next ((s.written d (A + i.signExtend 64) [a]).retired 0x03)) ∧
     (s.runs 0x04 = true → exec (.andi d a i) s = .next ((s.written d (A &&& i.zeroExtend 64) [a]).retired 0x04)) ∧
     (s.runs 0x05 = true → exec (.ori d a i) s = .next ((s.written d (A ||| i.zeroExtend 64) [a]).retired 0x05)) ∧
     (s.runs 0x06 = true → exec (.xori d a i) s = .next ((s.written d (A ^^^ i.zeroExtend 64) [a]).retired 0x06)) ∧
     (s.runs 0x09 = true →
       exec (.ldhi d j) s = .next ((s.written d (BitVec.ofInt 64 (j.toInt * 65536)) []).retired 0x09)) ∧
     (s.runs 0x0A = true →
       exec (.addpc d j) s = .next ((s.written d (s.cur.pc + BitVec.ofInt 64 (j.toInt * 4)) []).retired 0x0A))) ∧
  (∀ (s : State) (d : BitVec 5) (x : Int), -(2 ^ 36 : Int) ≤ x → x < 2 ^ 36 → d ≠ 0 → s.runs 0x09 = true →
      let w : Word := BitVec.ofInt 64 x
      ∃ t : State, exec (.ldhi d ((w.sshiftRight 16).setWidth 21)) s = .next t ∧
        (t.runs 0x05 = true → ∃ u : State, exec (.ori d d (w.setWidth 16)) t = .next u ∧ u.cur.getS d = w)) ∧
  (∀ (s : State) (d a : BitVec 5) (p l : BitVec 6), s.runs 0x07 = true →
     let A := s.cur.getS a
     let gives (i : Instr) (v : Word) (srcs : List (BitVec 5)) : Prop :=
       exec i s = .next ((s.written d v srcs).retired 0x07)
     let inside (k : Nat) : Bool := decide (p.toNat ≤ k) && decide (k < p.toNat + l.toNat)
     gives (.slli d a p) (BitVec.ofNat 64 (A.toNat * 2 ^ p.toNat)) [a] ∧
     gives (.srli d a p) (BitVec.ofNat 64 (A.toNat / 2 ^ p.toNat)) [a] ∧
     gives (.srai d a p) (BitVec.ofInt 64 (A.toInt / 2 ^ p.toNat)) [a] ∧
     gives (.rori d a p) (A.rotateRight p.toNat) [a] ∧
     (1 ≤ l.toNat → p.toNat + l.toNat ≤ 64 →
       (∃ v : Word, gives (.bext d a p l) v [a] ∧
         ∀ k, k < 64 → v.getLsbD k = (decide (k < l.toNat) && A.getLsbD (p.toNat + k))) ∧
       (∃ v : Word, gives (.bexts d a p l) v [a] ∧
         ∀ k, k < 64 → v.getLsbD k = A.getLsbD (p.toNat + min k (l.toNat - 1))) ∧
       (∃ v : Word, gives (.bins d a p l) v [a, d] ∧
         ∀ k, k < 64 → v.getLsbD k = if inside k then A.getLsbD (k - p.toNat) else (s.cur.getS d).getLsbD k) ∧
       (∃ v : Word, gives (.bclrf d a p l) v [a] ∧
         ∀ k, k < 64 → v.getLsbD k = (A.getLsbD k && !inside k)) ∧
       ∃ v : Word, gives (.bsetf d a p l) v [a] ∧
         ∀ k, k < 64 → v.getLsbD k = (A.getLsbD k || inside k)))

/-- R166, R167: the integer compares write their predicate as cm says; p0 discards it.
R168: PLOG writes the bit of its truth table at 2 × P[pa] + P[pb] as cm says.
R166: the floating compares of two numbers compare the reals they stand for; a NaN operand makes all
but FCMPUN false, and sets NV where the instruction says so. -/
def Obligations.CompareResults : Prop :=
  (∀ (s : State) (p : BitVec 3) (c : BitVec 2) (a b : BitVec 5) (i : BitVec 11), c ≠ 3 →
     let A := s.cur.getS a
     let B := s.cur.getS b
     let K : Word := i.signExtend 64
     (s.runs 0x0B = true → s.clean [a, b] = true →
       let gives (j : Instr) (r : Bool) : Prop := exec j s = .next ((s.combined p c r).retired 0x0B)
       gives (.cmpeq p c a b) (A == B) ∧ gives (.cmpne p c a b) (A != B) ∧
       gives (.cmplt p c a b) (decide (A.toInt < B.toInt)) ∧ gives (.cmpge p c a b) (decide (B.toInt ≤ A.toInt)) ∧
       gives (.cmpltu p c a b) (decide (A.toNat < B.toNat)) ∧
       gives (.cmpgeu p c a b) (decide (B.toNat ≤ A.toNat))) ∧
     (s.runs 0x0C = true → s.clean [a] = true →
       let gives (j : Instr) (r : Bool) : Prop := exec j s = .next ((s.combined p c r).retired 0x0C)
       gives (.cmpeqi p c a i) (A == K) ∧ gives (.cmpnei p c a i) (A != K) ∧
       gives (.cmplti p c a i) (decide (A.toInt < K.toInt)) ∧ gives (.cmpgei p c a i) (decide (K.toInt ≤ A.toInt)) ∧
       gives (.cmpltui p c a i) (decide (A.toNat < K.toNat)) ∧
       gives (.cmpgeui p c a i) (decide (K.toNat ≤ A.toNat)))) ∧
  (∀ (s : State) (p a b : BitVec 3) (c : BitVec 2) (t : BitVec 4), c ≠ 3 → s.runs 0x0D = true →
     ∀ r : Bool, t.getLsbD (2 * (s.cur.getP a).toNat + (s.cur.getP b).toNat) = r →
       exec (.plog p c a b t) s = .next ((s.combined p c r).retired 0x0D)) ∧
  (∀ (s : State) (p : BitVec 3) (c : BitVec 2) (a b : BitVec 5) (f : BitVec 2), c ≠ 3 → s.runs 0x0B = true →
     s.clean [a, b] = true →
     let x := (fmtOfCode f).read (s.cur.getS a)
     let y := (fmtOfCode f).read (s.cur.getS b)
     let gives (j : Instr) (r : Bool) (fl : FFlags) : Prop :=
       exec j s = .next (((s.combined p c r).flagged fl).retired 0x0B)
     (∀ n1 m1 e1 n2 m2 e2, x = .num n1 m1 e1 → y = .num n2 m2 e2 →
       gives (.fcmpeq p c a b f) (decide (realOf n1 m1 e1 = realOf n2 m2 e2)) 0 ∧
       gives (.fcmplt p c a b f) (decide (realOf n1 m1 e1 < realOf n2 m2 e2)) 0 ∧
       gives (.fcmple p c a b f) (decide (realOf n1 m1 e1 ≤ realOf n2 m2 e2)) 0 ∧
       gives (.fcmpun p c a b f) false 0) ∧
     (∀ n1 n2 m2 e2, x = .inf n1 → y = .num n2 m2 e2 →
       gives (.fcmpeq p c a b f) false 0 ∧ gives (.fcmplt p c a b f) n1 0 ∧ gives (.fcmple p c a b f) n1 0 ∧
       gives (.fcmpun p c a b f) false 0) ∧
     (∀ n1 m1 e1 n2, x = .num n1 m1 e1 → y = .inf n2 →
       gives (.fcmpeq p c a b f) false 0 ∧ gives (.fcmplt p c a b f) (!n2) 0 ∧
       gives (.fcmple p c a b f) (!n2) 0 ∧ gives (.fcmpun p c a b f) false 0) ∧
     (∀ n1 n2, x = .inf n1 → y = .inf n2 →
       gives (.fcmpeq p c a b f) (n1 == n2) 0 ∧ gives (.fcmplt p c a b f) (n1 && !n2) 0 ∧
       gives (.fcmple p c a b f) (n1 || !n2) 0 ∧ gives (.fcmpun p c a b f) false 0) ∧
     (x.isNan = true ∨ y.isNan = true →
       let quiet : FFlags := if x.isSig = true ∨ y.isSig = true then 1 else 0
       gives (.fcmpeq p c a b f) false quiet ∧ gives (.fcmplt p c a b f) false 1 ∧
       gives (.fcmple p c a b f) false 1 ∧ gives (.fcmpun p c a b f) true quiet))

/-- R169: SEL gives A where P[c] is 1 and B elsewhere; either source poisons it. A word of major 0x0E with a
nonzero fn, or bits [10:9] nonzero, poisons s(d) and does nothing else. -/
def Obligations.SelectResult : Prop :=
  ∀ (s : State),
    (∀ (d a b : BitVec 5) (c : BitVec 3), s.runs 0x0E = true →
      (encode (.sel d a b c)).toNat =
        0x0E * 2 ^ 26 + d.toNat * 2 ^ 21 + a.toNat * 2 ^ 16 + b.toNat * 2 ^ 11 + c.toNat * 2 ^ 6 ∧
      decode (encode (.sel d a b c)) = .ok (.sel d a b c) ∧
      exec (.sel d a b c) s =
        .next ((s.written d (if s.cur.getP c = true then s.cur.getS a else s.cur.getS b) [a, b]).retired 0x0E)) ∧
    (∀ (w : BitVec 32), w.toNat / 2 ^ 26 = 0x0E → (w.toNat % 2 ^ 6 ≠ 0 ∨ w.toNat / 2 ^ 9 % 4 ≠ 0) →
      s.bare 0x0E = true → w.extractLsb' 21 5 ≠ 0 → exec (.unassignedEncoding w) s =
        .next ({ s with cur := s.cur.poisonS (w.extractLsb' 21 5) }.retired 0x0E))

/-- R170, R171: each floating instruction completes with its exact result rounded into its format in its
mode, and joins its flags; FNEG, FABS, FCPYS and FKIND set none. -/
def Obligations.FloatResults : Prop :=
  ∀ (s : State) (d a b c t : BitVec 5) (r : BitVec 3) (f g : BitVec 2),
    let F := fmtOfCode f
    let w := F.width
    let m := rmodeOf r.toNat s.cur.rmode
    let x := F.read (s.cur.getS a)
    let y := F.read (s.cur.getS b)
    let z := F.read (s.cur.getS c)
    let A := (s.cur.getS a).toNat % 2 ^ w
    let B := (s.cur.getS b).toNat % 2 ^ w
    (s.runs 0x0F = true →
      let gives (i : Instr) (v : FVal × FFlags) (l : List (BitVec 5)) : Prop :=
        exec i s = .next ((s.floated d (F.write m v) l).retired 0x0F)
      let plain (i : Instr) (v : Nat) (l : List (BitVec 5)) : Prop :=
        exec i s = .next ((s.written d (BitVec.ofNat 64 v) l).retired 0x0F)
      gives (.fadd d a b r f) (fAdd m x y) [a, b] ∧ gives (.fsub d a b r f) (fSub m x y) [a, b] ∧
      gives (.fmul d a b r f) (fMul x y) [a, b] ∧ gives (.fdiv d a b r f) (fDiv x y) [a, b] ∧
      gives (.fsqrt d a r f) (fSqrt x) [a] ∧
      exec (.fmin d a b f) s =
        .next ((s.floated d (F.write .rne (fMinMax false x y)) [a, b]).retired 0x0F) ∧
      exec (.fmax d a b f) s =
        .next ((s.floated d (F.write .rne (fMinMax true x y)) [a, b]).retired 0x0F) ∧
      plain (.fneg d a f) (A ^^^ 2 ^ (w - 1)) [a] ∧ plain (.fabs d a f) (A % 2 ^ (w - 1)) [a] ∧
      plain (.fcpys d a b f) (A % 2 ^ (w - 1) + B / 2 ^ (w - 1) * 2 ^ (w - 1)) [a, b] ∧
      (∃ k, k < 6 ∧ plain (.fkind d a f) (k + 8 * (A / 2 ^ (w - 1))) [a] ∧
        (k = 5 ↔ x.isSig = true) ∧ (k = 4 ↔ x.isNan = true ∧ x.isSig = false) ∧ (k = 3 ↔ x.isInf = true) ∧
        (k = 0 ↔ x.isZero = true) ∧
        (k = 1 ↔ x.isZero = false ∧ A / 2 ^ F.m % 2 ^ F.e = 0)) ∧
      gives (.fcvt d a g r f) ((fmtOfCode g).read (s.cur.getS a), 0) [a] ∧
      (codeCvtInt t = true →
        exec (.fcvti d a t r f) s =
          .next ((s.floated d (BitVec.ofInt 64 (tagIntVal t (x.toInt m (tagSigned t) (tagWidth t)).1),
            (x.toInt m (tagSigned t) (tagWidth t)).2) [a]).retired 0x0F) ∧
        gives (.fcvtf d a t r f) (intVal (tagIntVal t (s.cur.getS a).toNat), 0) [a])) ∧
    (s.runs 0x10 = true →
      exec (.fmadd d a b c f r) s = .next ((s.floated d (F.write m (fFma m false x y z)) [a, b, c]).retired 0x10) ∧
      exec (.fnmadd d a b c f r) s = .next ((s.floated d (F.write m (fFma m true x y z)) [a, b, c]).retired 0x10))

/-- R141, R170, R171: the exact results of numbers are the sums, differences, products and fused sums of
the reals they stand for; where a quotient or a root is a dyadic number, so is that of FDIV and FSQRT. -/
def Obligations.ExactArithmetic : Prop :=
  ∀ (m : RMode) (n1 n2 n3 : Bool) (m1 m2 m3 : Nat) (e1 e2 e3 : Int),
    let x := FVal.num n1 m1 e1
    let y := FVal.num n2 m2 e2
    let z := FVal.num n3 m3 e3
    let X := realOf n1 m1 e1
    let Y := realOf n2 m2 e2
    let Z := realOf n3 m3 e3
    let stands (v : FVal × FFlags) (q : ℚ) : Prop := ∃ n k e, v = (.num n k e, 0) ∧ realOf n k e = q
    stands (fAdd m x y) (X + Y) ∧ stands (fSub m x y) (X - Y) ∧ stands (fMul x y) (X * Y) ∧
    stands (fFma m false x y z) (X * Y + Z) ∧ stands (fFma m true x y z) (-(X * Y) + Z) ∧
    (m2 ≠ 0 → m2 < 2 ^ 64 → ∃ n k e, fDiv x y = (.num n k e, 0) ∧ |realOf n k e - X / Y| ≤ |X / Y| / 2 ^ 64 ∧
      (realOf n k e = X / Y ∨ k % 2 = 1) ∧
      (∀ (i : Nat) (p : Int), |X / Y| = i * (2 : ℚ) ^ p → realOf n k e = X / Y)) ∧
    (m1 ≠ 0 → m2 = 0 → fDiv x y = (.inf (n1 != n2), 2)) ∧
    (m1 = 0 → m2 = 0 → (fDiv x y).2 = 1 ∧ (fDiv x y).1.isNan = true) ∧
    (n1 = false → ∃ k e, fSqrt x = (.num false k e, 0) ∧ |realOf false k e ^ 2 - X| ≤ X / 2 ^ 64 ∧
      (realOf false k e ^ 2 = X ∨ k % 2 = 1) ∧
      (∀ (i : Nat) (p : Int), X = (i * (2 : ℚ) ^ p) ^ 2 → realOf false k e = i * (2 : ℚ) ^ p)) ∧
    (n1 = true → m1 = 0 → fSqrt x = (.num true 0 0, 0)) ∧
    (n1 = true → m1 ≠ 0 → (fSqrt x).2 = 1 ∧ (fSqrt x).1.isNan = true)

/-- R141: a real of magnitude at most the largest finite one rounds into a format: an exact result sets no flag; any other
sets NX, and UF beside it where what it rounds to lies below the smallest normal magnitude, and lies where the mode puts it
among the finite numbers of the format: at a tie RNE takes the even code, and RNA the larger magnitude. Beyond the largest
finite magnitude and below the next power of two the mode decides whether the result overflows.
R142: what a result that overflows becomes, by mode, by format, and with saturation. -/
def Obligations.RoundingIsNearest : Prop :=
  (∀ (f : Fmt) (mode : RMode) (sat neg : Bool) (mant : Nat) (exp : Int), mant ≠ 0 →
     let x := realOf neg mant exp
     let finite (z : ℚ) : Prop := ∃ code n k e, f.value code = .num n k e ∧ z = realOf n k e
     let least : ℚ := if f = .mxi8 then 1 / 64 else (2 : ℚ) ^ (1 - (f.bias : Int))
     |x| ≤ (f.top.2.1 : ℚ) * (2 : ℚ) ^ f.top.2.2 →
     ∃ n k e, f.value (f.round mode sat neg mant exp).1 = .num n k e ∧
       let y := realOf n k e
       let code := (f.round mode sat neg mant exp).1
       let flags := (f.round mode sat neg mant exp).2
       (flags = 0 ↔ y = x) ∧ (y ≠ x → flags = fNX ||| (if |y| < least then fUF else 0)) ∧
       (finite x → y = x) ∧
       (match mode with
         | .rne => ∀ z, finite z → |y - x| ≤ |z - x| ∧ (z ≠ y → |z - x| = |y - x| → code % 2 = 0)
         | .rna => ∀ z, finite z → |y - x| ≤ |z - x| ∧ (z ≠ y → |z - x| = |y - x| → |z| < |y|)
         | .rtz => |y| ≤ |x| ∧ ∀ z, finite z → |z| ≤ |x| → |z| ≤ |y|
         | .rup => x ≤ y ∧ ∀ z, finite z → x ≤ z → y ≤ z
         | .rdn => y ≤ x ∧ ∀ z, finite z → z ≤ x → z ≤ y)) ∧
  (∀ (f : Fmt) (mode : RMode) (neg : Bool) (mant : Nat) (exp : Int),
     let x := |realOf neg mant exp|
     let top := (f.top.2.1 : ℚ) * (2 : ℚ) ^ f.top.2.2
     let beyond := (2 : ℚ) ^ ((2 : Int) ^ f.e - 1 - f.bias)
     let r := f.round mode false neg mant exp
     let outward : Prop := (mode = .rup ∧ neg = false) ∨ (mode = .rdn ∧ neg = true)
     let nearest : Prop := mode = .rne ∨ mode = .rna
     let atTop : Prop := ∃ k e, f.value r.1 = .num neg k e ∧ (k : ℚ) * (2 : ℚ) ^ e = top
     (f ∈ [Fmt.f64, .f32, .bf16, .f16, .e5m2] →
       (beyond ≤ x → r.2 = fOF ||| fNX ∧ (nearest ∨ outward → f.value r.1 = .inf neg) ∧
         (¬(nearest ∨ outward) → atTop)) ∧
       (top < x → x < beyond →
         let past : Prop := outward ∨ (nearest ∧ top + (2 : ℚ) ^ f.top.2.2 / 2 ≤ x)
         (past → r.2 = fOF ||| fNX ∧ f.value r.1 = .inf neg) ∧
         (¬past → r.2 = fNX ∧ atTop))) ∧
     (f = .e4m3 →
       (480 ≤ x → r.2 = fOF ||| fNX ∧ (nearest ∨ outward → f.value r.1 = .nan neg false (2 ^ 51)) ∧
         (¬(nearest ∨ outward) → atTop)) ∧
       (448 < x → x < 480 →
         let past : Prop := outward ∨ (mode = .rne ∧ 464 < x) ∨ (mode = .rna ∧ 464 ≤ x)
         (past → r.2 = fOF ||| fNX ∧ f.value r.1 = .nan neg false (2 ^ 51)) ∧
         (¬past → r.2 = fNX ∧ atTop)))) ∧
  (∀ (f : Fmt) (mode : RMode) (neg : Bool) (mant : Nat) (exp : Int),
     let plain := f.round mode false neg mant exp
     let held := f.round mode true neg mant exp
     held.2 = plain.2 ∧ (plain.2 &&& fOF = 0 → held.1 = plain.1) ∧
     (plain.2 &&& fOF = fOF → held.2 = fOF ||| fNX ∧ ∃ k e, f.value held.1 = .num neg k e ∧
       (k : ℚ) * (2 : ℚ) ^ e = (f.top.2.1 : ℚ) * (2 : ℚ) ^ f.top.2.2) ∧
     (f ∈ [Fmt.e2m1, .mxi8] → plain = held) ∧
     (f = .e2m1 → 8 ≤ |realOf neg mant exp| → held.2 = fOF ||| fNX) ∧
     (f = .mxi8 → 2 ≤ |realOf neg mant exp| → held.2 = fOF ||| fNX))

/-! ### Prefixes, branches and hints -/

/-- R82, R83, R89: PFX sets the latch to its bits [25:14] and goes on; behind another PFX it raises the
illegal-instruction fault, reason 2.
R78, R355, R371: under any prefix a hint does nothing but go on; PRI sets the thread's service priority. -/
def Obligations.PrefixesAndHints : Prop :=
  (∀ (s : State) (d : BitVec 5) (e k : BitVec 1) (n : BitVec 3) (i z : BitVec 1),
     (s.cur.latch = none → ∃ t l, exec (.pfx d e k n i z) s = .next t ∧
       t.cur = { s.cur with latch := some l, pc := s.cur.pc + 4, winInstr := s.cur.winInstr + 1 } ∧
       t = { s with cur := t.cur, cores := t.cores } ∧ l = (encode (.pfx d e k n i z)).extractLsb' 14 12 ∧
       lD2 l = d ∧ lDE l = (e == 1) ∧ lPK l = (k == 1) ∧ lPN l = n ∧ lPI l = (i == 1) ∧ lZM l = (z == 1)) ∧
     (s.cur.latch.isSome = true →
       exec (.pfx d e k n i z) s = .next (s.trap (illegal (encode (.pfx d e k n i z)) 2)))) ∧
  (∀ (s : State) (a k : BitVec 5) (i : BitVec 16) (n : BitVec 4) (h : BitVec 1), (s.cls s.cur.core).isSome = true →
     exec (.pfL2r a i) s = .next (s.retired 0x3C) ∧ exec (.pfL2w a i) s = .next (s.retired 0x3C) ∧
     exec (.pfL1 a i) s = .next (s.retired 0x3C) ∧
     exec (.pri n) s = .next ({ s with cur := { s.cur with priority := n } }.retired 0x3C) ∧
     ((h = 1 ∨ k.toNat < 16) → exec (.hint h a k i) s = .next (s.retired 0x3C)) ∧
     (h = 0 → 16 ≤ k.toNat → exec (.hint h a k i) s =
       .next ({ s with cur := { s.cur with priority := k.setWidth 4 } }.retired 0x3C)))

/-- R85: under a false scalar predicate without ZM every instruction that accepts one does nothing but go on; with ZM one
with a scalar destination writes 0 to it and to the second one, and one without a register or mask destination (a compare,
PLOG, BR, a store, a matrix instruction that writes none) goes on.
R85, R180, R181, R203: with ZM a vector destination's elements 0 to vl − 1 become 0 under an unpoisoned tag, or the register
dead, without a flag; bits 0 to vl − 1 of a mask destination become 0; and a reduction, MPOPC and MFIRST give 0; but with
vl = 0 one of majors 0x17 to 0x1E has no effect beyond its issue slot, a vector load or atomic completes, and beyond VLMAX at its widths it raises the
vector-length fault. A drain that goes on sets `vesr` to 0 (R271). -/
def Obligations.DisabledInstructions : Prop :=
  ∀ (s : State) (i : Instr) (l : BitVec 12), encoded i = true → majorOf i ≠ 0x01 → majorOf i < 0x3C →
    s.onClass (majorOf i) = true → s.roomFor i = true → s.cur.latch = some l → lPK l = false →
    (s.cur.getP (lPN l) != lPI l) = false →
    let u : State := if isDrain i = true then { s with cur := { s.cur with vesr := 0 } } else s
    (lDE l = false → (rowOf i).1 = true → (lZM l = false ∨
        (scalarDestOf i = none ∧ majorOf i ∈ [0x0B, 0x0C, 0x0D, 0x11, 0x20, 0x23, 0x24, 0x27])) →
      exec i s = .next (u.retired (majorOf i))) ∧
    (∀ d, scalarDestOf i = some d → (lDE l = true → (rowOf i).2.2 = true) →
      exec i s = .next ((if lZM l = true then s.zeroed d else s).retired (majorOf i))) ∧
    (lZM l = true → s.cur.reissue = none → s.allResident = true → (s.gathers s.cur.ref).isEmpty = true →
      let vl := s.cur.vl.toNat
      let tooLong (W : Nat) : Prop := W ≠ 0 ∧ s.vlmax s.cur.core W < vl
      let stops (W : Nat) : Prop := ∃ st, exec i s = .next ({ s with failing := none }.trap
        { code := 6, val := BitVec.ofNat 64 ((encode i).toNat + s.vlmax s.cur.core W * 2 ^ 32), elem := none, start := st })
      (∀ d, vectorDestOf i = some d → (lDE l = true → majorOf i ∈ [0x18, 0x19, 0x1C, 0x1D]) →
        (vl = 0 → exec i s = .next (if majorOf i < 0x26 then s.passed (majorOf i) else s.retired (majorOf i))) ∧
        (vl ≠ 0 → ∃ W, W ≤ 64 ∧ (tooLong W → stops W) ∧
          (¬tooLong W → ∃ t, exec i s = .next t ∧ s.vframe t W 0 ∧ t.cur.m = s.cur.m ∧
            let x := t.cur.getV d
            x.tag ≠ 0x1F ∧ (x.tag = 0 → x.bits = (s.cur.getV d).bits) ∧
            (∀ e, x.tag ≠ 0 → (e + 1) * tagWidth x.tag ≤ 8192 → elemOf x.bits (tagWidth x.tag) e =
              if e < vl then 0 else elemOf (s.cur.getV d).bits (tagWidth x.tag) e) ∧
            (∀ d2, second s.cur.latch = some d2 → (t.cur.getV d2).tag = x.tag ∧ ∀ e, e < vl → x.tag ≠ 0 →
              elemOf (t.cur.getV d2).bits (tagWidth x.tag) e = 0) ∧
            (∀ v, v ≠ d → second s.cur.latch ≠ some v → (tagBlock x.tag = true → v ≠ companion d) →
              t.cur.getV v = s.cur.getV v)))) ∧
      (∀ d, maskDestOf i = some d → lDE l = false →
        let cleared (t : State) : Prop := t.cur.v = s.cur.v ∧ t.cur.s = s.cur.s ∧ t.mem = s.mem ∧
          (∀ n, n ≠ d → t.cur.getM n = s.cur.getM n) ∧
          (d ≠ 0 → ∀ e, e < 2048 → (t.cur.getM d).getLsbD e = (decide (vl ≤ e) && (s.cur.getM d).getLsbD e))
        (majorOf i = 0x1F → ∃ t, exec i s = .next t ∧ cleared t ∧ t.cur.pc = s.cur.pc + 4) ∧
        (majorOf i = 0x1A → vl = 0 → exec i s = .next (s.passed 0x1A)) ∧
        (majorOf i = 0x1A → vl ≠ 0 → ∃ W, W ≤ 64 ∧ (tooLong W → stops W) ∧
          (¬tooLong W → ∃ t, exec i s = .next t ∧ s.vframe t W 0 ∧ cleared t))) ∧
      (∀ d, reductionDestOf i = some d →
        (vl = 0 → exec i s = .next ({ s with cur := s.cur.setS d 0 false }.passed 0x1E)) ∧
        (vl ≠ 0 → ∃ W, W ≤ 64 ∧ (tooLong W → stops W) ∧
          (¬tooLong W → exec i s = .next ((s.zeroed d).retired 0x1E)))) ∧
      (∀ d m, i = .mpopc d m ∨ i = .mfirst d m →
        (vl = 0 → exec i s = .next ({ s with cur := s.cur.setS d 0 false }.passed 0x1E)) ∧
        (vl ≠ 0 → ∃ t, exec i s = .next t ∧ (s.zeroed d).vframe t 0 0 ∧ t.cur.v = s.cur.v ∧ t.cur.m = s.cur.m)))

/-- R84: under a prefix of a kind that its major's row of R84 refuses, every instruction but PFX, the CSR
accesses and the hints raises the illegal-instruction fault, reason 3, with nothing done; one that is convoy-eligible
becomes the entry of a convoy, from its START (R254).
R65, R81: on a class outside the mark of its major, every instruction raises the migration trap; T-cores
lack the vector majors, only T-cores have major 0x20, and only C-cores 0x2E.
R44, R81, R259: the migration trap has the thread leave, with nothing done, its PC at the word and its latch kept, for an
eligible core of the first of the classes T, V and C that the mark has and that has one; with none the word raises the
no-suitable-class fault with bit 32 of `trval` set.
R184, R240, R358: an instruction whose queue is full has not issued: it stays at its PC.
R72, R75: an operand's poison is consumed before any effect, in the order a, b, c, and then d as a source: `trval` names the
register in [5:0] and its position in [7:6]. The scalar compares, CALLR, the CSR writes, stores, atomics, LD.fc, WAITA,
RWB, RINV and MIGRATE consume it. -/
def Obligations.StoppedInstructions : Prop :=
  (∀ (s : State) (i : Instr) (l : BitVec 12), encoded i = true → majorOf i ≠ 0x01 → majorOf i ≠ 0x14 →
     majorOf i < 0x3C → s.onClass (majorOf i) = true → s.roomFor i = true → s.cur.latch = some l →
     ((lPK l = false ∧ (rowOf i).1 = false) ∨ (lPK l = true ∧ (rowOf i).2.1 = false) ∨
       (lDE l = true ∧ (rowOf i).2.2 = false)) →
     exec i s = .next (s.trap { illegal (encode i) 3 with
       start := if isDrain i = true ∨ majorOf i ∈ [0x17, 0x18, 0x19, 0x1A, 0x1B, 0x1C, 0x26, 0x27, 0x28] then
         some s.cur.start else none })) ∧
  ((∀ (s : State) (i : Instr) (k : Cls), encoded i = true → majorOf i ≠ 0x01 → majorOf i < 0x3C →
     s.cls s.cur.core = some k → inMark (majorOf i) k = false →
     exec i s = .next (s.classTrap (encode i) (majorOf i))) ∧
   (∀ (s : State) (w : BitVec 32) (major : Nat),
     let eligible (k : Cls) : Option Nat := if inMark major k = true then s.chooseCore k false else none
     let goes (k : Cls) : Prop := ∀ d, eligible k = some d → s.cls d = some k ∧ d ≠ s.cur.core ∧
       let t := s.classTrap w major
       t.cur.run = .transit ∧ t.cur.pc = s.cur.pc ∧ t.cur.latch = s.cur.latch ∧ t.cur.s = s.cur.s ∧ t.cur.v = s.cur.v ∧
       t.cur.poison = s.cur.poison ∧ t.mem = s.mem ∧ t.threads = s.threads ∧
       ∃ m, t.cur.mig = some m ∧ m.dest = d ∧ m.src = s.cur.core ∧ m.cause = 0 ∧ m.sys = false ∧ m.fixed = false
     goes .t ∧ (eligible .t = none → goes .v) ∧ (eligible .t = none → eligible .v = none → goes .c) ∧
     (eligible .t = none → eligible .v = none → eligible .c = none → s.classTrap w major =
       s.trap { code := 3, val := BitVec.ofNat 64 (w.toNat + 2 ^ 32), elem := none, start := none })) ∧
   (∀ (s : State) (i : Instr), encoded i = true → majorOf i ≠ 0x01 → majorOf i < 0x3C →
     s.onClass (majorOf i) = true → s.roomFor i = false → exec i s = .next { s with held := true }) ∧
   (∀ major k, inMark major k = false ↔
     ((0x17 ≤ major ∧ major ≤ 0x1E ∨ 0x26 ≤ major ∧ major ≤ 0x28) ∧ k = .t) ∨ (major = 0x20 ∧ k ≠ .t) ∨
       (major = 0x2E ∧ k ≠ .c))) ∧
  (∀ (s : State) (d a b : BitVec 5) (p : BitVec 3) (c : BitVec 2) (i : BitVec 11) (n : BitVec 12) (z sp f : BitVec 2)
     (o e : BitVec 3) (w q : BitVec 1),
     let stops (j : Instr) (r : BitVec 5) (pos : Nat) : Prop := exec j s = .next ({ s with failing := none }.trap
       { code := 2, val := BitVec.ofNat 64 (r.toNat + 64 * pos), elem := none, start := none })
     let first (j : Instr) : Prop := s.cur.poisonedS a = true → stops j a 0
     let next (j : Instr) (r : BitVec 5) (pos : Nat) : Prop := s.cur.poisonedS a = false → s.cur.poisonedS r = true → stops j r pos
     let both (j : Instr) : Prop := first j ∧ next j b 1
     let third (j : Instr) : Prop := both j ∧
       (s.clean [a, b] = true → s.cur.poisonedS d = true → stops j d 3)
     (s.runs 0x0B = true → both (.cmpeq p c a b) ∧ both (.cmpne p c a b) ∧ both (.cmplt p c a b) ∧ both (.cmpge p c a b) ∧
       both (.cmpltu p c a b) ∧ both (.cmpgeu p c a b) ∧ both (.fcmpeq p c a b f) ∧ both (.fcmplt p c a b f) ∧
       both (.fcmple p c a b f) ∧ both (.fcmpun p c a b f)) ∧
     (s.runs 0x0C = true → first (.cmpeqi p c a i) ∧ first (.cmpnei p c a i) ∧ first (.cmplti p c a i) ∧
       first (.cmpgei p c a i) ∧ first (.cmpltui p c a i) ∧ first (.cmpgeui p c a i)) ∧
     (s.runs 0x13 = true → first (.callr d a)) ∧
     (s.bare 0x14 = true → csrAssigned n.toNat = true → first (.wrcsr a n) ∧ first (.setcsr a n) ∧ first (.clrcsr a n) ∧
       first (.xchcsr d a n)) ∧
     (s.runs 0x23 = true → first (.st d a z sp i) ∧ next (.st d a z sp i) d 3) ∧
     (s.onClass 0x24 = true → s.passes (true, false, false) = true →
       first (.stSem d a o c w q) ∧ next (.stSem d a o c w q) d 3 ∧ first (.stFe d a o c w q) ∧ next (.stFe d a o c w q) d 3) ∧
     (s.runs 0x24 = true → first (.ldFc d a o c w q)) ∧
     (s.runs 0x25 = true → both (.atadd d a b e c w q) ∧ both (.atand d a b e c w q) ∧ both (.ator d a b e c w q) ∧
       both (.atxor d a b e c w q) ∧ both (.atmin d a b e c w q) ∧ both (.atmax d a b e c w q) ∧ both (.atminn d a b e c w q) ∧
       both (.atmaxn d a b e c w q) ∧ both (.atxch d a b e c w q) ∧ third (.atcmpx d a b e c w q)) ∧
     (s.bare 0x29 = true → both (.waita d a b e q w q) ∧ both (.rwb a b q) ∧ both (.rinv a b q)) ∧
     (s.bare 0x2D = true → first (.migrate a)))

/-- R172, R174: BR goes to PC + SignExtend(off22) × 4 when P[pn] xor neg; CALLR to A with bits [1:0]
clear, with PC + 4 in S[d].
R274: MIGRATE to a scratchpad of another core of the context leaves for it with the next instruction at
PC + 4; at its own core it goes on unless a yield is served there. A core on which the thread's `vl` would exceed
VLMAX is taken as unavailable, which is the model's choice (log entry 40). -/
def Obligations.ControlTransfers : Prop :=
  (∀ (s : State) (p : BitVec 3) (n : BitVec 1) (o : BitVec 22) (d a : BitVec 5),
     (s.runs 0x11 = true → (s.cur.getP p != (n == 1)) = true →
       exec (.br p n o) s = .next (s.retiredAt 0x11 (s.cur.pc + BitVec.ofInt 64 (o.toInt * 4)))) ∧
     (s.runs 0x11 = true → (s.cur.getP p != (n == 1)) = false →
       exec (.br p n o) s = .next (s.retiredAt 0x11 (s.cur.pc + 4))) ∧
     (s.runs 0x13 = true → s.clean [a] = true →
       exec (.callr d a) s = .next ((s.written d (s.cur.pc + 4) []).retiredAt 0x13 (s.cur.getS a &&& 0xFFFFFFFFFFFFFFFC)))) ∧
  (∀ (s s1 : State) (a : BitVec 5) (p : Place) (owner off : Nat), s.bare 0x2D = true → s.clean [a] = true →
     s.touch { elem := 0, space := 0, addr := s.cur.getS a, size := 1, write := false, aperture := false } =
       (s1, .ok p) →
     s1.region p.pa = .scratch owner off → s1.serves s1.cur.ctx owner = true →
     let next : State := { s1 with cur := s1.cur.advance 0x2D (s1.cur.pc + 4) }.count s1.cur.core 0
     (owner = s1.cur.core → s1.cur.st stYIELD = false → exec (.migrate a) s = .next { next with held := true }) ∧
     (owner ≠ s1.cur.core → s1.vlFits s1.cur owner = false → exec (.migrate a) s =
       .next ({ s1 with failing := none }.trap { code := 0x0F, val := s.cur.getS a, elem := none, start := none })) ∧
     (owner ≠ s1.cur.core → s1.vlFits s1.cur owner = true → ∃ t m, exec (.migrate a) s = .next t ∧ t.cur.run = .transit ∧ t.cur.mig = some m ∧
       m.dest = owner ∧ m.cause = 1 ∧ m.fixed = true ∧ t.cur.pc = next.cur.pc ∧ t.cur.s = next.cur.s))

/-- R173: every word of major 0x12 is a CALL; it keeps PC + 4 in S[d], and with s0 it keeps nothing. -/
def Obligations.CallLinks : Prop :=
  (∀ w : BitVec 32, w.toNat / 2 ^ 26 = 0x12 →
    decode w = .ok (.call (w.extractLsb' 21 5) (w.extractLsb' 0 21))) ∧
  (∀ (s : State) (d : BitVec 5) (i : BitVec 21), s.runs 0x12 = true →
    exec (.call d i) s =
      .next ((s.written d (s.cur.pc + 4) []).retiredAt 0x12 (s.cur.pc + BitVec.ofInt 64 (i.toInt * 4)))) ∧
  (∀ (s : State) (v : Word), s.cur.latch = none → s.written 0 v [] = s)

/-! ### Control and status registers -/

/-- R116 to R126, R175, R252, R451: what RDCSR reads, register by register.
R127, R175: in user state every access of 0x800 to 0xFFF raises the privileged fault; elsewhere a read of
an unassigned number poisons S[d], and a write, or a read into s0, is an illegal instruction. -/
def Obligations.CsrReads : Prop :=
  (∀ (s : State) (d : BitVec 5), s.bare 0x14 = true →
     let t := s.cur
     let reads (n : BitVec 12) (v : Word) : Prop := exec (.rdcsr d n) s = .next ((s.written d v []).retired 0x14)
     let core := s.core t.core
     reads 0x000 ((t.pw ||| 1).setWidth 64) ∧
     (exec (.rdcsr d 0x001) s =
       .next ((s.drain.written d s.drain.cur.tstat []).retired 0x14)) ∧
     reads 0x010 t.vl ∧ reads 0x011 t.vspace ∧ reads 0x012 t.vfill ∧ reads 0x013 t.vesr ∧ reads 0x014 t.tshape ∧
     reads 0x020 t.trpc ∧ reads 0x021 t.trcause ∧ reads 0x022 t.trval ∧ reads 0x023 t.trelem ∧
     reads 0x024 t.trvec ∧ reads 0x030 t.xferid ∧ reads 0x031 t.ulipc ∧
     (∀ k : Fin 4, reads (BitVec.ofNat 12 (0x040 + k)) (t.dom[k].setWidth 64)) ∧
     (t.scAway = false → ∀ k : Fin 8, reads (BitVec.ofNat 12 (0x050 + k)) t.sc[k]) ∧
     reads 0x060 (BitVec.ofNat 64 (core.step.toNat + 16 * core.top.toNat + (if core.guard then 256 else 0))) ∧
     reads 0x061 (BitVec.ofNat 64 (core.rplTotal.toNat + core.rplWin.toNat * 2 ^ 32)) ∧
     reads 0x100 (BitVec.ofNat 64 s.dtime) ∧ reads 0x101 (BitVec.ofNat 64 (s.ccyc t.core)) ∧
     reads 0x102 (s.clkst (clusterOf s.blend t.core)) ∧ reads 0x103 (s.die (dieOf t.core)).peak.word ∧
     reads 0x104 (s.die (dieOf t.core)).sust.word ∧
     (∀ k : Fin 18, reads (BitVec.ofNat 12 (0x200 + k)) core.counters[k]) ∧
     (t.st stSYS = true → reads 0x800 s.systvec ∧ reads 0x801 s.devfeat ∧ reads 0x802 s.devrev ∧
       reads 0x803 s.pdefault)) ∧
  (∀ (s : State) (d a : BitVec 5) (n : BitVec 12), s.bare 0x14 = true →
     let stops (i : Instr) (x : Trap) : Prop := exec i s = .next ({ s with failing := none }.trap x)
     let user (i : Instr) : Prop :=
       stops i { code := 5, val := (encode i).setWidth 64 ||| (n.setWidth 64 <<< 32), elem := none, start := none }
     (0x800 ≤ n.toNat → s.cur.st stSYS = false → user (.rdcsr d n) ∧
       (s.clean [a] = true → user (.wrcsr a n) ∧ user (.setcsr a n) ∧ user (.clrcsr a n) ∧ user (.xchcsr d a n))) ∧
     (csrAssigned n.toNat = false → (n.toNat < 0x800 ∨ s.cur.st stSYS = true) →
       (d ≠ 0 → exec (.rdcsr d n) s = .next ({ s with cur := s.cur.poisonS d }.retired 0x14)) ∧
       stops (.rdcsr 0 n) (illegal (encode (.rdcsr 0 n)) 0) ∧ stops (.wrcsr a n) (illegal (encode (.wrcsr a n)) 0) ∧
       stops (.setcsr a n) (illegal (encode (.setcsr a n)) 0) ∧
       stops (.clrcsr a n) (illegal (encode (.clrcsr a n)) 0) ∧
       stops (.xchcsr d a n) (illegal (encode (.xchcsr d a n)) 0)))

/-- R7, R175: the four writing forms change the RW bits of a register to A, or set or clear those where A
has a 1; WRCSR and CLRCSR clear the sticky flags where A has a 1; every other bit keeps its value, and
XCHCSR gives the old value. A read-only register keeps all of it. -/
def Obligations.CsrWrites : Prop :=
  ∀ (s : State) (d a : BitVec 5), s.bare 0x14 = true → s.clean [a] = true →
    let t := s.cur
    let A := t.getS a
    let writes (n : BitVec 12) (rw c old : Word) (put : Word → State) : Prop :=
      exec (.wrcsr a n) s = .next ((put ((old &&& ~~~rw &&& ~~~(A &&& c)) ||| (A &&& rw))).retired 0x14) ∧
      exec (.setcsr a n) s = .next ((put (old ||| (A &&& rw))).retired 0x14) ∧
      exec (.clrcsr a n) s = .next ((put (old &&& ~~~(A &&& (rw ||| c)))).retired 0x14) ∧
      exec (.xchcsr d a n) s =
        .next (((put ((old &&& ~~~rw &&& ~~~(A &&& c)) ||| (A &&& rw))).written d old []).retired 0x14)
    writes 0x000 0xFE 0 ((t.pw ||| 1).setWidth 64) (fun v => { s with cur := { t with pw := v.setWidth 8 ||| 1 } }) ∧
    writes 0x001 0x7FFF0500 0x3F s.drain.cur.tstat (fun v => { s.drain with cur := { s.drain.cur with tstat := v } }) ∧
    writes 0x011 3 0 t.vspace (fun v => { s with cur := { t with vspace := v } }) ∧
    writes 0x012 (BitVec.allOnes 64) 0 t.vfill (fun v => { s with cur := { t with vfill := v } }) ∧
    writes 0x013 0xFFF 0 t.vesr (fun v => { s with cur := { t with vesr := v } }) ∧
    writes 0x020 (~~~3) 0 t.trpc (fun v => { s with cur := { t with trpc := v } }) ∧
    writes 0x024 (~~~0xFF) 0 t.trvec (fun v => { s with cur := { t with trvec := v } }) ∧
    writes 0x031 (~~~3) 0 t.ulipc (fun v => { s with cur := { t with ulipc := v } }) ∧
    (t.scAway = false → ∀ k : Fin 8, writes (BitVec.ofNat 12 (0x050 + k)) 0xFFFFFFFF 0 t.sc[k]
      (fun v => { s with cur := { t with sc := t.sc.set k v } })) ∧
    (t.st stSYS = true →
      writes 0x800 (~~~0xFF) 0 s.systvec (fun v => { s with systvec := v }) ∧
      writes 0x803 0xFFFF 0 s.pdefault (fun v => { s with pdefault := if v = 0 then 50 else v }) ∧
      writes 0x801 0 0 s.devfeat (fun _ => s) ∧ writes 0x802 0 0 s.devrev (fun _ => s)) ∧
    writes 0x010 0 0 t.vl (fun _ => s) ∧ writes 0x014 0 0 t.tshape (fun _ => s) ∧
    writes 0x021 0 0 t.trcause (fun _ => s) ∧ writes 0x022 0 0 t.trval (fun _ => s) ∧
    writes 0x023 0 0 t.trelem (fun _ => s) ∧ writes 0x030 0 0 t.xferid (fun _ => s) ∧
    (∀ k : Fin 4, writes (BitVec.ofNat 12 (0x040 + k)) 0 0 (t.dom[k].setWidth 64) (fun _ => s)) ∧
    (∀ k : Fin 18, writes (BitVec.ofNat 12 (0x200 + k)) 0 0 (s.core t.core).counters[k] (fun _ => s))

/-! ### Taking a trap and returning -/

/-- R87, R121, R247, R248: entry to the thread's handler without a convoy: `trpc`, `trcause`, `trval` and
`trelem`; INTRAP, PP and PFXL; PC at `trvec`.BASE. Nothing else changes but that the vector and matrix instructions in
flight complete: their flags join `tstat`, and the slots that they had still to take are counted, and the lanes
that those need woken, on the thread's own core and die.
R248, R254, R255: a trap with a convoy writes START to `vesr` and the record, whose entry is the
trapping instruction, into the save block; what else it does is as without one. -/
def Obligations.ThreadTrapEntry : Prop :=
  (∀ (s : State) (x : Trap), systemCause x.code = false → x.start = none → x.code < 256 → s.cur.reissue = none →
     s.cur.st stINTRAP = false → 256 ≤ s.cur.trvec.toNat →
     ∃ tstat : Word, s.trap x = { s with cores := s.drain.cores, dies := s.drain.dies, cur := { s.cur with
         trpc := s.cur.pc &&& ~~~3
         trcause := BitVec.ofNat 64 x.code ||| (if x.elem.isSome = true then 0x100 else 0)
         trval := x.val
         trelem := BitVec.ofNat 64 (x.elem.getD 0 % 4096)
         tstat := tstat
         latch := none
         vq := []
         mq := []
         pc := s.cur.trvec &&& ~~~0xFF } } ∧
       (s.cur.vq = [] → s.drain.cores = s.cores ∧ s.drain.dies = s.dies) ∧
       (∀ n, n ≠ s.cur.core → s.drain.core n = s.core n) ∧ (∀ n, n ≠ dieOf s.cur.core → s.drain.die n = s.die n) ∧
       ∀ k, k < 64 → tstat.getLsbD k =
         if k = 13 then true else if k = 28 then s.cur.latch.isSome
         else if 16 ≤ k ∧ k < 28 then (s.cur.latch.getD 0).getLsbD (k - 16) else s.cur.drain.tstat.getLsbD k) ∧
  (∀ (s s1 : State) (x : Trap) (k : Nat), systemCause x.code = false → x.start = some k → k < 4096 →
     s.cur.reissue = none → s.cur.convoy.valid = false → s.cur.st stINTRAP = false → 256 ≤ s.cur.trvec.toNat →
     let e : ConvoyEntry :=
       { iaddr := BitVec.ofNat 32 (s.cur.pc.toNat / 4), start := BitVec.ofNat 12 k, vl := s.cur.vl.setWidth 12,
         pp := s.cur.latch.isSome, pfxl := s.cur.latch.getD 0 }
     let c : Convoy := { valid := true, resume := s.cur.pc + 4, entries := [e] }
     let t := { (s.cur.drain.trapRegs { x with start := none } false) with vesr := BitVec.ofNat 64 k, convoy := c }
     State.saveWrite { s.drain with cur := t } 0x0C0 8 c.word = (s1, true) →
     s.trap x = { s1 with cur := { (s1.cur.setSt stINTRAP true) with pc := s1.cur.trvec &&& ~~~0xFF } } ∧
     (c.word % 2 ^ 64 = 1) ∧ (c.word / 2 ^ 64 % 2 ^ 64 = (s.cur.pc + 4).toNat) ∧
     (c.word / 2 ^ 128 = e.iaddr.toNat + 2 ^ 32 * k + 2 ^ 44 * e.vl.toNat + 2 ^ 56 * e.pp.toNat +
       2 ^ 64 * e.pfxl.toNat))

/-- R249, R76: entry to the system handler on a C-core: SYS and INTRAP, PC at `systvec`.BASE. A thread that
holds poison takes the poison-consumed fault instead, and on another class it leaves for a C-core.
R122, R59: a trap while INTRAP = 1, or without a handler, is fatal: the thread is DONE, and its trap
registers keep their values. -/
def Obligations.SystemTrapEntry : Prop :=
  (∀ (s : State) (x : Trap), systemCause x.code = true → x.start = none → s.cur.reissue = none →
     s.cur.st stINTRAP = false → 256 ≤ s.systvec.toNat →
     let t := s.cur.drain.trapRegs x false
     (t.lowestPoison = none → s.cls s.cur.core = some .c →
       s.trap x = { s.drain with cur := { ((t.setSt stSYS true).setSt stINTRAP true) with pc := s.systvec &&& ~~~0xFF } }) ∧
     (∀ r v, t.lowestPoison = some (r, v) → s.trap x =
       State.threadTrap { s.drain with cur := { t with latch := s.cur.latch } }
         { code := 2, val := BitVec.ofNat 64 (0x100 + r + (if v = true then 32 else 0)), elem := none, start := none }) ∧
     (∀ d, t.lowestPoison = none → s.cls s.cur.core ≠ some .c →
       State.chooseCore { s.drain with cur := { (t.setSt stSYS true).setSt stINTRAP true with
         pc := s.systvec &&& ~~~0xFF } } .c true = some d →
       (s.trap x).cur.run = .transit ∧ (s.trap x).cur.pc = (s.systvec &&& ~~~0xFF) ∧
       (s.trap x).cur.st stSYS = true ∧ (s.trap x).cur.st stINTRAP = true ∧
       (∃ m, (s.trap x).cur.mig = some m ∧ m.dest = d ∧ m.cause = 0 ∧ m.sys = true ∧ s.cls d = some .c))) ∧
  (∀ (s : State) (x : Trap), s.hasXfer s.cur.ref = false →
     (s.cur.st stINTRAP = true ∨
       (if systemCause x.code = true then s.systvec.toNat else s.cur.trvec.toNat) < 256) →
     s.trap x = s.finish true ∧ (s.finish true).cur.run = .done)

/-- R272: BRK raises code 0x0D with the word, and SYSC code 0x0E with A; a poisoned A is consumed. -/
def Obligations.BreakAndSystemCall : Prop :=
  ∀ (s : State) (a : BitVec 5), s.bare 0x2D = true →
    let stops (i : Instr) (code : Nat) (v : Word) : Prop :=
      exec i s = .next ({ s with failing := none }.trap { code := code, val := v, elem := none, start := none })
    stops .brk 0x0D 0xB4000003 ∧ (s.cur.poisonedS a = false → stops (.sysc a) 0x0E (s.cur.getS a)) ∧
    (s.cur.poisonedS a = true → stops (.sysc a) 2 (a.setWidth 64)) ∧
    (s.cur.st stINTRAP = false → 256 ≤ s.cur.trvec.toNat → s.cur.pc.toNat % 4 = 0 → s.cur.reissue = none → ∃ t, exec .brk s = .next t ∧
      t.cur.trpc = s.cur.pc ∧ t.cur.trcause = 0x0D ∧ t.cur.trval = 0xB4000003 ∧ t.cur.s = s.cur.s ∧ t.mem = s.mem)

/-- R269, R273: TRET, and VRESUME without a convoy, clear INTRAP and SYS, reload the latch from PFXL where
PP is set, and go on at `trpc`; VRESUME with a convoy goes on at its first entry. Outside a handler both
are illegal. -/
def Obligations.TrapReturns : Prop :=
  ∀ (s : State), s.bare 0x2D = true →
    (s.cur.st stINTRAP = true → s.cur.convoy.valid = false →
      let t := s.cur
      let back : State := { s with held := true, cur := { t with
        tstat := t.tstat &&& ~~~(if t.st stPP then 0x1000A000 else 0xA000)
        latch := if t.st stPP = true then some t.pfxl else none
        pc := t.trpc &&& ~~~3
        winInstr := t.winInstr + 1 } }
      exec .tret s = .next (back.count t.core 0) ∧ exec .vresume s = .next (back.count t.core 0)) ∧
    (∀ s1 s2 c, s.cur.st stINTRAP = true → s.readConvoy = (s1, some c) → c.valid = true →
      s1.clearConvoy = (s2, true) → ∃ u, exec .vresume s = .next u ∧
        u.cur = (s2.cur.retire 0x2D).resumeConvoy c ∧ u = { s2 with cur := u.cur, cores := u.cores, held := true }) ∧
    (s.cur.st stINTRAP = false →
      exec .tret s = .next ({ s with failing := none }.trap (illegal 0xB4000000 0)) ∧
      exec .vresume s = .next ({ s with failing := none }.trap (illegal 0xB4000001 0)))

/-! ### Scalar memory -/

/-- R250, R284, R295, R332: the checks of a scalar access: misaligned first; a LOCAL byte beyond the
scratchpad; a virtual address whose bits [63:57] are not bit 56; GROUP. A LOCAL access within the
scratchpad, free of errors, has its place in the core's window. -/
def Obligations.AccessChecks : Prop :=
  ∀ (s : State) (space : Nat) (addr : Word) (n : Nat) (k : Want),
    let stops (sp : Nat) (code : Nat) : Prop := (s.access sp addr n k).2 =
      .error { code := code, val := addr, elem := none, start := none }
    (addr.toNat % n ≠ 0 → stops space 8) ∧
    (addr.toNat % n = 0 →
      (s.localBytes s.cur.core < addr.toNat + n → stops 1 9) ∧
      (addr.toNat + n ≤ s.localBytes s.cur.core → s.badRange (windowBase s.cur.core + addr.toNat) n = false →
        s.access 1 addr n k = (s, .ok { pa := windowBase s.cur.core + addr.toNat, attr := 0 })) ∧
      ((∃ j, 57 ≤ j ∧ j < 64 ∧ addr.getLsbD j ≠ addr.getLsbD 56) → stops 0 0x0A) ∧
      (3 ≤ space → stops space 9))

/-- R73, R335, R337: LD and the ordered LD give the bytes at their address, zero-extended, or sign-extended for
sz 4 to 6; plain memory stays as it is. A poisoned address poisons S[d] and loads nothing.
R335, R337: ST and the ordered ST store the low bytes of S[d]; in plain memory that a store reaches those bytes then read
as it, and every other byte reads as before.
R251: a store that reaches no memory changes none, and leaves its address among those whose error is still to be
reported. -/
def Obligations.LoadsAndStores : Prop :=
  (∀ (s s1 : State) (d a : BitVec 5) (z : BitVec 3) (p : BitVec 2) (o : BitVec 11) (c : BitVec 3) (e : BitVec 2)
     (w q : BitVec 1) (pl : Place),
     (s.cur.poisonedS a = false → s.runs 0x22 = true → z ≠ 7 →
       let n : Nat := 2 ^ (z.toNat % 4)
       let addr := s.cur.getS a + BitVec.ofInt 64 (o.toInt * n)
       s.access p.toNat addr n wantLoad = (s1, .ok pl) →
       let l := s1.load p.toNat addr pl n
       (∃ v : Word, exec (.ld d a z p o) s = .next ((l.1.written d v []).retired 0x22) ∧
         (z.toNat < 4 → v.toNat = l.2) ∧ (4 ≤ z.toNat → v.toInt = (BitVec.ofNat (8 * n) l.2).toInt)) ∧
       (s1.plainAt pl = true → p ≠ 2 → l.2 = readNat s.mem pl.pa n ∧ l.1.mem = s.mem ∧ l.1.cur = s.cur)) ∧
     (s.cur.poisonedS a = false → s.runs 0x24 = true →
       let n : Nat := if w = 1 then 8 else 4
       s.access q.toNat (s.cur.getS a) n wantLoad = (s1, .ok pl) →
       let l := s1.load q.toNat (s.cur.getS a) pl n
       exec (.ldSem d a c e w q) s = .next ((l.1.written d (BitVec.ofNat 64 l.2) []).retired 0x24) ∧
       (s1.plainAt pl = true → l.2 = readNat s.mem pl.pa n ∧ l.1.mem = s.mem ∧ l.1.cur = s.cur)) ∧
     (s.cur.poisonedS a = true → s.cur.latch = none →
       (s.runs 0x22 = true →
         exec (.ld d a z p o) s = .next ({ s with cur := s.cur.poisonS d }.retired 0x22)) ∧
       (s.runs 0x24 = true →
         exec (.ldSem d a c e w q) s = .next ({ s with cur := s.cur.poisonS d }.retired 0x24)))) ∧
  (∀ (s s1 : State) (d a : BitVec 5) (z p : BitVec 2) (o : BitVec 11) (c : BitVec 3) (e : BitVec 2) (w q : BitVec 1)
     (pl : Place), s.Inv → s.clean [a, d] = true →
     let D := (s.cur.getS d).toNat
     let stores (i : Instr) (major space n : Nat) (addr : Word) : Prop :=
       s.access space addr n wantStore = (s1, .ok pl) →
       let t := s1.store space addr pl n D
       exec i s = .next (t.retired major) ∧
       (s1.storesTo pl n = true → space ≠ 2 →
         readNat (t.retired major).mem pl.pa n = D % 2 ^ (8 * n) ∧ s.sameBytesBut (t.retired major) pl.pa n ∧
         (s1.watched pl.pa n = false → t.cur = s.cur ∧ t.threads = s.threads ∧ t.full = s.full)) ∧
       (s1.storeLost pl.pa n = true → space ≠ 2 →
         t = { s1 with cur := { s.cur with storeErrors := s.cur.storeErrors ++ [addr] } } ∧ t.mem = s.mem)
     (s.runs 0x23 = true →
       stores (.st d a z p o) 0x23 p.toNat (2 ^ z.toNat) (s.cur.getS a + BitVec.ofInt 64 (o.toInt * 2 ^ z.toNat))) ∧
     (s.onClass 0x24 = true → s.passes (true, false, false) = true →
       stores (.stSem d a c e w q) 0x24 q.toNat (if w = 1 then 8 else 4) (s.cur.getS a)))

/-- R288: LD.fe and LD.fc of a full granule give its bytes, and LD.fc empties it; at an empty one the thread
waits. ST.fe stores and fills the granule.
R349: WAITA gives the value at once where it differs from B, and waits with an armed record where it is
equal; a store that changes it completes the wait of a thread in WAITB. -/
def Obligations.WaitingAccesses : Prop :=
  (∀ (s s1 : State) (d a : BitVec 5) (c : BitVec 3) (e : BitVec 2) (w p : BitVec 1) (pl : Place),
     s.cur.poisonedS a = false →
     let n : Nat := if w = 1 then 8 else 4
     let addr := s.cur.getS a
     let g := pl.pa / 16
     let l := s1.load p.toNat addr pl n
     let waits (i : Instr) (clear : Bool) : Prop := ∃ t, exec i s = .next t ∧
       t.cur.wait = some (.fullEmpty addr pl.pa clear (w == 1) (pl.attr == 2) d s.cur.latch) ∧ t.cur.pc = s1.cur.pc ∧
       (t.cur.run = .waitb ∨ t.cur.run = .waitu) ∧ t.feWaiters = s1.feWaiters ++ [s1.cur.ref] ∧ t.mem = s.mem
     (s.runs 0x24 = true → s.access p.toNat addr n { wantLoad with window := true } = (s1, .ok pl) →
       (s1.full.contains g = true →
         exec (.ldFe d a c e w p) s = .next ((l.1.written d (BitVec.ofNat 64 l.2) []).retired 0x24)) ∧
       (s1.full.contains g = false → waits (.ldFe d a c e w p) false)) ∧
     (s.runs 0x24 = true → s.access p.toNat addr n { wantLoad with w := true, window := true } = (s1, .ok pl) →
       (s1.full.contains g = true → ∃ t, exec (.ldFc d a c e w p) s = .next t ∧
         t.cur = ((l.1.written d (BitVec.ofNat 64 l.2) []).retired 0x24).cur ∧
         (∀ h, t.full.contains h = true ↔ l.1.full.contains h = true ∧ h ≠ g)) ∧
       (s1.full.contains g = false → waits (.ldFc d a c e w p) true)) ∧
     (s.onClass 0x24 = true → s.passes (true, false, false) = true → s.clean [a, d] = true →
       s.access p.toNat addr n { wantStore with window := true } = (s1, .ok pl) →
       exec (.stFe d a c e w p) s =
         .next (((s1.store p.toNat addr pl n (s.cur.getS d).toNat).setFull g).retired 0x24) ∧
       (s1.feWaiters = [] → s1.watched pl.pa n = false → ∀ h,
         ((s1.store p.toNat addr pl n (s.cur.getS d).toNat).setFull g).full.contains h = true ↔
           h = g ∨ s1.full.contains h = true))) ∧
  ((∀ (s s1 : State) (d a b : BitVec 5) (c : BitVec 3) (e w p : BitVec 1) (pl : Place),
     s.bare 0x29 = true → s.clean [a, b] = true → s.monitors = [] →
     let n : Nat := if w = 1 then 8 else 4
     let addr := s.cur.getS a
     s.access p.toNat addr n wantAtomic = (s1, .ok pl) → s1.plainAt pl = true →
     let v := readNat s.mem pl.pa n
     let cmp := (s.cur.getS b).toNat % 2 ^ (8 * n)
     (v ≠ cmp → ∃ t, exec (.waita d a b c e w p) s = .next t ∧
       t.cur = ((s.written d (BitVec.ofNat 64 v) []).retired 0x29).cur ∧ t.mem = s.mem ∧ t.monitors = []) ∧
     (v = cmp → ∃ t, exec (.waita d a b c e w p) s = .next t ∧
       t.cur.wait = some (.waita addr pl.pa (pl.attr == 1) (w == 1) (BitVec.ofNat 64 cmp) d (p == 1)) ∧
       t.cur.pc = s.cur.pc ∧ (t.cur.run = .waitb ∨ t.cur.run = .waitu) ∧ t.mem = s.mem ∧
       t.monitors = [{ ref := s.cur.ref, die := if pl.attr = 1 then some (dieOf s.cur.core) else none, pa := pl.pa,
                       wide := w == 1, cmp := BitVec.ofNat 64 cmp }])) ∧
   (∀ (s : State) (t : Thread) (va cmp : Word) (d : BitVec 5) (l : Bool) (die pa v : Nat), s.Inv → s.threads = [t] →
     s.cur.named t.ref = false → t.run = .waitb → t.latch = none →
     t.wait = some (.waita va pa false true cmp d l) →
     s.monitors = [{ ref := t.ref, die := none, pa := pa, wide := true, cmp := cmp }] →
     s.plainAt { pa := pa, attr := 0 } = true → v % 2 ^ 64 ≠ cmp.toNat →
     let u := s.storeAt die { pa := pa, attr := 0 } 8 v
     u.monitors = [] ∧ u.cur = s.cur ∧
     u.threads = [{ (t.setS d (BitVec.ofNat 64 v) false).retire 0x29 with wait := none, pc := t.pc + 4, run := .run }]))

/-- R290, R338: a scalar atomic, performed at the home of its place, stores its new value and gives the old one; ATCMPX
stores B where the old value is S[d]. In plain memory the old value is memory's own, the bytes then read as the new one, and
every other byte reads as before. -/
def Obligations.AtomicResults : Prop :=
  ∀ (s s1 : State) (d a b : BitVec 5) (c : BitVec 3) (e : BitVec 2) (w p : BitVec 1) (pl : Place),
    s.runs 0x25 = true → s.clean [a, b] = true →
    let n : Nat := if w = 1 then 8 else 4
    let addr := s.cur.getS a
    s.access p.toNat addr n wantAtomic = (s1, .ok pl) →
    let home : Nat := if pl.attr = 0 then 12 else dieOf s.cur.core
    let l := (s1.guardAtomic s1.cur.core pl).loadAt home pl n
    let x := l.2
    let y := (s.cur.getS b).toNat % 2 ^ (8 * n)
    let less : Bool := decide ((BitVec.ofNat (8 * n) x).toInt ≤ (BitVec.ofNat (8 * n) y).toInt)
    let gives (i : Instr) (v : Nat) : Prop :=
      exec i s = .next (((l.1.storeAt home pl n v).written d (BitVec.ofNat 64 x) []).retired 0x25)
    gives (.atadd d a b c e w p) (x + y) ∧ gives (.atand d a b c e w p) (x &&& y) ∧
    gives (.ator d a b c e w p) (x ||| y) ∧ gives (.atxor d a b c e w p) (x ^^^ y) ∧
    gives (.atmin d a b c e w p) (if less = true then x else y) ∧
    gives (.atmax d a b c e w p) (if less = true then y else x) ∧
    gives (.atminn d a b c e w p) (min x y) ∧ gives (.atmaxn d a b c e w p) (max x y) ∧
    gives (.atxch d a b c e w p) y ∧
    (s.cur.poisonedS d = false →
      (x = (s.cur.getS d).toNat % 2 ^ (8 * n) → gives (.atcmpx d a b c e w p) y) ∧
      (x ≠ (s.cur.getS d).toNat % 2 ^ (8 * n) → exec (.atcmpx d a b c e w p) s =
        .next ((l.1.written d (BitVec.ofNat 64 x) []).retired 0x25))) ∧
    (s1.plainAt pl = true → x = readNat s.mem pl.pa n ∧ l.1.mem = s.mem ∧ l.1.cur = s.cur ∧
      (s.Inv → ∀ v, readNat (l.1.storeAt home pl n v).mem pl.pa n = v % 2 ^ (8 * n) ∧
        s.sameBytesBut (l.1.storeAt home pl n v) pl.pa n))

/-- R287, R336, R345, R346: a scalar group load sends a request to every member and stays in RUN; when it
finishes, each member that has not answered answers, and the replies combine into S[d]: the element, the
count of absent members, and poison where a member failed. -/
def Obligations.GroupLoadResults : Prop :=
  ∀ (s : State) (d a : BitVec 5) (o : BitVec 3) (t : BitVec 5), s.runs 0x22 = true → s.cur.poisonedS a = false →
    let addr := s.cur.getS a
    let n := tagWidth t / 8
    (∀ l, s.cur.stall = none → addr.toNat % n = 0 → s.groupPlace addr n = some l →
      exec (.ldGrp d a o t) s = .next { s with held := true, cur := { s.cur with
        stall := some (.group d o t (addr.toNat % 2 ^ 20) (l.map fun m => (m, .pending))) } }) ∧
    (s.cur.stall = none → addr.toNat % n = 0 → s.groupPlace addr n = none →
      exec (.ldGrp d a o t) s =
        .next ({ s with failing := none }.trap { code := 9, val := addr, elem := none, start := none })) ∧
    (∀ d' off members, s.cur.stall = some (.group d' o t off members) →
      let replies := members.map fun m : Option (Nat × Nat) × MemberReply =>
        if m.2 = .pending then s.memberReply s.cur.ctx (addr.toNat % 2 ^ 20) n m.1 else m.2
      let absent := (replies.filter (· == .absent)).length
      let free : Thread := { s.cur with stall := none }
      (replies.contains .failed = false →
        let r := groupCombine (groupOp o.toNat) t replies
        exec (.ldGrp d a o t) s = .next ({ s with
          cur := (((free.setS d (groupStatus t r.1 absent) false).orFlags r.2).copyS d) }.retired 0x22)) ∧
      (replies.contains .failed = true → ∃ u, exec (.ldGrp d a o t) s = .next u ∧ u.mem = s.mem ∧
        u.cur = ({ s with cur := (free.setS d (groupStatus t 0 absent) true).copyS d }.retired 0x22).cur))

/-- R347, R348, R352 to R354: FENCE goes on once every vector and matrix memory instruction of the thread has completed, and
stays until then; RWB and RINV of nothing go on, and of a range once its lines are
written back; STMAP and STUNMAP give their status, and only status 0 changes the map; STUNMAP's mapping takes its sectors with it.
R293, R352: a write-back puts the dirty bytes of a die's copy into memory and no others; the copy is then
clean, or gone. -/
def Obligations.OrderingInstructions : Prop :=
  (∀ (s : State) (d a b : BitVec 5) (c : BitVec 3) (e : BitVec 2) (p : BitVec 1), s.bare 0x29 = true →
     let A := s.cur.getS a
     let B := s.cur.getS b
     let core := s.cur.core
     (s.cur.memoryOpen = false → exec (.fence c e) s = .next (s.retired 0x29)) ∧
     (s.cur.memoryOpen = true → exec (.fence c e) s = .next { s with held := true }) ∧
     (s.cur.memoryOpen = true ↔ (∃ q ∈ s.cur.vq, q.requests = true) ∨ ∃ q ∈ s.cur.mq, q.requests = true) ∧
     (s.clean [a, b] = true →
       ((p = 1 ∨ B = 0) → exec (.rwb a b p) s = .next ((s.openGuard core).retired 0x29) ∧
         exec (.rinv a b p) s = .next ((s.openGuard core).retired 0x29)) ∧
       (∀ drop s1, p = 0 → B ≠ 0 → (s.openGuard core).writeBackRange drop (B.toNat / 65536 + 2) A.toNat
           (A.toNat + B.toNat) = (s1, .ok ()) →
         exec (if drop = true then .rinv a b p else .rwb a b p) s = .next (s1.retired 0x29)) ∧
       (let off := B.toNat % 2 ^ 19
        let len := 4096 * (B.toNat / 2 ^ 32 % 256)
        let st := s.stashStatus A off len
        let maps := (s.core core).stashMaps
        (st ≠ 0 → exec (.stmap d a b) s = .next ((s.written d (BitVec.ofNat 64 st) []).retired 0x29)) ∧
        (st = 0 → exec (.stmap d a b) s = .next (((s.setCore core { s.core core with
           stashMaps := maps ++ [{ off := off, len := len, ctx := s.cur.ctx, vbase := A }] }).written d 0 []).retired 0x29)) ∧
        (st = 0 ↔ s.stashBytes core ≠ 0 ∧ A.toNat % 4096 = 0 ∧ off % 4096 = 0 ∧ len ≠ 0 ∧ len ≤ 524288 ∧
           off + len ≤ s.stashBytes core ∧ maps.length < 16 ∧
           ∀ m ∈ maps, m.ctx = s.cur.ctx → off + len ≤ m.off ∨ m.off + m.len ≤ off))) ∧
     (s.cur.poisonedS b = false →
       let off := B.toNat % 2 ^ 19
       let covers (m : StashMap) : Bool := m.ctx == s.cur.ctx && decide (m.off ≤ off) && decide (off < m.off + m.len)
       let maps := (s.core core).stashMaps
       let gone (x : StashSector) : Bool := x.ctx == s.cur.ctx && maps.any fun m =>
         covers m && decide (m.off ≤ 32 * x.sector) && decide (32 * x.sector < m.off + m.len)
       (maps.any covers = true →
         exec (.stunmap d b) s = .next (((State.stashOut (s.setCore core { s.core core with
           stashMaps := maps.filter fun m => !covers m }) core gone).written d 0 []).retired 0x29) ∧
         ∀ x, (s.core core).sectors.contains x = true → (((State.stashOut (s.setCore core { s.core core with
           stashMaps := maps.filter fun m => !covers m }) core gone).core core).sectors.contains x = !gone x)) ∧
       (maps.any covers = false → exec (.stunmap d b) s = .next ((s.written d 1 []).retired 0x29)))) ∧
  (∀ (s : State) (die line : Nat) (drop : Bool) (p : PrivLine), s.Inv → s.priv die line = some p →
     let t := s.writeBack die line drop
     (∀ k, k < 256 → readByte t.mem (line * 256 + k) =
       if p.dirty.getLsbD k then p.byte k else readByte s.mem (line * 256 + k)) ∧
     (∀ a, a < line * 256 ∨ line * 256 + 256 ≤ a → readByte t.mem a = readByte s.mem a) ∧
     t.priv die line = (if drop = true then none else some { p with dirty := 0 }) ∧ t.Inv)

/-! ### Memory consistency -/

/-- R308 to R316: an execution whose accesses are performed one after another, each read taking the latest write
of its location, is allowed. -/
def Obligations.SequentialExecutionsAllowed : Prop :=
  ∀ x : Execution, x.sequential = true → x.allowed = true

/-! ### Vectors -/

/-- R185 to R187: SETVL grants the smaller of A and VLMAX, and kills what has not arrived where VSM is set;
VCFG and VKILL change tags alone.
R145, R146: the computation tag of every tag, and the combined tag of computation tags: the wider integer,
signed where widths are equal and signs are not; f32 for an integer of 16 bits or more with a 16-bit float, f64
for a 64-bit integer with f32; of two floats the wider, and f32 for f16 with bf16. -/
def Obligations.VectorConfiguration : Prop :=
  (∀ (s : State) (d a v b t : BitVec 5), s.bare 0x16 = true → (s.gathers s.cur.ref).isEmpty = true →
     s.cur.reissue = none →
     (s.cur.poisonedS a = false → s.cur.st stPREQ = false → s.cur.st stYIELD = false → s.cur.target = none →
       ∃ u, exec (.setvl d a t) s = .next u ∧
         u.cur.vl = BitVec.ofNat 64 (min (s.cur.getS a).toNat (s.vlmax s.cur.core (tagWidth t))) ∧
         (∀ r, u.cur.getS r = if r = 0 then 0 else if r = d then u.cur.vl else s.cur.getS r) ∧
         (∀ r, u.cur.poisonedS r = if r = d then false else s.cur.poisonedS r) ∧
         (∀ r, (u.cur.getV r).bits = (s.cur.getV r).bits ∧ (u.cur.getV r).tag =
           if s.cur.st stVSM = true ∧ (s.cur.getV r).resident = false then 0 else (s.cur.getV r).tag) ∧
         u.cur.st stVSM = false ∧ (∀ k, k ≠ 6 → u.cur.tstat.getLsbD k = s.cur.tstat.getLsbD k) ∧
         u = { s with cur := u.cur, cores := u.cores, failing := none } ∧
         u.cur = { s.cur with s := u.cur.s, poison := u.cur.poison, v := u.cur.v, tstat := u.cur.tstat
                              vl := u.cur.vl, pc := s.cur.pc + 4, winInstr := s.cur.winInstr + 1 }) ∧
     (∃ u, exec (.vcfg v t) s = .next u ∧ (∀ r, (u.cur.getV r).bits = (s.cur.getV r).bits ∧ (u.cur.getV r).tag =
         if r = v ∧ (s.cur.getV v).tag ≠ 0x1F then t else (s.cur.getV r).tag) ∧
       u = { s with cur := u.cur, cores := u.cores, failing := none } ∧
       u.cur = { s.cur with v := u.cur.v, tstat := u.cur.tstat, pc := s.cur.pc + 4
                            winInstr := s.cur.winInstr + 1 }) ∧
     (a.toNat ≤ b.toNat → ∃ u, exec (.vkill a b) s = .next u ∧
       (∀ r, (u.cur.getV r).bits = (s.cur.getV r).bits ∧ (u.cur.getV r).tag =
         if a.toNat ≤ r.toNat ∧ r.toNat ≤ b.toNat then 0 else (s.cur.getV r).tag) ∧
       u = { s with cur := u.cur, cores := u.cores, failing := none } ∧
       u.cur = { s.cur with v := u.cur.v, tstat := u.cur.tstat, pc := s.cur.pc + 4
                            winInstr := s.cur.winInstr + 1 })) ∧
  ((∀ t : BitVec 5, compTag t =
     if t = 0x0F then 0x01 else if t = 0x0D ∨ t = 0x0E then 0x0C
     else if 0x10 ≤ t.toNat ∧ t.toNat ≤ 0x12 then 0x0A else t) ∧
   (∀ a b : BitVec 5, 1 ≤ a.toNat → a.toNat ≤ 0x0C → 1 ≤ b.toNat → b.toNat ≤ 0x0C →
     let k := combineTags a b
     (tagInt a = true → tagInt b = true →
       tagInt k = true ∧ tagWidth k = max (tagWidth a) (tagWidth b) ∧
       (tagWidth a = tagWidth b → tagSigned k = (tagSigned a || tagSigned b)) ∧
       (tagWidth b < tagWidth a → k = a) ∧ (tagWidth a < tagWidth b → k = b)) ∧
     (tagInt a = true → tagInt b = false →
       k = (if tagWidth b = 16 ∧ tagWidth a ≠ 8 then 0x0A else if b = 0x0A ∧ tagWidth a = 64 then 0x09 else b)) ∧
     (tagInt a = false → tagInt b = false →
       k = (if a = b then a else if tagWidth a = tagWidth b then 0x0A else if tagWidth a < tagWidth b then b else a)) ∧
     combineTags b a = k))

/-- R177, R189: the arithmetic of major 0x17 in the combined tag K of its sources: modulo 2^w, or clamped, where
K is an integer; rounded where it is a float; and the bitwise operations on the bits of either. -/
def Obligations.VectorArithmetic : Prop :=
  ∀ (s : State) (d a b : BitVec 5) (k : BitVec 2) (r : BitVec 3),
    let ops := [VOpd.reg a, opdOf k b]
    let tags := opdTags s.cur ops
    let rd := resolvedTag 0x04 tags
    let K := combinedTag 0x04 tags
    let w := tagWidth K
    let W := (ops.map (srcWidth s.cur rd)).foldl max (max w w)
    s.runs 0x17 = true → s.vready W = true → (ops.any fun o => o.poisoned s.cur) = false →
    let gives (i : Instr) (rm : Nat) (val : RMode → List Nat → Nat × FFlags) : Prop :=
      let m := rmodeOf rm s.cur.rmode
      ∃ t, exec i s = .next t ∧ s.vwrote t d K W s.cur.start fun e =>
        let l := readAll s.cur K rd m e ops
        ((val m l.1).1, l.2 ||| (val m l.1).2)
    let int (f : Int → Int → Int) (_ : RMode) (l : List Nat) : Nat × FFlags :=
      (wrapInt w (f (tagIntVal K (arg l 0)) (tagIntVal K (arg l 1))), 0)
    (tagInt K = true →
      gives (.vadd d a b k r) r.toNat (int fun x y => x + y) ∧ gives (.vsub d a b k r) r.toNat (int fun x y => x - y) ∧
      gives (.vrsub d a b k r) r.toNat (int fun x y => y - x) ∧ gives (.vmul d a b k r) r.toNat (int fun x y => x * y) ∧
      gives (.vmulh d a b k) 0 (int fun x y => x * y / 2 ^ w) ∧ gives (.vmin d a b k) 0 (int fun x y => min x y) ∧
      gives (.vmax d a b k) 0 (int fun x y => max x y) ∧
      gives (.vadds d a b k r) r.toNat (int fun x y => clampInt (tagSigned K) w (x + y)) ∧
      gives (.vsubs d a b k r) r.toNat (int fun x y => clampInt (tagSigned K) w (x - y))) ∧
    (∀ F, fmtOfTag K = some F →
      let float (sat : Bool) (f : RMode → FVal → FVal → FVal × FFlags) (m : RMode) (l : List Nat) : Nat × FFlags :=
        let g := f m (F.value (arg l 0)) (F.value (arg l 1))
        ((F.ofVal m sat g.1).1, g.2 ||| (F.ofVal m sat g.1).2)
      gives (.vadd d a b k r) r.toNat (float false fAdd) ∧ gives (.vsub d a b k r) r.toNat (float false fSub) ∧
      gives (.vrsub d a b k r) r.toNat (float false fRsub) ∧ gives (.vmul d a b k r) r.toNat (float false fun _ => fMul) ∧
      gives (.vmulh d a b k) 0 (fun _ _ => (F.canonNan, fNV)) ∧
      gives (.vmin d a b k) 0 (float false fun _ => fMinMax false) ∧
      gives (.vmax d a b k) 0 (float false fun _ => fMinMax true) ∧
      gives (.vadds d a b k r) r.toNat (float true fAdd) ∧ gives (.vsubs d a b k r) r.toNat (float true fSub)) ∧
    gives (.vand d a b k) 0 (fun _ l => (arg l 0 &&& arg l 1, 0)) ∧
    gives (.vor d a b k) 0 (fun _ l => (arg l 0 ||| arg l 1, 0)) ∧
    gives (.vxor d a b k) 0 (fun _ l => (arg l 0 ^^^ arg l 1, 0))

/-- R189: the shifts, in the computation tag of va alone, by the low log2(w) bits of b's own bits.
R190: VMOV gives the bits of va under its stored tag, with the scales of a block-scaled register; of a
scalar or an immediate under a named tag; a dead va makes vd dead. -/
def Obligations.VectorShiftsAndMoves : Prop :=
  (∀ (s : State) (d a b : BitVec 5) (k : BitVec 2),
     let rd := resolvedTag 0x04 [s.cur.srcTag a]
     let K := combinedTag 0x04 [s.cur.srcTag a]
     let w := tagWidth K
     let W := max ([srcWidth s.cur rd (.reg a)].foldl max (max w w)) (srcWidth s.cur 0 (opdOf k b))
     s.runs 0x17 = true → s.vready W = true → (VOpd.reg a).poisoned s.cur = false →
     (opdOf k b).poisoned s.cur = false →
     let gives (i : Instr) (f : Nat → Nat → Nat) : Prop :=
       ∃ t, exec i s = .next t ∧ s.vwrote t d K W s.cur.start fun e =>
         let c := VOpd.read s.cur K rd .rne e (.reg a)
         (f c.1 ((opdOf k b).raw s.cur e % w), c.2)
     gives (.vsll d a b k) (fun x n => x * 2 ^ n) ∧ gives (.vsrl d a b k) (fun x n => x / 2 ^ n) ∧
     gives (.vsra d a b k) (fun x n => (signedOf w x / 2 ^ n % 2 ^ w).toNat)) ∧
  (∀ (s : State) (d a b t i : BitVec 5),
     let tag := (s.cur.getV a).tag
     let W := max (tagWidth tag) (tagWidth (compTag tag))
     (s.onClass 0x17 = true → s.passes (noSecond (accepts 0x17) (tagBlock tag)) = true → s.room 0x17 = true →
       s.vready W = true →
       s.cur.poisonedV a = false →
       (tag ≠ 0 → ∃ u, exec (.vmovVv d a) s = .next u ∧ (s.vwrote u d tag W s.cur.start fun e =>
           (elemOf (s.cur.getV a).bits (tagWidth tag) e, 0)) ∧
         (tagBlock tag = true → (u.cur.getV (companion d)).tag = 0x05 ∧
           ∀ n, n < (s.cur.vl.toNat + 31) / 32 → elemOf (u.cur.getV (companion d)).bits 8 n =
             if (s.cur.getV (companion a)).tag = 0 then 0x7F else elemOf (s.cur.getV (companion a)).bits 8 n)) ∧
       (tag = 0 → ∃ u, exec (.vmovVv d a) s = .next u ∧ (u.cur.getV d).tag = 0 ∧
         (u.cur.getV d).bits = (s.cur.getV d).bits)) ∧
     (s.runs 0x17 = true → s.vready (tagWidth t) = true →
       (s.cur.poisonedS b = false → codeMovTag t 0xF = true → ∃ u, exec (.vmovVs d t b) s = .next u ∧
         s.vwrote u d t (tagWidth t) s.cur.start fun _ => ((s.cur.getS b).toNat, 0)) ∧
       (codeMovTag t 0xC = true → ∃ u, exec (.vmovVi d t i) s = .next u ∧
         s.vwrote u d t (tagWidth t) s.cur.start fun _ => (immElem t i, 0))))

/-- R191, R192, R197: majors 0x18, 0x19 and 0x1C in their K: rounded arithmetic, sign operations on the bits,
the kind code under n16, the fused operations on integers and floats, and the approximate functions. -/
def Obligations.VectorFloatResults : Prop :=
  ∀ (s : State) (d a b c : BitVec 5) (k : BitVec 2) (r : BitVec 3),
    let plan (dflt : BitVec 5) (adj : BitVec 5 → BitVec 5) (ops : List VOpd) : BitVec 5 × BitVec 5 × Nat :=
      let rd := resolvedTag dflt (opdTags s.cur ops)
      let K := adj (combinedTag dflt (opdTags s.cur ops))
      (rd, K, (ops.map (srcWidth s.cur rd)).foldl max (tagWidth K))
    let clean (ops : List VOpd) : Prop := (ops.any fun o => o.poisoned s.cur) = false
    let gives (i : Instr) (p : BitVec 5 × BitVec 5 × Nat) (ops : List VOpd) (tag : BitVec 5) (rm : Nat)
        (val : RMode → List Nat → Nat × FFlags) : Prop :=
      let m := rmodeOf rm s.cur.rmode
      ∃ t, exec i s = .next t ∧ s.vwrote t d tag (max p.2.2 (tagWidth tag)) s.cur.start fun e =>
        let l := readAll s.cur p.2.1 p.1 m e ops
        ((val m l.1).1, l.2 ||| (val m l.1).2)
    let float (F : Fmt) (f : RMode → (Nat → FVal) → FVal × FFlags) (m : RMode) (l : List Nat) : Nat × FFlags :=
      let g := f m fun n => F.value (arg l n)
      ((F.ofVal m false g.1).1, g.2 ||| (F.ofVal m false g.1).2)
    (∀ F, let ops := [VOpd.reg a, opdOf k b]
      let p := plan 0x0A floatK ops
      let h := 2 ^ (tagWidth p.2.1 - 1)
      fmtOfTag p.2.1 = some F → s.runs 0x18 = true → clean ops → s.vready p.2.2 = true →
      gives (.vfadd d a b k r) p ops p.2.1 r.toNat (float F fun m x => fAdd m (x 0) (x 1)) ∧
      gives (.vfsub d a b k r) p ops p.2.1 r.toNat (float F fun m x => fSub m (x 0) (x 1)) ∧
      gives (.vfmul d a b k r) p ops p.2.1 r.toNat (float F fun _ x => fMul (x 0) (x 1)) ∧
      gives (.vfdiv d a b k r) p ops p.2.1 r.toNat (float F fun _ x => fDiv (x 0) (x 1)) ∧
      gives (.vfmin d a b k) p ops p.2.1 0 (float F fun _ x => fMinMax false (x 0) (x 1)) ∧
      gives (.vfmax d a b k) p ops p.2.1 0 (float F fun _ x => fMinMax true (x 0) (x 1)) ∧
      gives (.vfcpys d a b k) p ops p.2.1 0 (fun _ l => (arg l 0 % h + arg l 1 / h * h, 0))) ∧
    (∀ F, let ops := [VOpd.reg a]
      let p := plan 0x0A floatK ops
      let h := 2 ^ (tagWidth p.2.1 - 1)
      fmtOfTag p.2.1 = some F → s.runs 0x18 = true → clean ops → s.vready (max p.2.2 16) = true →
      gives (.vfsqrt d a r) p ops p.2.1 r.toNat (float F fun _ x => fSqrt (x 0)) ∧
      gives (.vfneg d a) p ops p.2.1 0 (fun _ l => (arg l 0 ^^^ h, 0)) ∧
      gives (.vfabs d a) p ops p.2.1 0 (fun _ l => (arg l 0 % h, 0)) ∧
      gives (.vfkind d a) p ops 0x06 0 (fun _ l => (F.kind (arg l 0), 0))) ∧
    (let ops := [VOpd.reg a, .reg b, if k = 1 then .sca c else .reg c]
     let p := plan 0x04 id ops
     let w := tagWidth p.2.1
     let int (f : Int → Int → Int → Int) (_ : RMode) (l : List Nat) : Nat × FFlags :=
       (wrapInt w (f (tagIntVal p.2.1 (arg l 0)) (tagIntVal p.2.1 (arg l 1)) (tagIntVal p.2.1 (arg l 2))), 0)
     s.runs 0x19 = true → clean ops → s.vready p.2.2 = true →
      (tagInt p.2.1 = true →
        gives (.vmadd d a b c k) p ops p.2.1 7 (int fun x y z => x * y + z) ∧
        gives (.vmsub d a b c k) p ops p.2.1 7 (int fun x y z => x * y - z) ∧
        gives (.vnmadd d a b c k) p ops p.2.1 7 (int fun x y z => -(x * y) + z)) ∧
      (∀ F, fmtOfTag p.2.1 = some F →
        gives (.vmadd d a b c k) p ops p.2.1 7 (float F fun m x => fFma m false (x 0) (x 1) (x 2)) ∧
        gives (.vmsub d a b c k) p ops p.2.1 7 (float F fun m x =>
          fFma m false (x 0) (x 1) (if (x 2).isNan = true then x 2 else (x 2).negate)) ∧
        gives (.vnmadd d a b c k) p ops p.2.1 7 (float F fun m x => fFma m true (x 0) (x 1) (x 2)))) ∧
    (∀ F, let ops := [VOpd.reg a]
      let p := plan 0x0A approxK ops
      fmtOfTag p.2.1 = some F → s.runs 0x1C = true → clean ops → s.vready p.2.2 = true →
      let approx (g : FVal → FVal × FFlags) (_ : RMode) (l : List Nat) : Nat × FFlags :=
        let v := g (F.value (arg l 0))
        let c := F.ofVal .rne false v.1
        (c.1, v.2 ||| (if c.2 &&& (fOF ||| fUF) = 0 then c.2 &&& ~~~fNX else c.2))
      gives (.vrcp d a) p ops p.2.1 0 (approx rcpVal) ∧ gives (.vrsqrt d a) p ops p.2.1 0 (approx rsqrtVal) ∧
      gives (.vexp2 d a) p ops p.2.1 0 (approx exp2Val))

/-- R138, R139, R194 to R196: VCVT and VCVTS convert each element from its exact value; VQUANT scales each block
of 32 by its largest exponent and rounds, with saturation, into the block format.
R139: the scale of a block: all ones where it holds a NaN or an infinity, 0 where it holds only zeros, else the
exponent of its largest magnitude less emax, biased by 127 and held within 0 to 254. -/
def Obligations.VectorConversions : Prop :=
  (∀ (s : State) (d a : BitVec 5) (r : BitVec 3) (t : BitVec 5) (q : BitVec 2), s.cur.poisonedV a = false →
     let m := rmodeOf r.toNat s.cur.rmode
     let st (dead : BitVec 5) : BitVec 5 := if (s.cur.getV a).tag = 0 then dead else (s.cur.getV a).tag
     let src (dead : BitVec 5) := s.cur.readV a (st dead)
     let value (dead : BitVec 5) (e : Nat) : FVal := elemVal (st dead) ((src dead).code e) ((src dead).scale e)
     let gives (i : Instr) (tag dead : BitVec 5) (val : Nat → Nat × FFlags) : Prop :=
       ∃ u, exec i s = .next u ∧ s.vwrote u d tag (max (srcWidth s.cur dead (.reg a)) (tagWidth tag)) s.cur.start val
     (s.runs 0x1B = true → codeVcvt t r = true → s.vready (max (srcWidth s.cur t (.reg a)) (tagWidth t)) = true →
       (∀ F, fmtOfTag t = some F →
         let float (sat : Bool) (e : Nat) : Nat × FFlags :=
           if st t = t ∧ (value t e).isSig = false then ((src t).code e, 0) else F.ofVal m sat (value t e)
         gives (.vcvt d a r t) t t (float false) ∧ gives (.vcvts d a r t) t t (float true)) ∧
       (fmtOfTag t = none → (codeFmt (st t)).isSome = true →
         gives (.vcvt d a r t) t t (fun e => (value t e).toInt m (tagSigned t) (tagWidth t)) ∧
         gives (.vcvts d a r t) t t (fun e => (value t e).toInt m (tagSigned t) (tagWidth t))) ∧
       (fmtOfTag t = none → (codeFmt (st t)).isSome = false →
         let int (e : Nat) : Int := tagIntVal (st t) ((src t).code e)
         gives (.vcvt d a r t) t t (fun e =>
           (wrapInt (tagWidth t) (if t = 0x0F then clampInt true 4 (int e) else int e), 0)) ∧
         gives (.vcvts d a r t) t t (fun e => (wrapInt (tagWidth t) (clampInt (tagSigned t) (tagWidth t) (int e)), 0)))) ∧
     (let bt : BitVec 5 := 0x10 + q.setWidth 5
      s.onClass 0x1B = true → s.passes (noSecond (accepts 0x1B) true) = true → s.room 0x1B = true → codeVquant q r = true →
       s.vready (max (srcWidth s.cur 0x0A (.reg a)) (tagWidth bt)) = true →
       let vals (k : Nat) : List FVal := ((List.range 32).filter fun j => s.cur.enabled s.cur.latch (32 * k + j) &&
         decide (32 * k + j < s.cur.vl.toNat)).map fun j => value 0x0A (32 * k + j)
       ∃ u, exec (.vquant d a r q) s = .next u ∧
         (∀ F, codeFmt bt = some F →
           s.vwrote u d bt (max (srcWidth s.cur 0x0A (.reg a)) (tagWidth bt)) s.cur.start fun e =>
             if blockScale bt (vals (e / 32)) = 0xFF then (0, fNV)
             else if (vals (e / 32)).all FVal.isZero = true then (0, 0)
             else F.ofVal m true ((value 0x0A e).scaled (127 - (blockScale bt (vals (e / 32)) : Int)))) ∧
         (u.cur.getV (companion d)).tag = 0x05 ∧
         ∀ k, k < (s.cur.vl.toNat + 31) / 32 →
           elemOf (u.cur.getV (companion d)).bits 8 k = blockScale bt (vals k))) ∧
  (∀ (dt : BitVec 5) (l : List FVal),
     ((∃ v ∈ l, v.isNan = true ∨ v.isInf = true) → blockScale dt l = 0xFF) ∧
     ((∀ v ∈ l, v.isZero = true) → blockScale dt l = 0) ∧
     (∀ n m e, FVal.num n m e ∈ l → m ≠ 0 → (∀ v ∈ l, v.isNan = false ∧ v.isInf = false) →
       (∀ n' m' e', FVal.num n' m' e' ∈ l → |realOf n' m' e'| ≤ |realOf n m e|) →
       ∃ x : Int, (2 : ℚ) ^ x ≤ |realOf n m e| ∧ |realOf n m e| < (2 : ℚ) ^ (x + 1) ∧
         (blockScale dt l : Int) = max 0 (min 254 (x - (if dt = 0x10 then 2 else if dt = 0x11 then 8 else 0) + 127))))

/-- R193: the vector compares write a mask: the relation of the elements in K; a NaN makes all false but VCMPNE
and VCMPUN. A poisoned source is consumed.
R203, R216 to R219: MLOG, MSBF, MSIF and MSOF write bits 0 to vl − 1 of a mask. -/
def Obligations.VectorCompares : Prop :=
  (∀ (s : State) (m : BitVec 3) (a b : BitVec 5) (k : BitVec 2),
     let ops := [VOpd.reg a, opdOf k b]
     let tags := opdTags s.cur ops
     let rd := resolvedTag 0x04 tags
     let K := combinedTag 0x04 tags
     let W := (ops.map (srcWidth s.cur rd)).foldl max (tagWidth K)
     s.runs 0x1A = true → s.vready W = true →
     let instrs : List Instr := [.vcmpeq m a b k, .vcmpne m a b k, .vcmplt m a b k, .vcmple m a b k, .vcmpgt m a b k,
       .vcmpge m a b k, .vcmpun m a b k]
     (∀ v, firstPoisoned s.cur 0 ops = some v → ∀ i ∈ instrs, exec i s = .next ({ s with failing := none }.trap
       { code := 2, val := v, elem := none, start := some (s.groupStart s.cur.core W s.cur.start) })) ∧
     (firstPoisoned s.cur 0 ops = none →
       let gives (i : Instr) (bit : List Nat → Bool) : Prop := ∃ t fl, exec i s = .next t ∧ s.vframe t W fl ∧
         s.mwrote t m s.cur.start fun e => bit (readAll s.cur K rd .rne e ops).1
       (tagInt K = true →
         let int (f : Int → Int → Bool) (l : List Nat) : Bool := f (tagIntVal K (arg l 0)) (tagIntVal K (arg l 1))
         gives (.vcmpeq m a b k) (int fun x y => x == y) ∧ gives (.vcmpne m a b k) (int fun x y => x != y) ∧
         gives (.vcmplt m a b k) (int fun x y => decide (x < y)) ∧
         gives (.vcmple m a b k) (int fun x y => decide (x ≤ y)) ∧
         gives (.vcmpgt m a b k) (int fun x y => decide (y < x)) ∧
         gives (.vcmpge m a b k) (int fun x y => decide (y ≤ x)) ∧ gives (.vcmpun m a b k) (fun _ => false)) ∧
       (∀ F, fmtOfTag K = some F →
         let float (onNan : Bool) (f : FVal → FVal → Bool) (l : List Nat) : Bool :=
           let x := F.value (arg l 0)
           let y := F.value (arg l 1)
           if x.isNan = true ∨ y.isNan = true then onNan else f x y
         gives (.vcmpeq m a b k) (float false numEq) ∧ gives (.vcmpne m a b k) (float true fun x y => !numEq x y) ∧
         gives (.vcmplt m a b k) (float false numLt) ∧
         gives (.vcmple m a b k) (float false fun x y => numLt x y || numEq x y) ∧
         gives (.vcmpgt m a b k) (float false fun x y => numLt y x) ∧
         gives (.vcmpge m a b k) (float false fun x y => numLt y x || numEq x y) ∧
         gives (.vcmpun m a b k) (float true fun _ _ => false)))) ∧
  (∀ (s : State) (d a b : BitVec 3) (tt : BitVec 4), s.runs 0x1F = true → s.cur.reissue = none →
     let hits := (List.range s.cur.vl.toNat).filter fun e => (s.cur.getM a).getLsbD e && s.cur.enabled s.cur.latch e
     let first := hits.headD s.cur.vl.toNat
     let gives (i : Instr) (bit : Nat → Bool) : Prop := ∃ t, exec i s = .next t ∧ s.mwrote t d 0 bit ∧
       t = { s.retired 0x1F with cur := { (s.retired 0x1F).cur with m := t.cur.m, vq := t.cur.vq } } ∧
       (s.cls s.cur.core = some .t → t.cur.vq = s.cur.vq) ∧
       (s.cls s.cur.core ≠ some .t → ∃ e, t.cur.vq = s.cur.vq ++ [e] ∧ e.flags = 0 ∧ e.place = false ∧
         e.vl = s.cur.vl.toNat)
     gives (.mlog d a b tt) (fun e =>
       tt.getLsbD (2 * ((s.cur.getM a).getLsbD e).toNat + ((s.cur.getM b).getLsbD e).toNat)) ∧
     gives (.msbf d a) (fun e => decide (e < first)) ∧ gives (.msif d a) (fun e => decide (e ≤ first)) ∧
     gives (.msof d a) (fun e => decide (e = first)))

/-- R202, R208 to R211: VIDX counts from a start by a step; VGATHER, the slides, VCOMPRESS and VEXPAND move stored
bits of va, with FILL where none is named. -/
def Obligations.VectorPermutations : Prop :=
  ∀ (s : State) (d a b : BitVec 5) (k : BitVec 2) (p q : BitVec 8) (g : BitVec 2) (m : BitVec 3),
    let vl := s.cur.vl.toNat
    let it : BitVec 5 := g.setWidth 5 + 1
    let tag := moveTag (s.cur.getV a).tag
    let w := tagWidth tag
    let x (e : Nat) : Nat := elemOf (s.cur.getV a).bits w e
    let fill := s.cur.vfill.toNat % 2 ^ w
    let sel := (List.range vl).filter fun e => (s.cur.getM m).getLsbD e
    let amount := match opdOf k b with
      | .sca r => (s.cur.getS r).toNat
      | _ => b.toNat
    let index (e : Nat) : Nat := match opdOf k b with
      | .reg v => if (s.cur.getV v).tag = 0 then s.cur.vfill.toNat % 65536
          else elemOf (s.cur.getV v).bits (tagWidth (s.cur.getV v).tag) e
      | .sca r => (s.cur.getS r).toNat
      | .imm i => (i.signExtend 64).toNat
    (s.runs 0x1D = true → s.vready (tagWidth it) = true → ∃ t, exec (.vidx d p q g) s = .next t ∧
      s.vwrote t d it (tagWidth it) 0 fun e => (((p.toNat + e * q.toInt) % 2 ^ tagWidth it).toNat, 0)) ∧
    ((s.cur.getV a).tag ≠ 0 → s.cur.ownPoison a = false →
      let gives (i : Instr) (W : Nat) (val : Nat → Nat × FFlags) : Prop :=
        ∃ t, exec i s = .next t ∧ s.vwrote t d tag W 0 val
      (let W := max w (gatherWidth s.cur (opdOf k b))
       s.runs 0x1D = true → s.vready W = true →
       (match opdOf k b with
        | .reg v => s.cur.ownPoison v = false
        | .sca r => s.cur.poisonedS r = false
        | .imm _ => True) →
        gives (.vgather d a b k) W fun e => if index e < vl then (x (index e), 0)
          else (fill, if index e < s.vlmax s.cur.core w then 0 else fOOR)) ∧
      (s.runs 0x1D = true → s.vready w = true → codeSlide k b = true →
        (k = 1 → s.cur.poisonedS b = false) →
        gives (.vslideup d a b k) w (fun e => (if amount ≤ e then x (e - amount) else fill, 0)) ∧
        gives (.vslidedn d a b k) w (fun e => (if e + amount < vl then x (e + amount) else fill, 0))) ∧
      (s.runs 0x1D = true → s.vready w = true → s.cur.poisonedS b = false →
        gives (.vslide1up d a b) w (fun e => (if e = 0 then (s.cur.getS b).toNat else x (e - 1), 0)) ∧
        gives (.vslide1dn d a b) w (fun e => (if e + 1 = vl then (s.cur.getS b).toNat else x (e + 1), 0))) ∧
      (s.onClass 0x1D = true → s.passes (noMask (accepts 0x1D)) = true → s.room 0x1D = true → s.vready w = true →
        gives (.vcompress d a m) w (fun e => (if e < sel.length then x (sel.getD e 0) else fill, 0)) ∧
        gives (.vexpand d a m) w (fun e =>
          (if (s.cur.getM m).getLsbD e = true then x (sel.filter (· < e)).length else fill, 0))))

/-- R213 to R216: reductions give S[d] from S[b] and the enabled elements of va in K; scans give each element the
reduction of those up to it, or before it; VCONF counts the earlier enabled elements equal to each; MPOPC
counts, and MFIRST finds, the enabled bits of a mask. -/
def Obligations.VectorReductions : Prop :=
  ∀ (s : State) (d a b : BitVec 5) (r : BitVec 3) (m : BitVec 3),
    let rd := resolvedTag 0x04 [s.cur.srcTag a]
    let K := combinedTag 0x04 [s.cur.srcTag a]
    let W := max (srcWidth s.cur rd (.reg a)) (tagWidth K)
    let B := (s.cur.getS b).toNat % 2 ^ tagWidth K
    let mode (op : RedOp) : RMode := if op = .sum then rmodeOf r.toNat s.cur.rmode else .rne
    let el (op : RedOp) := convAll s.cur a K rd (mode op) (s.cur.enabled s.cur.latch) (op.identity K) 0 s.cur.vl.toNat
    let en := s.cur.enabled s.cur.latch
    let hits := (List.range s.cur.vl.toNat).filter fun e => (s.cur.getM m).getLsbD e && en e
    (s.runs 0x1E = true → s.vready W = true → s.cur.poisonedV a = false →
      let red (i : Instr) (op : RedOp) : Prop :=
        let x := reduceList (op.apply K (mode op)) (op.identity K) (el op).1
        let v := op.apply K (mode op) B x.1
        ∃ t, exec i s = .next t ∧ t.cur.v = s.cur.v ∧ t.cur.m = s.cur.m ∧
          (s.written d (if tagInt K = true then BitVec.ofInt 64 (tagIntVal K v.1) else BitVec.ofNat 64 v.1) [b]).vframe t
            W (if op = .and ∨ op = .or then 0 else (el op).2 ||| x.2 ||| v.2)
      red (.vredsum d a b r) .sum ∧ red (.vredmax d a b) .max ∧ red (.vredmin d a b) .min ∧
      red (.vredand d a b) .and ∧ red (.vredor d a b) .or ∧
      (s.cur.poisonedS b = false →
        let scan (i : Instr) (op : RedOp) (excl : Bool) : Prop :=
          let l := scanSteps (op.apply K (mode op)) 12 1 (el op).1
          ∃ t, exec i s = .next t ∧ s.vwrote t d K W 0 fun e =>
            let v := if excl = true ∧ e = 0 then (B, 0)
              else op.apply K (mode op) B (l.1.getD (if excl = true then e - 1 else e) 0)
            (v.1, (el op).2 ||| l.2 ||| v.2)
        scan (.vscansum d a b r) .sum false ∧ scan (.vscanmax d a b) .max false ∧ scan (.vscanmin d a b) .min false ∧
        scan (.vxscansum d a b r) .sum true ∧ scan (.vxscanmax d a b) .max true ∧
        scan (.vxscanmin d a b) .min true)) ∧
    (s.runs 0x1E = true → s.vready (max 16 (tagWidth (moveTag (s.cur.srcTag a)))) = true → s.cur.ownPoison a = false →
      ∃ t, exec (.vconf d a) s = .next t ∧
        s.vwrote t d 0x06 (max 16 (tagWidth (moveTag (s.cur.srcTag a)))) 0 fun e =>
          (((List.range e).filter fun j => en j && s.cur.moved a j == s.cur.moved a e).length, 0)) ∧
    (s.runs 0x1E = true → s.cur.vl ≠ 0 → s.cur.reissue = none → s.allResident = true →
      (∃ t, exec (.mpopc d m) s = .next t ∧
        (s.written d (BitVec.ofNat 64 hits.length) []).vframe t 0 0 ∧ t.cur.v = s.cur.v ∧ t.cur.m = s.cur.m) ∧
      ∃ t, exec (.mfirst d m) s = .next t ∧
        (s.written d (match hits with
          | [] => BitVec.allOnes 64
          | e :: _ => BitVec.ofNat 64 e) []).vframe t 0 0 ∧ t.cur.v = s.cur.v ∧ t.cur.m = s.cur.m)

/-- R180, R181, R203: with vl = 0 a vector instruction has no effect beyond its issue slot; where vl exceeds VLMAX at the widest tag
it meets it raises the vector-length fault with VLMAX; a poisoned source poisons the destination. -/
def Obligations.VectorLengthAndPoison : Prop :=
  ∀ (s : State) (d a b : BitVec 5) (k : BitVec 2) (r : BitVec 3) (m : BitVec 3), s.runs 0x17 = true → s.runs 0x1A = true →
    let ops := [VOpd.reg a, opdOf k b]
    let rd := resolvedTag 0x04 (opdTags s.cur ops)
    let K := combinedTag 0x04 (opdTags s.cur ops)
    let W := (ops.map (srcWidth s.cur rd)).foldl max (max (tagWidth K) (tagWidth K))
    (s.cur.vl = 0 → exec (.vadd d a b k r) s = .next (s.passed 0x17) ∧
      exec (.vcmpeq m a b k) s = .next (s.passed 0x1A)) ∧
    (s.cur.vl ≠ 0 → s.vlmax s.cur.core W < s.cur.vl.toNat → W ≠ 0 →
      exec (.vadd d a b k r) s = .next ({ s with failing := none }.trap
        { code := 6, val := BitVec.ofNat 64 ((encode (.vadd d a b k r)).toNat + s.vlmax s.cur.core W * 2 ^ 32)
          elem := none, start := some (s.groupStart s.cur.core W s.cur.start) })) ∧
    (s.vready W = true → s.cur.latch = none → (ops.any fun o => o.poisoned s.cur) = true →
      ∃ t, exec (.vadd d a b k r) s = .next t ∧ s.vframe t W 0 ∧ t.cur.m = s.cur.m ∧
        (t.cur.getV d).tag = 0x1F ∧ (t.cur.getV d).bits = (s.cur.getV d).bits ∧
        ∀ v, v ≠ d → t.cur.getV v = s.cur.getV v)

/-- R339 to R341, R344: a vector load whose accesses all have a place gives each enabled element from START on the
bytes at its address, each block its scale byte, and v(d) its tag; the other elements are as before, or zero
under ZM. In plain memory those bytes are memory's own, and memory is as before.
R254, R256: a vector load of which an access faults reports the lowest such element, and where its convoy
entry starts. -/
def Obligations.VectorLoads : Prop :=
  (∀ (s s1 s2 : State) (i : Instr) (d dflt : BitVec 5) (x : Addressing) (group : Bool) (gop : Nat)
     (places : List (Acc × Place)) (vals : List (Acc × Nat)) (f : FFlags) (bad : Bool),
     vloadForm i = some (d, x, dflt, group, gop) →
     let W := max x.z (x.indexWidth s.cur)
     let start := s.cur.start
     let en := s.cur.enabled s.cur.latch
     let tag := loadTag s.cur d x.z dflt x.block
     let old (e : Nat) : Nat := elemOf (s.cur.getV d).bits x.z e
     s.onClass 0x26 = true → s.passes (noSecond (accepts 0x26) x.block) = true → s.room 0x26 = true →
     s.vready W = true → x.poison s.cur = none →
     s.placeAll s.cur.vspace.toNat group wantLoad (x.accs s.cur en start) = (s1, places, none) →
     s1.loadAll s.cur.vspace.toNat gop tag places = (s2, vals, f, bad) →
     (bad = true → ∃ t, exec i s = .next t ∧ (t.cur.getV d).tag = 0x1F ∧ (t.cur.getV d).bits = (s.cur.getV d).bits) ∧
     (bad = false → ∃ t, exec i s = .next t ∧ s2.vframe t W f ∧ t.cur.m = s.cur.m ∧ (t.cur.getV d).tag = tag ∧
       (∀ e, start ≤ e → e < s.cur.vl.toNat → en e = true → ∃ v,
         ({ elem := e, scale := false, addr := x.addr s.cur e, size := max 1 (x.z / 8) }, v) ∈ vals) ∧
       (∀ a v, (a, v) ∈ vals → a.scale = false → elemOf (t.cur.getV d).bits x.z a.elem =
         (if x.z = 4 then v / 16 ^ (a.elem % 2) else v) % 2 ^ x.z) ∧
       (∀ a v, (a, v) ∈ vals → a.scale = true → x.block = true ∧
         elemOf (t.cur.getV (companion d)).bits 8 (a.elem / 32) = v % 256) ∧
       (x.block = true → (t.cur.getV (companion d)).tag = 0x05) ∧
       (∀ e, start ≤ e → e < s.cur.vl.toNat → en e = false → elemOf (t.cur.getV d).bits x.z e =
         if zeroing s.cur.latch = true then 0 else old e) ∧
       (∀ e, e < start ∨ s.cur.vl.toNat ≤ e → (e + 1) * x.z ≤ 8192 → elemOf (t.cur.getV d).bits x.z e = old e) ∧
       (∀ d2, second s.cur.latch = some d2 → (t.cur.getV d2).tag = tag ∧ ∀ e, e < s.cur.vl.toNat →
         elemOf (t.cur.getV d2).bits x.z e = elemOf (t.cur.getV d).bits x.z e) ∧
       (∀ v, v ≠ d → second s.cur.latch ≠ some v → (x.block = true → v ≠ companion d) →
         t.cur.getV v = s.cur.getV v)) ∧
     (s.cur.vspace.toNat < 2 → (∀ p ∈ places, s1.plainAt p.2 = true) →
       vals = places.map (fun p => (p.1, readNat s.mem p.2.pa p.1.size)) ∧ s2.mem = s.mem ∧ f = 0 ∧ bad = false)) ∧
  (∀ (s s1 : State) (i : Instr) (d dflt : BitVec 5) (x : Addressing) (group : Bool) (gop c : Nat)
     (places : List (Acc × Place)) (v : Word) (y : Acc) (rest : Behind),
     vloadForm i = some (d, x, dflt, group, gop) → s.onClass 0x26 = true →
     s.passes (noSecond (accepts 0x26) x.block) = true → s.room 0x26 = true →
     s.vready (max x.z (x.indexWidth s.cur)) = true → x.poison s.cur = none →
     s.placeAll s.cur.vspace.toNat group wantLoad (x.accs s.cur (s.cur.enabled s.cur.latch) s.cur.start) =
       (s1, places, some (c, v, y, rest)) →
     ∃ (u : State) (st : Nat), exec i s = .next ({ u with failing := none }.trap
         { code := c, val := v, elem := some y.elem, start := some st }) ∧
       (st = y.elem ∨ st = s.groupStart s.cur.core (max x.z (x.indexWidth s.cur)) y.elem) ∧
       u.cur.pc = s.cur.pc ∧ u.cur.latch = s.cur.latch ∧ u.cur.s = s.cur.s ∧
       (s.cur.vspace.toNat = 1 → u.mem = s.mem))

/-- R306, R339, R342: a vector store whose accesses all have a place completes with its elements stored, in a
free order where two may meet; in plain memory the bytes outside the elements read as before, and those of an
element that no other touches read as it.
R343: a vector atomic whose accesses all have a place gives each enabled element the old value at its address,
and stores there the new one; every other element is as before, or zero where ZM clears a disabled one. -/
def Obligations.VectorStoresAndAtomics : Prop :=
  (∀ (s s1 : State) (i : Instr) (d : BitVec 5) (x : Addressing) (ordered : Bool) (places : List (Acc × Place)),
     vstoreForm i = some (d, x, ordered) →
     let W := max x.z (x.indexWidth s.cur)
     s.runs 0x27 = true → s.vready W = true → storePoison s.cur d x = none →
     s.placeAll s.cur.vspace.toNat false wantStore (x.accs s.cur (s.cur.enabled s.cur.latch) s.cur.start) =
       (s1, places, none) →
     let o := s1.anyOrder ordered x.mode places
     let u := o.1.storeAll s.cur.vspace.toNat d x.z o.2
     (∃ t, exec i s = .next t ∧ t = { u with cur := u.cur.vdone i s.cur.start W 0 }.retired 0x27) ∧ o.2.Perm places ∧
     (s.cur.vspace.toNat < 2 → s.Inv → s.monitors = [] → (∀ p ∈ places, s1.storesTo p.2 p.1.size = true) →
       u.cur = s.cur ∧ u.threads = s.threads ∧
       (∀ b, (∀ p ∈ places, b < p.2.pa ∨ p.2.pa + p.1.size ≤ b) → readByte u.mem b = readByte s.mem b) ∧
       (∀ p ∈ places, (x.z ≠ 4 ∨ p.1.scale = true) →
         (∀ q ∈ places, q ≠ p → q.2.pa + q.1.size ≤ p.2.pa ∨ p.2.pa + p.1.size ≤ q.2.pa) → places.count p = 1 →
         readNat u.mem p.2.pa p.1.size = storeValue s.cur d x.z p.1 % 2 ^ (8 * p.1.size)))) ∧
  (∀ (s s1 : State) (i : Instr) (d a b : BitVec 5) (mode w : Nat) (ordered sg : Bool)
     (f : Bool → Nat → Nat → Nat → Nat) (places : List (Acc × Place)),
     vatomicForm i = some (d, a, b, mode, ordered, f) → atomicWidth (s.cur.getV d).tag = some (w, sg) →
     let x : Addressing := { mode := mode, a := a, b := b, z := w, block := false }
     let W := max w (x.indexWidth s.cur)
     let tag := if (s.cur.getV d).tag = 0 then 0x04 else (s.cur.getV d).tag
     s.runs 0x28 = true → s.vready W = true → atomicPoison s.cur d x = none →
     s.placeAll s.cur.vspace.toNat false wantAtomic (x.accs s.cur (s.cur.enabled s.cur.latch) s.cur.start) =
       (s1, places, none) →
     let o := s1.anyOrder ordered mode places
     let l := o.1.atomicAll d w (f sg w) o.2
     (∃ t, exec i s = .next t ∧ (t.cur.getV d).tag = tag ∧ t.mem = l.1.mem ∧ o.2.Perm places ∧
       (s.monitors = [] → s.cur.vspace.toNat < 2 → (∀ p ∈ places, s1.plainAt p.2 = true) →
         l.1.vframe t W 0 ∧ l.1.cur = s.cur ∧
         (∀ y v, (y, v) ∈ l.2 → elemOf (t.cur.getV d).bits w y.elem = v % 2 ^ w) ∧
         (∀ e, (e + 1) * w ≤ 8192 → s.cur.enabled s.cur.latch e = false ∨ e < s.cur.start ∨ s.cur.vl.toNat ≤ e →
           elemOf (t.cur.getV d).bits w e =
             if zeroing s.cur.latch = true ∧ s.cur.start ≤ e ∧ e < s.cur.vl.toNat then 0 else elemOf (s.cur.getV d).bits w e) ∧
         (∀ v, v ≠ d → t.cur.getV v = s.cur.getV v))) ∧
     (∀ y p, s.Inv → s.monitors = [] → places = [(y, p)] → s1.plainAt p = true →
       l.2 = [(y, readNat s.mem p.pa y.size)] ∧ s.sameBytesBut l.1 p.pa y.size ∧
       readNat l.1.mem p.pa y.size =
         f sg w (readNat s.mem p.pa y.size) (storeValue s.cur d w { y with scale := false }) % 2 ^ (8 * y.size)))

/-! ### Matrix tiles -/

/-- R118, R220, R231, R232: TSHAPE takes a free grant, with the shape granted in S[d] and in `tshape`, the macros
empty and the accumulators +0.0, once the matrix queue is empty; TREL gives it back, and only joins the queue without it.
R240: every other matrix instruction joins the matrix queue of its slot as it completes.
R227, R233: without a grant every matrix instruction but TSHAPE and TREL raises the matrix fault, reason 0;
with it TZERO clears the elements of its accumulator tile and no others. -/
def Obligations.TileState : Prop :=
  (∀ (s : State) (d a : BitVec 5), s.runs 0x20 = true → s.cur.st stMSM = false →
     let tile := (s.core s.cur.core).tile
     (s.cur.poisonedS a = false → s.cur.mq ≠ [] → exec (.tshape d a) s = .next { s with held := true }) ∧
     (s.cur.poisonedS a = false → s.cur.mq = [] → (tile.holder = none ∨ tile.holder = some s.cur.ref) →
       ∃ t sh, exec (.tshape d a) s = .next t ∧ t.cur.getS d = (if d = 0 then 0 else sh) ∧ t.cur.tshape = sh ∧
         sh.getLsbD 31 = true ∧ sh.toNat % 4 = (s.cur.getS a).toNat % 4 ∧ sh.toNat / 256 % 4 = 0 ∧
         (t.core s.cur.core).tile = { Tile.reset with holder := some s.cur.ref } ∧
         (∀ r, r ≠ d → t.cur.getS r = s.cur.getS r) ∧ t.cur.v = s.cur.v ∧ t.mem = s.mem) ∧
     (∀ r, s.cur.poisonedS a = false → s.cur.mq = [] → tile.holder = some r → r ≠ s.cur.ref → s.moveForGrant = none →
       ∃ t, exec (.tshape d a) s = .next t ∧ t.cur.getS d = 0 ∧ t.cur.tshape = s.cur.tshape ∧
         (t.core s.cur.core).tile = tile) ∧
     (tile.holder = some s.cur.ref → ∃ t, exec .trel s = .next t ∧ t.cur.tshape = 0 ∧
       (t.core s.cur.core).tile = { Tile.reset with acc := tile.acc } ∧ t.cur.s = s.cur.s ∧ t.mem = s.mem) ∧
     (tile.holder ≠ some s.cur.ref →
       exec .trel s = .next ({ s with cur := s.cur.mdone .trel 0 }.retired 0x20))) ∧
  (∀ (t : Thread) (i : Instr) (f : BitVec 6), (∀ j a b p r c, i ≠ .tdrain j a b p r c) → (∀ j a b p, i ≠ .taccld j a b p) →
     ∃ e, t.mdone i f = { t with mq := t.mq ++ [e] } ∧ e.flags = f ∧ e.divided = false) ∧
  (∀ (s : State) (d b : BitVec 5) (j : BitVec 2), s.runs 0x20 = true → s.cur.st stMSM = false →
     let size := tileRows s.cur.tshape * shapeN s.cur.tshape
     (s.cur.tshape.getLsbD 31 = false →
       ∀ i ∈ [Instr.tzero0, .tzero1, .tzero2, .tzero3, .trdacc d j b],
         exec i s = .next ({ s with failing := none }.trap
           { code := 7, val := (encode i).setWidth 64, elem := none, start := none })) ∧
     (s.cur.tshape.getLsbD 31 = true →
       ∀ p ∈ [(Instr.tzero0, 0), (.tzero1, 1), (.tzero2, 2), (.tzero3, 3)],
         ∃ t, exec p.1 s = .next t ∧ t.cur = ({ s with cur := s.cur.mdone p.1 0 }.retired 0x20).cur ∧ t.mem = s.mem ∧
           (∀ k, k < 16384 → t.getAcc s.cur.core k =
             if p.2 * size ≤ k ∧ k < (p.2 + 1) * size then 0 else s.getAcc s.cur.core k) ∧
           (t.core s.cur.core).tile = { (s.core s.cur.core).tile with acc := (t.core s.cur.core).tile.acc }))

/-- R237 to R239: TRDACC reads one accumulator element; TACCLD loads the elements of a row, and TDRAIN stores
them, converted, from START on. -/
def Obligations.AccumulatorAccess : Prop :=
  ∀ (s s1 : State) (d a b : BitVec 5) (j : BitVec 2) (p : BitVec 1) (r t : BitVec 3) (places : List (Acc × Place)),
    s.cur.st stMSM = false → s.cur.tshape.getLsbD 31 = true → s.cur.reissue = none →
    let core := s.cur.core
    let base := s.cur.getS a
    let at' (len : Nat) : Option Nat := position s.cur.tshape j.toNat (s.cur.getS b) len
    (∀ e, s.runs 0x20 = true → s.cur.poisonedS b = false → at' 0 = some e →
      let t := s.written d (BitVec.ofNat 64 (s.getAcc core e)) []
      exec (.trdacc d j b) s = .next ({ t with cur := t.cur.mdone (.trdacc d j b) 0 }.retired 0x20)) ∧
    (s.runs 0x20 = true → s.cur.poisonedS b = false → at' 0 = none →
      exec (.trdacc d j b) s = .next ({ s with failing := none }.trap
        { code := 7, val := BitVec.ofNat 64 ((encode (.trdacc d j b)).toNat + 3 * 2 ^ 32), elem := none, start := none })) ∧
    (∀ first, s.runs 0x20 = true → s.clean [a, b] = true → s.cur.vl ≠ 0 → at' s.cur.vl.toNat = some first →
      base.toNat % 4 = 0 →
      s.placeAll p.toNat false wantLoad (drainAccs s.cur base 4 s.cur.start fun _ => true) = (s1, places, none) →
      ∃ u, exec (.taccld j a b p) s = .next u ∧
        (p = 1 → ∀ e q, ({ elem := e, scale := false, addr := base + BitVec.ofNat 64 (e * 4), size := 4 }, q) ∈ places →
          first + e < 16384 → u.getAcc core (first + e) = readNat s.mem q.pa 4) ∧
        (∀ k, k < 16384 → k < first ∨ first + s.cur.vl.toNat ≤ k → u.getAcc core k = s.getAcc core k)) ∧
    (∀ first, s.onClass 0x20 = true → s.passes (true, true, false) = true → s.room 0x20 = true → s.clean [a, b] = true → s.cur.vl ≠ 0 →
      s.cur.vl.toNat ≤ 64 → at' s.cur.vl.toNat = some first →
      let size := (drainFmt t).2
      base.toNat % size = 0 →
      s.placeAll p.toNat false wantStore (drainAccs s.cur base size s.cur.start (s.cur.enabled s.cur.latch)) =
        (s1, places, none) →
      let g := drainConvert t (rmodeOf r.toNat s.cur.rmode)
      let u := s1.drainAll p.toNat size first g places
      exec (.tdrain j a b p r t) s = .next ({ u.1 with cur := u.1.cur.mdone (.tdrain j a b p r t) u.2 }.retired 0x20) ∧
      (s.Inv → (∀ q ∈ places, s1.plainAt q.2 = true) →
        ∀ x, (∀ q ∈ places, x < q.2.pa ∨ q.2.pa + size ≤ x) → readByte u.1.mem x = readByte s.mem x) ∧
      (∀ y q, s.Inv → s.monitors = [] → places = [(y, q)] → s1.storesTo q size = true →
        readNat u.1.mem q.pa size = (g (s.getAcc core (first + y.elem))).1 % 2 ^ (8 * size)))

/-- R225, R234: TLDB leaves in the macros the code of B(k, n) at each position within its extents and 0 elsewhere, the scale
byte of each block read and 0x7F elsewhere, and its format; an element's value is that of its code under its block's
scale, and the accumulators are as they were. In LOCAL space it completes where its operand lies in the scratchpad, and
codes and scales are the scratchpad's bytes.
R222, R225, R235: TMMA completes where its A operand lies in the scratchpad; it accumulates into each element of its rows of
its tile the products along K of A's row with the macros' column, and changes no other element.
R149: block by block of 32, the exact sum of the products is rounded to f32 and added, with one rounding more; only NV and OF
are set. An exact zero is −0 where all 32 products are −0, and +0 otherwise: a zero product's sign is the exclusive or of its
factors' signs, which for formats without a signed zero is the model's choice (log entry 44). The first NaN, A's before B's,
becomes the block's sum; 0 × ∞ and ∞ − ∞ give the default NaN and set NV. -/
def Obligations.TileMultiply : Prop :=
  (∀ (s : State) (j : BitVec 2) (a b : BitVec 5) (o q : BitVec 1) (f : BitVec 3),
    s.runs 0x20 = true → s.clean [a, b] = true → s.cur.st stMSM = false → s.cur.tshape.getLsbD 31 = true →
    s.cur.reissue = none →
    let core := s.cur.core
    let sh := s.cur.tshape
    let n := shapeN sh
    let B := (s.cur.getS b).toNat
    let kv := min (B / 65536 % 1024) (shapeK sh)
    let old := (s.core core).tile
    let bytes (y : Acc) : Nat := readNat s.mem (windowBase core + y.addr.toNat) y.size
    let within (l : List Acc) : Prop := ∀ y ∈ l, y.addr.toNat + y.size ≤ s.localBytes core ∧
      s.badRange (windowBase core + y.addr.toNat) y.size = false
    let as (x : MatOpd) (unit : Bool) : Prop :=
      x.fmt = f ∧ x.base = s.cur.getS a ∧ x.stride = B % 65536 ∧ x.kDim = shapeK sh ∧ x.unit = unit
    (let i : Instr := .tldb a b q o f
     let x := bOpd sh (encode i) (s.cur.getS a) (s.cur.getS b)
     let nv := min (B / 2 ^ 32 % 1024) n
     let accs := bAccs sh x (s.cur.getS b)
     let loads (t : State) (val : Acc → Nat) : Prop :=
       let tile := (t.core core).tile
       t.cur = ({ s with cur := s.cur.mdone i 0 }.retired 0x20).cur ∧
       tile = { old with codes := tile.codes, scales := tile.scales, fmt := f, loaded := tile.loaded } ∧
       ∀ k c, k < shapeK sh → c < n → tile.value n k c = elemVal (matTag f)
         (if k < kv ∧ c < nv then x.pick c k (val (x.code c k (k * n + c))) % 65536 else 0)
         (if tagBlock (matTag f) = true ∧ k / 32 * 32 < kv ∧ c < nv then
           val (x.scaleByte c (k / 32) (k / 32 * n + c)) % 256 else 0x7F)
     as x (o == 1) ∧
     (x.violation (if o = 1 then nv else kv) = none →
       (q = 1 → within accs → ∃ t, exec i s = .next t ∧ loads t bytes ∧ t.mem = s.mem) ∧
       (∀ (s1 s2 : State) (places : List (Acc × Place)) (vals : List (Acc × Nat)) (fl : FFlags) (bad : Bool)
          (val : Acc → Nat),
          s.placeAll q.toNat false wantLoad accs = (s1, places, none) →
          s1.loadAll q.toNat 0 0 places = (s2, vals, fl, bad) → (∀ y v, (y, v) ∈ vals → v = val y) →
          ∃ t, exec i s = .next t ∧ loads t val))) ∧
    (let i : Instr := .tmma j a b o f
     let x := aOpd sh f o (s.cur.getS a) B
     let mv := min (B / 2 ^ 32 % 1024) (tileRows sh)
     let at' (m c : Nat) : Nat := (j.toNat * tileRows sh + m) * n + c
     let value (m k : Nat) : FVal := elemVal (matTag f) (x.pick m k (bytes (x.code m k (m * shapeK sh + k))))
       (bytes (x.scaleByte m (k / 32) (m * (shapeK sh / 32) + k / 32)))
     as x (o == 0) ∧
     (shapeM sh * n ≤ 16384 → x.violation (if o = 0 then mv else kv) = none → within (aAccs sh f o (s.cur.getS a) B) →
       ∃ t fl, exec i s = .next t ∧ t.mem = s.mem ∧ fl &&& ~~~(fNV ||| fOF) = 0 ∧
         t.cur = ({ s with cur := s.cur.mdone i fl }.retired 0x20).cur ∧
         (t.core core).tile = { old with acc := (t.core core).tile.acc } ∧
         (∀ m c, m < mv → c < n → t.getAcc core (at' m c) =
           (accumulate kv (fun k => (value m k, old.value n k c)) (s.getAcc core (at' m c)) 0 (shapeK sh / 32)).1) ∧
         (∀ k, k < 16384 → (∀ m c, m < mv → c < n → k ≠ at' m c) → t.getAcc core k = s.getAcc core k)))) ∧
  (∀ (kv c kb n : Nat) (pair : Nat → FVal × FVal),
    let live := (List.range 32).filter fun j => decide (32 * kb + j < kv)
    let sum := blockSum (live.length == 32) (live.map fun j => pair (32 * kb + j))
    let round (v : FVal) : Nat := (Fmt.f32.ofVal .rne false v).1
    (accumulate kv pair c kb 0).1 = c ∧ (accumulate kv pair c kb (n + 1)).1 =
      (accumulate kv pair (round (fAdd .rne (Fmt.f32.value c) (Fmt.f32.value (round sum.1))).1) (kb + 1) n).1) ∧
  (∀ (full : Bool) (l : List (FVal × FVal)),
    let real (v : FVal) : ℚ := match v with
      | .num n m e => realOf n m e
      | _ => 0
    let clear (p : FVal × FVal) : Prop := p.1.isNan = false ∧ p.2.isNan = false
    let minus (p : FVal × FVal) : Bool := p.1.neg != p.2.neg
    let invalid (p : FVal × FVal) : Prop :=
      (p.1.isInf = true ∧ p.2.isZero = true) ∨ (p.1.isZero = true ∧ p.2.isInf = true)
    let infinite (p : FVal × FVal) : Prop := p.1.isInf = true ∨ p.2.isInf = true
    let sum := blockSum full l
    ((∀ p ∈ l, clear p ∧ ¬infinite p) → ∃ n m e, sum = (.num n m e, 0) ∧
      realOf n m e = (l.map fun p => real p.1 * real p.2).sum ∧
      (m = 0 → (n = true ↔ full = true ∧ ∀ p ∈ l, (p.1.isZero = true ∨ p.2.isZero = true) ∧ minus p = true))) ∧
    ((∀ p ∈ l, clear p) → ((∃ p ∈ l, invalid p) ∨
        ((∃ p ∈ l, infinite p ∧ minus p = true) ∧ ∃ p ∈ l, infinite p ∧ minus p = false)) → sum = (.invalid, fNV)) ∧
    (∀ neg, (∀ p ∈ l, clear p ∧ ¬invalid p ∧ (infinite p → minus p = neg)) → (∃ p ∈ l, infinite p) →
      sum = (.inf neg, 0)) ∧
    (∀ pre p post n g y, l = pre ++ p :: post → (∀ r ∈ pre, clear r) →
      p.1 = .nan n g y ∨ (p.1.isNan = false ∧ p.2 = .nan n g y) →
      sum.1 = .nan n false (y ||| 2 ^ 51) ∧ (g = true → sum.2 = fNV)))

/-! ### Contexts, streams and messages -/

/-- R268, R276, R277: CTXSAVE and CTXLOAD belong to system state. CTXSAVE gives 7 for its own context, 3 for one that is not
active, 6 for one being saved, and 5 where B is no multiple of 4 KiB or some piece up to the image bound is not writable;
otherwise it asks every thread of the context for its state and stays in RUN, and ends with the save's status.
R32, R34, R261, R277: the command processor's launch, pre-emption and restore, each with its status.
R263, R264, R265, R276: the end of a save: the context is saved, and the image in memory is a header, with LIVE, and then the
records in their order, within the bound.
R266, R277: restore gives 5 for an image that is not readable, 1 for a bad header, 2 with the missing features, 3 for a context
in use and 4 where a thread has no core, in this order and with nothing changed; otherwise 0.
R265, R267: a launch, domain, thread and scratchpad record gives back what it was made from; a restored thread is READY,
WAITU with its wait, or, where it was saved in RUN, SAVED in a run-queue entry until a holder is free. -/
def Obligations.ContextInstructions : Prop :=
  (∀ (s : State) (d a b : BitVec 5), s.bare 0x2D = true → s.clean [a, b] = true →
     let A := (s.cur.getS a).toNat
     let B := (s.cur.getS b).toNat
     let ctx := A % 4096
     let us := A / 2 ^ 16 % 2 ^ 16
     let c := s.ctxSt ctx
     let idle : Prop := tvalid (s.descr ctx) = false ∨ s.members ctx = [] ∨ c.isSaved = true
     let writable : Prop := B % 4096 = 0 ∧
       ∀ k, 256 * k < s.imageBound ctx → (s.imagePlace (some s.cur.ctx) (B + 256 * k) true).isSome = true
     let gives (v : Nat) : Prop := exec (.ctxsave d a b) s = .next ((s.written d (BitVec.ofNat 64 v) []).retired 0x2D)
     (s.cur.st stSYS = false → ∀ i ∈ [Instr.ctxsave d a b, .ctxload d a b],
       exec i s = .next ({ s with failing := none }.trap
         { code := 5, val := (encode i).setWidth 64, elem := none, start := none })) ∧
     (s.cur.st stSYS = true → s.cur.stall = none →
       (ctx = s.cur.ctx → gives 7) ∧
       (ctx ≠ s.cur.ctx → (idle → gives 3) ∧ (¬idle → c.saving ≠ none → gives 6) ∧
         (¬idle → c.saving = none → ¬writable → gives 5) ∧
         (¬idle → c.saving = none → writable → s.cur.run = .run → (∀ t ∈ s.members ctx, t.run = .run) →
           ∃ u, exec (.ctxsave d a b) s = .next u ∧
             u.cur = { s.cur with stall := some (.ctxsave d ctx (s.cur.getS b)) } ∧ u.mem = s.mem ∧
             (∀ t ∈ u.members ctx, t.st stPREQ = true) ∧
             (u.ctxSt ctx).saving = some { deadline := s.dtime + 1000 * (if us = 0 then s.pdefault.toNat else us),
                                           base := B, via := some s.cur.ctx }))) ∧
     (s.cur.st stSYS = true → ∀ e c base, s.cur.stall = some (.ctxsave e c base) →
       (s.savingCtx c = true → exec (.ctxsave d a b) s = .next { s with held := true }) ∧
       (s.savingCtx c = false → exec (.ctxsave d a b) s = .next (({ s with cur := { s.cur with stall := none } }.written d
         (BitVec.ofNat 64 (s.ctxSt c).saveStatus) []).retired 0x2D)))) ∧
  (∀ (s : State) (u ctx us pa : Nat) (blk : BitVec 512),
     let c := s.ctxSt ctx
     let idle : Prop := tvalid (s.descr ctx) = false ∨ s.members ctx = [] ∨ c.isSaved = true
     let writable : Prop := pa % 4096 = 0 ∧
       ∀ k, 256 * k < s.imageBound ctx → (s.imagePlace none (pa + 256 * k) true).isSome = true
     let fails (st : Word) : Prop := exec (.commandProcessorPreempt ctx us pa) s =
       .next { s with unit0 := { s.unit0 with cmdStatus := st } }
     (u < 2 → (s.unit u).full = false → tvalid (s.descr ctx) = true →
       let comp := s.completionPlace ctx (BitVec.ofNat 64 (blk.toNat / 2 ^ 256))
       ∃ v, exec (.commandProcessorLaunch u ctx blk) s = .next v ∧ v.cur = s.cur ∧ v.threads = s.threads ∧ v.mem = s.mem ∧
         (v.ctxSt ctx).nextLaunch = c.nextLaunch + 1 ∧ (v.unit u).cmdStatus = (if comp = none then 5 else 0) ∧
         (v.unit u).queue = (s.unit u).queue ++ (match comp with
           | none => []
           | some p => [{ launch := launchOfBlock ctx c.nextLaunch p blk.toNat, source := .command, started := false,
                          inserted := 0, cores := [], tpc := 1 }])) ∧
     (idle → fails 3) ∧ (¬idle → c.saving ≠ none → fails 6) ∧ (¬idle → c.saving = none → ¬writable → fails 5) ∧
     (¬idle → c.saving = none → writable → s.cur.run = .run → s.cur.ctx ≠ ctx → (∀ t ∈ s.members ctx, t.run = .run) →
       ∃ v, exec (.commandProcessorPreempt ctx us pa) s = .next v ∧ v.unit0.cmdStatus = 0 ∧ v.cur = s.cur ∧
         v.mem = s.mem ∧ (∀ t ∈ v.members ctx, t.st stPREQ = true) ∧ (v.ctxSt ctx).saving = some
           { deadline := s.dtime + 1000 * (if us = 0 then s.pdefault.toNat else us), base := pa, via := none }) ∧
     (∀ sv, c.saving = some sv → s.settled ctx = true → ∃ v, exec (.contextImageComplete ctx) s = .next v ∧
         (v.ctxSt ctx).saving = none ∧ (v.ctxSt ctx).isSaved = true ∧
         let img := s.image ctx
         (s.Inv → sv.via = none → sv.base + 256 * ((img.2 + 255) / 256) ≤ 0xC000000000 →
           (v.ctxSt ctx).saveStatus = 0 ∧ readNat v.mem sv.base img.2 = img.1 ∧
           ∀ x, x < sv.base ∨ sv.base + 256 * ((img.2 + 255) / 256) ≤ x → readByte v.mem x = readByte s.mem x) ∧
         (∀ s1 s2, (s.clearStashes ctx).imageWrite sv.via sv.base 1 (img.1 / 2 ^ 2048) ((img.2 + 255) / 256 - 1) =
             (s1, true) → s1.imageWrite sv.via sv.base 0 img.1 1 = (s2, true) →
           v.mem = s2.mem ∧ (v.ctxSt ctx).saveStatus = 0))) ∧
  (∀ (s : State) (ctx : Nat), ctx < 4096 →
     let img := s.image ctx
     let f (off n : Nat) : Nat := bits img.1 (8 * off) (8 * n)
     let ls := s.liveLaunches ctx
     let ds := s.liveDomains ctx
     let ts := s.members ctx
     let cs := s.recordCores ctx
     let lcore (core : Nat) : Nat := ((cs.find? (·.2 == core)).map (·.1)).getD 0
     let threads := 256 + 64 * ls.length + 16 * ds.length
     let scratch := threads + 512 * ts.length
     img.2 ≤ s.imageBound ctx ∧
     img.2 = scratch + (cs.map fun e => 8 + s.scratchBytes e.2 + s.scratchBytes e.2 / 128).sum ∧
     f 0 8 = 0x49585443 ∧ f 8 4 = 1 ∧ f 0x0C 4 = s.devrev.toNat % 2 ^ 32 ∧ f 0x10 8 = s.devfeat.toNat ∧ f 0x20 2 = ctx ∧
     f 0x22 2 = 0 ∧ f 0x24 4 = ts.length % 2 ^ 32 ∧ f 0x28 4 = ls.length % 2 ^ 32 ∧ f 0x2C 4 = ds.length % 2 ^ 32 ∧
     f 0x30 4 = cs.length % 2 ^ 32 ∧ f 0x34 4 = 0 ∧ f 0x38 8 = img.2 % 2 ^ 64 ∧ f 0x40 8 = s.dtime % 2 ^ 64 ∧
     f 0x48 184 = 0 ∧
     ((f 0x18 8).testBit 0 = true ↔ ∃ t ∈ ts, (∃ v, (t.getV v).tag ≠ 0) ∨ ∃ m, m ≠ 0 ∧ t.getM m ≠ 0) ∧
     ((f 0x18 8).testBit 1 = true ↔ ∃ t ∈ ts, t.st stMSM = true) ∧
     ((f 0x18 8).testBit 2 = true ↔ ∃ t ∈ ts, t.convoy.valid = true) ∧
     ((f 0x18 8).testBit 3 = true ↔ ∃ e ∈ s.cores, ∃ m ∈ e.2.stashMaps, m.ctx = ctx) ∧
     ((f 0x18 8).testBit 4 = true ↔ ∃ t ∈ ts, ∃ v, tagBlock (t.getV v).tag = true) ∧
     ((f 0x18 8).testBit 6 = true ↔ ∃ t ∈ ts, t.st stUIP = true) ∧ f 0x18 8 < 128 ∧
     (∀ k l, ls[k]? = some l → f (256 + 64 * k) 64 = l.rec64) ∧
     (∀ k d, ds[k]? = some d → f (256 + 64 * ls.length + 16 * k) 16 = d.rec16 ls) ∧
     (∀ k t, ts[k]? = some t → f (threads + 512 * k) 512 = t.rec512 ls (lcore t.core)) ∧
     (∀ k e, cs[k]? = some e →
       bits img.1 (8 * (scratch + ((cs.take k).map fun e => (s.scratchRecord e).2).sum)) (8 * (s.scratchRecord e).2) =
         (s.scratchRecord e).1)) ∧
  (∀ (s : State) (ctx core lcore : Nat) (ls : List Launch) (t : Thread) (l : Launch) (d : Domain), ls.length ≤ 65536 →
     (t.ctx = ctx → t.tid < 2 ^ 32 → (∃ m ∈ ls, m.num = t.launch) → s.find t.ref = none ∨ s.find t.ref = some t →
       let u := s.threadOfRecord ctx ls core (t.rec512 ls lcore)
       u.ref = t.ref ∧ u.launch = t.launch ∧ u.core = core ∧ u.run = .saved ∧ u.saveArea = t.saveArea ∧ u.dom = t.dom ∧
       (∀ r, r ≠ 0 → u.getS r = t.getS r ∧ u.poisonedS r = t.poisonedS r) ∧ u.pc = t.pc &&& ~~~3 ∧
       u.pw = t.pw ||| 1 ∧ (∀ k, k < 31 → k ≠ stPREQ → k ≠ stVSM → u.st k = t.st k) ∧ u.st stPREQ = false ∧
       u.st stVSM = true ∧ (t.wait = none → u.wait = none) ∧
       (s.find t.ref = some t → u.wait = t.wait ∧ u.pending = t.pending ∧ u.storeErrors = t.storeErrors)) ∧
     (l.ctx = ctx → l.n < 2 ^ 32 → l.l < 5 → l.placement < 256 → (∀ k w : Nat, l.widths[k]? = some w → 1 ≤ w ∧ w ≤ 65536) →
       let m := s.launchOfRecord ctx l.rec64
       m.ctx = l.ctx ∧ m.num = l.num ∧ m.n = l.n ∧ m.l = l.l ∧ m.entry = l.entry ∧ m.arg = l.arg ∧ m.compVa = l.compVa ∧
       m.save = l.save ∧ m.placement = l.placement ∧
       (∀ k, k < l.l → m.widths[k]?.getD 1 = l.widths[k]?.getD 1) ∧
       ((s.launches.find? fun x => x.ctx == ctx && x.num == l.num) = some l → m.comp = l.comp)) ∧
     (d.ctx = ctx → (∃ m ∈ ls, m.num = d.launch) → d.level < 256 → d.num < 65536 → d.arrivals < 65536 →
       d.expected < 65536 → domainOfRecord ctx ls (d.rec16 ls) = d)) ∧
  (∀ (s t : State) (e : Nat × Nat) (ctx core : Nat), s.Inv → e.1 < 65536 → e.2 < 65536 → s.blend = t.blend →
     s.corePhys ctx e.1 = some core → s.cls core = s.cls e.2 →
     let n := s.scratchBytes core
     let u := s.restoreScratch ctx (t.scratchRecord e).1 0 1
     (∀ x, x < n → readByte u.mem (windowBase core + x) = readByte t.mem (windowBase e.2 + x)) ∧
     (∀ x, x < windowBase core ∨ windowBase core + n ≤ x → readByte u.mem x = readByte s.mem x) ∧
     (s.monitors = [] → ∀ g, g < n / 16 →
       u.full.contains (windowBase core / 16 + g) = t.full.contains (windowBase e.2 / 16 + g))) ∧
  (∀ (s s1 : State) (core : Nat), s.cur.mig = none →
     State.loadBlock { s with cur := { s.cur with core := core, priority := 8, grantFwd := 0 } } = (s1, true) →
     s1.cur.convoy.valid = false → (s.queue core).length < 64 → (s.core core).arrivals = [] →
     (s.core core).refusals = [] →
     let u := s.place core false
     (s1.cur.wait = none → u.cur.run = .ready ∧ u.cur.core = core ∧ (u.core core).ready.getLast? = some s1.cur.ref) ∧
     (∀ w, s1.cur.wait = some w → (∀ va pa p i c d l, w ≠ .waita va pa p i c d l) → u.cur.run = .waitu ∧ u.cur.wait = some w) ∧
     (s1.cur.wait = none → (s.place core true).cur.run = .saved ∧ (s.place core true).cur.before = some .run ∧
       (s.place core true).cur.restoredRun = true ∧ ((s.place core true).core core).ready.contains s1.cur.ref = false)) ∧
  (∀ (s s0 : State) (d a b : BitVec 5) (via : Option Nat) (ctx B h : Nat),
     let restores (st : Nat) (t : State) : Prop :=
       (via = some s.cur.ctx → s.bare 0x2D = true → s.clean [a, b] = true → s.cur.st stSYS = true →
         (s.cur.getS a).toNat % 4096 = ctx → (s.cur.getS b).toNat = B →
         exec (.ctxload d a b) s = .next ((t.written d (BitVec.ofNat 64 st) []).retired 0x2D)) ∧
       (via = none → exec (.commandProcessorRestore ctx B) s =
         .next { t with unit0 := { t.unit0 with cmdStatus := BitVec.ofNat 64 st } })
     let readable (n : Nat) : Prop := B % 4096 = 0 ∧
       ∀ k, 256 * k < n → ∃ p, s.imagePlace via (B + 256 * k) false = some p ∧ s.badRange p.pa 256 = false
     let f (off n : Nat) : Nat := bits h (8 * off) (8 * n)
     (¬readable 256 → restores 5 s) ∧
     (readable 256 → s.imageRead via B 1 = (s0, h) →
       let len := f 0x38 8
       let nt := f 0x24 4
       let nl := f 0x28 4
       let nd := f 0x2C 4
       let threads := 256 + 64 * nl + 16 * nd
       let good : Prop := f 0 8 = 0x49585443 ∧ f 8 4 = 1 ∧ f 0x22 2 = 0 ∧ f 0x34 4 = 0 ∧ f 0x48 184 = 0 ∧ f 0x20 2 = ctx
       let miss := f 0x18 8 &&& (2 ^ 64 - 1 - s.devfeat.toNat)
       let free : Prop := s.savingCtx ctx = false ∧ (s.members ctx = [] ∨ (s.ctxSt ctx).isSaved = true)
       (¬readable len → restores 5 s) ∧
       (readable len → (¬good → restores 1 s) ∧ (good → miss ≠ 0 → restores (2 + miss % 128 * 256) s) ∧
         (good → miss = 0 → ¬free → restores 3 s) ∧
         (good → miss = 0 → free → ∀ s1 img, s0.imageRead via B ((len + 255) / 256) = (s1, img) →
           let record (k : Nat) : Nat := bits img (8 * (threads + 512 * k)) (8 * 512)
           ((∃ k, k < nt ∧ s1.restoreCore ctx (record k) = none) → restores 4 s) ∧
           ((∀ k, k < nt → (s1.restoreCore ctx (record k)).isSome = true) →
             let s2 := s1.restoreScratch ctx img (threads + 512 * nt) (f 0x30 4)
             let ls := (List.range nl).map fun k => s2.launchOfRecord ctx (bits img (8 * (256 + 64 * k)) (8 * 64))
             ∃ s3 : State, s3.mem = s2.mem ∧ (s3.ctxSt ctx).isSaved = false ∧ (∀ l ∈ ls, l ∈ s3.launches) ∧
               (∀ k, k < nd → domainOfRecord ctx ls (bits img (8 * (256 + 64 * nl + 16 * k)) (8 * 16)) ∈ s3.domains) ∧
               restores 0 ((s3.dropThreads ctx).restoreThreads ((List.range nt).map fun k =>
                 (s3.threadOfRecord ctx ls ((s1.restoreCore ctx (record k)).getD 0) (record k),
                   bits (record k) 32 8 == 1))))))))

/-- R378 to R381, R383: a stream instruction whose counter is busy stays where it is. Otherwise a refused
block, and `vl` = 0, end the transfer at once, with LEAD 0xFFFF or 0; a fault of an element raises its trap;
and a transfer whose elements are all reached joins the stream queue, with LEAD 0 and BUSY.
R385, R386: STRMW goes on once COUNT − B, modulo 2^32, is below 2^31, and otherwise waits at the counter.
UIRET goes on at `ulipc` with INUI clear, and is illegal outside a handler.
R401: a COLL whose rank table, words, flags and buffers are all reached joins the stream queue with an element
for each of its N, or of its P × N in an all-gather. -/
def Obligations.StreamTransfers : Prop :=
  (∀ (s s1 : State) (d a b : BitVec 5) (p sp : BitVec 1) (n j : BitVec 3) (blk : Nat),
     s.bare 0x2A = true → s.cur.run = .run → s.cur.dying = false → s.cur.reissue = none → s.cur.scAway = false →
     let core := s.cur.core
     let vl := s.cur.vl.toNat
     let nf := n.toNat + 1
     let dests := (List.range nf).map fun k => d + BitVec.ofNat 5 k
     let mine : List Instr := [.strm a j sp] ++
       (if s.streaming (dests ++ if p = 1 then [b] else []) = false then [.strmv d a b p n j sp] else [])
     let free : Prop := scBusy (s.cur.sc[j.toNat]?.getD 0) = false ∧ (∀ q ∈ s.cur.pending, q.ctr ≠ j) ∧
       (s.core core).streamQ.length < 16
     let counts (t u : State) (lead : Nat) (busy : Bool) : Prop :=
       u.cur.sc[j.toNat]?.getD 0 = scWord (scCount (t.cur.sc[j.toNat]?.getD 0)) lead busy ∧
       ∀ k, k ≠ j.toNat → u.cur.sc[k]?.getD 0 = t.cur.sc[k]?.getD 0
     let word (lo : Nat) : Word := BitVec.ofNat 64 (bits blk lo 64)
     let zc := bits blk 256 3
     let z := 2 ^ zc
     let ends (i : Instr) (at' lead : Nat) : Prop := ∃ u : State, exec i s = .next u ∧ u.mem = s1.mem ∧
       u.cur.pc = s.cur.pc + 4 ∧ counts s u lead false ∧ (u.core core).streamQ = (s.core core).streamQ ∧
       u.cur.pending = s.cur.pending ++ (if blk.testBit (at' + 32) = true then
         [{ id := BitVec.ofNat 32 (bits blk at' 32), ctr := j,
            handler := BitVec.ofNat 64 (bits blk (at' + 32) 64) &&& ~~~3 }] else [])
     let joins (i : Instr) (t : State) (count : Nat) : Prop := ∃ (u : State) (x : Xfer), exec i s = .next u ∧
       u.mem = t.mem ∧ u.cur.pc = s.cur.pc + 4 ∧ counts s u 0 true ∧
       (u.core core).streamQ = (t.core core).streamQ ++ [x] ∧
       x.ref = s.cur.ref ∧ x.ctr = j ∧ x.bytes = z ∧ x.count = count ∧ x.landed = []
     (¬free → exec (.strm a j sp) s = .next { s with held := true } ∧
       exec (.strmv d a b p n j sp) s = .next { s with held := true } ∧
       exec (.coll a sp j) s = .next { s with held := true }) ∧
     (free → s.clean [a] = true → (p = 1 → s.cur.ownPoison b = false) →
       s.readBlock sp.toNat (s.cur.getS a) = (s1, .ok blk) →
       (4 < zc → ends (.strm a j sp) 288 0xFFFF) ∧
       (3 < zc → ∀ i ∈ mine, i ≠ .strm a j sp → ends i 288 0xFFFF) ∧
       (collRefused blk = true → ends (.coll a sp j) 384 0xFFFF) ∧
       (vl = 0 → zc ≤ 4 → ends (.strm a j sp) 288 0) ∧
       (vl = 0 → zc ≤ 3 → ∀ i ∈ mine, ends i 288 0) ∧
       (vl ≠ 0 → zc ≤ 4 →
         let touches : List Touch := (List.range vl).flatMap fun e =>
           [{ elem := e, space := bits blk 259 1, addr := word 0 + word 128 * BitVec.ofNat 64 e, size := z,
              write := false, aperture := true },
            { elem := e, space := bits blk 260 1, addr := word 64 + word 192 * BitVec.ofNat 64 e, size := z,
              write := true, aperture := true }]
         (∀ s2 l, s1.touchAll touches = (s2, .ok l) → joins (.strm a j sp) s2 vl) ∧
         (∀ s2 x, s1.touchAll touches = (s2, .error x) →
           exec (.strm a j sp) s = .next ({ s2 with failing := none }.trap x))) ∧
       (vl ≠ 0 → zc ≤ 3 → Instr.strmv d a b p n j sp ∈ mine →
         s.tooLong (max (8 * z) (if p = 1 then tagWidth (s.cur.getV b).tag else 0)) = false →
         ∀ s2 t, (if p = 1 then s1.indexThread b else (s1, some s1.cur)) = (s2, some t) →
         let touches : List Touch := (List.range vl).flatMap fun e => (List.range nf).map fun f =>
           { elem := e, space := bits blk 259 1, size := z, write := false, aperture := false
             addr := word 0 + word 128 * (if p = 1 then indexOf t b e else BitVec.ofNat 64 e) +
               BitVec.ofNat 64 (f * z) }
         (∀ s3 x, s2.touchAll touches = (s3, .error x) →
           exec (.strmv d a b p n j sp) s = .next ({ s3 with failing := none }.trap x)) ∧
         (∀ s3 s4 l, s2.touchAll touches = (s3, .ok l) → s3.loadVs dests = (s4, true) →
           (∀ s5, s4.tagDests zc dests = (s5, true) → joins (.strmv d a b p n j sp) s5 vl) ∧
           (s.cls core ≠ some .t → ∃ s5, s4.tagDests zc dests = (s5, true) ∧ s5.mem = s4.mem))))) ∧
  (∀ (s : State) (b : BitVec 5) (j : BitVec 3), s.bare 0x2A = true →
     let count := (s.cur.sc[j.toNat]?.getD 0).toNat % 2 ^ 32
     let target := (s.cur.getS b).setWidth 32
     (s.clean [b] = true → s.cur.scAway = false →
       ((BitVec.ofNat 32 count - target).toNat < 2 ^ 31 → exec (.strmw b j) s = .next (s.retired 0x2A)) ∧
       (2 ^ 31 ≤ (BitVec.ofNat 32 count - target).toNat → ∃ t, exec (.strmw b j) s = .next t ∧
         t.cur.wait = some (.stream j target) ∧ t.cur.pc = s.cur.pc ∧ t.mem = s.mem ∧
         t.cur.run = (if (s.core s.cur.core).ready.isEmpty = true ∧ s.cur.st stYIELD = false then .waitb else .waitu))) ∧
     (s.cur.st stINUI = true → exec .uiret s =
       .next ({ s with cur := { s.cur with tstat := s.cur.tstat &&& ~~~0x1000 } }.retiredAt 0x2A
         (s.cur.ulipc &&& ~~~3))) ∧
     (s.cur.st stINUI = false →
       exec .uiret s = .next ({ s with failing := none }.trap (illegal (encode .uiret) 0)))) ∧
  (∀ (s s1 s2 s3 s4 : State) (a : BitVec 5) (sp : BitVec 1) (j : BitVec 3) (blk : Nat) (places l : List Place)
     (words : List Nat),
     s.bare 0x2A = true → s.cur.run = .run → s.cur.dying = false → s.cur.reissue = none → s.cur.scAway = false →
     scBusy (s.cur.sc[j.toNat]?.getD 0) = false → (∀ q ∈ s.cur.pending, q.ctr ≠ j) →
     (s.core s.cur.core).streamQ.length < 16 → s.clean [a] = true →
     s.readBlock sp.toNat (s.cur.getS a) = (s1, .ok blk) → collRefused blk = false →
     let op := bits blk 0 8
     let z := tagWidth (BitVec.ofNat 5 (bits blk 8 8)) / 8
     let n := bits blk 32 32
     let p := bits blk 64 32
     let r := bits blk 96 32
     let base (lo : Nat) : Word := BitVec.ofNat 64 (bits blk lo 64)
     let word (e : Nat) (addr : Word) (w ap : Bool) : Touch :=
       { elem := e, space := 0, addr := addr, size := 8, write := w, aperture := ap }
     let elem (e : Nat) (addr : Word) (w ap : Bool) : Touch :=
       { elem := e, space := 0, addr := addr, size := z, write := w, aperture := ap }
     let count := if op = 0 then p * n else n
     s1.touchAll ((List.range (2 * p)).map fun k => word (k / 2) (base 128 + BitVec.ofNat 64 (8 * k)) false false) =
       (s2, .ok places) →
     (∀ q ∈ places, s2.badRange q.pa 8 = false) → s2.rankWords places = (s3, words) →
     let buf (q : Nat) : Word := BitVec.ofNat 64 (words[2 * q]?.getD 0)
     let ready (q : Nat) : Word := BitVec.ofNat 64 (words[2 * q + 1]?.getD 0)
     let checks := (List.range p).map (fun q => word q (ready q) false true) ++ [word r (ready r) true true] ++
       (if base 256 = 0 then [] else (List.range p).map fun q => word q (base 256 + BitVec.ofNat 64 (8 * q)) true false) ++
       ((List.range p).flatMap fun q => (List.range n).map fun i =>
         elem (if op = 0 then q * n + i else i) (buf q + BitVec.ofNat 64 (i * z)) false true) ++
       (List.range count).map fun e => elem e (base 192 + BitVec.ofNat 64 (e * z)) true false
     s3.touchAll (checks.mergeSort fun x y => decide (x.elem ≤ y.elem)) = (s4, .ok l) →
     ∃ (u : State) (x : Xfer), exec (.coll a sp j) s = .next u ∧ u.mem = s4.mem ∧ u.cur.pc = s.cur.pc + 4 ∧
       u.cur.sc[j.toNat]?.getD 0 = scWord (scCount (s.cur.sc[j.toNat]?.getD 0)) 0 true ∧
       (u.core s.cur.core).streamQ = (s4.core s.cur.core).streamQ ++ [x] ∧
       x.ref = s.cur.ref ∧ x.ctr = j ∧ x.bytes = z ∧ x.count = count ∧ x.landed = [])

/-- R373, R389 to R392: SEND puts a message into the retry buffer of its channel's class, with its payload,
route and next sequence number, and counts one that has no route as discarded; it waits while the buffer
is full.
R392: RECV and RECVT take the oldest message of their channel's ring, with its length and source in S[d];
without one RECVT gives 0x200 and RECV waits; without a channel both give 0x400. On another core than the
ring's the thread leaves for that core; one on which its `vl` would exceed VLMAX is taken as unavailable, which is the
model's choice (log entry 40).
R393: TOKW puts its 64 bytes into the retry buffer as a token for the unit whose window B reaches; any
other B raises the protection fault. -/
def Obligations.Messages : Prop :=
  (∀ (s s1 : State) (d a h : BitVec 5) (l : BitVec 7) (sp : BitVec 1) (places : List Place),
     s.bare 0x2B = true →
     let chan := h.toNat * 128 + l.toNat
     let ctx := s.cur.ctx
     let core := s.cur.core
     let addr := s.cur.getS a
     let len := min (s.cur.getS d).toNat 256
     let data := s1.loadPieces places len
     (∀ e, s.channel ctx chan = some e → s.sendStalls e.cls = true →
       exec (.send d a h l sp) s = .next { s with held := true }) ∧
     (s.clean [a, d] = true → addr.toNat % 16 = 0 → s.locateAll sp.toNat wantLoad (piecesOf addr len) = (s1, .ok places) →
       (∀ e pkg, s.channel ctx chan = some e → s.sendStalls e.cls = false → s.torus ctx e.dtorus = some pkg →
         ∃ (u : State) (m : Msg), exec (.send d a h l sp) s = .next u ∧ u.cur = (s.retired 0x2B).cur ∧ u.mem = data.1.mem ∧
           (u.core core).retry = (s.core core).retry ++ [m] ∧
           m.cls = e.cls ∧ m.sender = s.cur.ref ∧ m.dstPkg = pkg ∧ m.dstCtx = e.dctx ∧ m.chan = e.dchan ∧
           m.len = len ∧ m.data = BitVec.ofNat 2048 data.2 ∧ m.srcCore = core ∧ m.refused = false ∧
           m.seq = (lookup (s.core core).seqs (m.dstPkg, m.dstCore, m.cls)).getD 0 ∧
           lookup (u.core core).seqs (m.dstPkg, m.dstCore, m.cls) = some (m.seq + 1)) ∧
       (s.channel ctx chan = none → ∃ u : State, exec (.send d a h l sp) s = .next u ∧
         u.cur = (s.retired 0x2B).cur ∧ (u.core core).retry = (s.core core).retry ∧
         (u.core core).counters[15] = (data.1.core core).counters[15] + 1)) ∧
     ((∀ e, s.channel ctx chan = some e → s.sendStalls e.cls = false) → s.clean [a, d] = true → addr.toNat % 16 ≠ 0 →
       exec (.send d a h l sp) s = .next ({ s with failing := none }.trap
         { code := 8, val := addr, elem := none, start := none }))) ∧
  (∀ (s s1 : State) (d a h : BitVec 5) (l : BitVec 7) (sp : BitVec 1) (e : Channel) (buf : List Place),
     s.bare 0x2B = true → s.clean [a] = true → (s.cur.getS a).toNat % 16 = 0 →
     let chan := h.toNat * 128 + l.toNat
     let ctx := s.cur.ctx
     let core := s.cur.core
     let both : List Instr := [.recv d a h l sp, .recvt d a h l sp]
     (s.channel ctx chan = none → ∀ i ∈ both, exec i s = .next ((s.written d 0x400 []).retired 0x2B)) ∧
     (s.channel ctx chan = some e →
       (s.available ctx e.dlcore = none → ∀ i ∈ both, exec i s = .next ({ s with failing := none }.trap
         { code := 0x0F, val := BitVec.ofNat 64 chan, elem := none, start := none })) ∧
       (∀ home, s.available ctx e.dlcore = some home → home ≠ core → s.vlFits s.cur home = false → ∀ i ∈ both,
         exec i s = .next ({ s with failing := none }.trap
           { code := 0x0F, val := BitVec.ofNat 64 chan, elem := none, start := none })) ∧
       (∀ home, s.available ctx e.dlcore = some home → home ≠ core → s.vlFits s.cur home = true → ∀ i ∈ both, ∃ (u : State) (m : Mig), exec i s = .next u ∧
         u.cur.run = .transit ∧ u.cur.pc = s.cur.pc ∧ u.cur.mig = some m ∧ m.dest = home ∧ m.cause = 1 ∧
         m.fixed = true) ∧
       (s.available ctx e.dlcore = some core →
         s.locateAll sp.toNat wantStore (piecesOf (s.cur.getS a) 256) = (s1, .ok buf) →
         let r := s.ring ctx chan
         let got := s1.takeMessage ctx chan core e buf
         (0 < r.held → (∀ i ∈ both, exec i s = .next ((got.1.written d got.2 []).retired 0x2B)) ∧
           (got.1.ring ctx chan).held = r.held - 1 ∧ (got.1.ring ctx chan).first = (r.first + 1) % e.slots ∧
           got.2.toNat = min 256 (readNat s1.mem (windowBase core + e.ring + 288 * r.first + 8) 2) +
             readNat s1.mem (windowBase core + e.ring + 288 * r.first + 10) 2 * 2 ^ 16 +
             readNat s1.mem (windowBase core + e.ring + 288 * r.first + 12) 2 % 2 ^ 14 * 2 ^ 32) ∧
         (r.held = 0 → exec (.recvt d a h l sp) s = .next ((s1.written d 0x200 []).retired 0x2B) ∧
           ∃ u : State, exec (.recv d a h l sp) s = .next u ∧ u.cur.wait = some (.recv chan buf core d) ∧
             u.cur.pc = s.cur.pc ∧ (u.cur.run = .waitb ∨ u.cur.run = .waitu) ∧ u.mem = s.mem ∧
             u.recvWaiters = s.recvWaiters ++ [s.cur.ref])))) ∧
  (∀ (s s1 s2 : State) (a b : BitVec 5) (sp : BitVec 1) (data : Nat), s.bare 0x2B = true →
     let core := s.cur.core
     (s.sendStalls 3 = true → exec (.tokw a b sp) s = .next { s with held := true }) ∧
     (s.sendStalls 3 = false → s.clean [a, b] = true → s.readBlock sp.toNat (s.cur.getS a) = (s1, .ok data) →
       (s1.tokenPlace (s.cur.getS b) = (s2, none) → exec (.tokw a b sp) s = .next ({ s2 with failing := none }.trap
         { code := 0x0B, val := s.cur.getS b, elem := none, start := none })) ∧
       (∀ pa, s1.tokenPlace (s.cur.getS b) = (s2, some pa) → ∃ (u : State) (m : Msg), exec (.tokw a b sp) s = .next u ∧
         u.cur = (s.retired 0x2B).cur ∧ u.mem = s1.mem ∧ (u.core core).retry = (s.core core).retry ++ [m] ∧
         m.cls = 3 ∧ m.len = 64 ∧ m.data = BitVec.ofNat 2048 data ∧ m.pa = pa ∧ m.sender = s.cur.ref ∧
         m.dstPkg = (if 2 ^ 56 ≤ pa then pa / 2 ^ 42 % 2 ^ 14 else s.manifest.package))))

/-- R25, R33, R34, R396, R397: LAUNCH takes a launch number of its context. With a usable completion word the
launch joins the queue of the unit that the block names, and S[d] has the number; without one S[d] has ERR
5 and bit 63. A full queue keeps the instruction where it is.
R38, R40, R399, R400: BAR at a level outside whose domains the thread is goes on; in a domain it waits, unless its
arrival is the last: then the phase closes, and it goes on. DLEAVE leaves the domains of its mask, each of
which then expects one thread less.
R56, R57: END waits for the thread's transfers. Without any the thread is DONE, and its launch's completion
word counts one thread more, has its sticky flags, and DONE with the last thread. -/
def Obligations.LaunchesAndDomains : Prop :=
  (∀ (s s1 : State) (d a : BitVec 5) (sp : BitVec 1) (blk : Nat), s.bare 0x2C = true → s.clean [a] = true →
     s.cur.reissue = none → s.readBlock sp.toNat (s.cur.getS a) = (s1, .ok blk) →
     let ctx := s.cur.ctx
     let num := (s.ctxSt ctx).nextLaunch
     let unit := unitOf (dieOf s.cur.core) (bits blk 104 8)
     let place := s1.completionPlace ctx (BitVec.ofNat 64 (bits blk 256 64))
     let gives (t : State) (v : Word) : Prop := t.cur.getS d = (if d = 0 then 0 else v) ∧
       (t.ctxSt ctx).nextLaunch = num + 1 ∧ t.cur.pc = s.cur.pc + 4 ∧ t.cur.poisonedS d = false
     (∀ u, unit = some u → (32 ≤ (s1.unit u).queue.length ∨ (s1.unit u).fenced = true) →
       exec (.launch d a sp) s = .next { s1 with held := true }) ∧
     ((∀ u, unit = some u → (s1.unit u).full = false) →
       (place = none → ∃ t, exec (.launch d a sp) s = .next t ∧
         gives t (BitVec.ofNat 64 (2 ^ 63 + 5 * 2 ^ 40 + num.toNat)) ∧ t.mem = s1.mem ∧ t.unit0 = s1.unit0 ∧
         t.unit1 = s1.unit1) ∧
       (∀ comp u, place = some comp → unit = some u → ∃ t l, exec (.launch d a sp) s = .next t ∧
         gives t (num.setWidth 64) ∧ t.mem = s1.mem ∧
         (t.unit u).queue = (s1.unit u).queue ++
           [{ launch := l, source := .thread, started := false, inserted := 0, cores := [], tpc := 1 }] ∧
         l.ctx = ctx ∧ l.num = num ∧ l.n = bits blk 64 32 ∧ l.l = bits blk 96 8 ∧
         l.entry = BitVec.ofNat 64 (bits blk 0 64) ∧ l.arg = BitVec.ofNat 64 (bits blk 192 64) ∧ l.comp = comp ∧
         l.save = BitVec.ofNat 64 (bits blk 320 64) ∧ l.placeSet = BitVec.ofNat 16 (bits blk 112 16)) ∧
       (∀ comp, place = some comp → unit = none → s.Inv → s1.monitors = [] → s1.plainAt { pa := comp, attr := 0 } = true →
         ∃ t, exec (.launch d a sp) s = .next t ∧ gives t (num.setWidth 64) ∧
           readNat t.mem comp 8 = 2 ^ 63 + 2 ^ 40 ∧ s.sameBytesBut t comp 8))) ∧
  (∀ (s : State) (m : BitVec 4), s.bare 0x2C = true → s.cur.run = .run → s.cur.wait = none →
     s.cur.reissue = none → (∀ t ∈ s.threads, t.ref ≠ s.cur.ref) →
     let bars : List (Instr × Nat) := [(.bar0, 0), (.bar1, 1), (.bar2, 2), (.bar3, 3)]
     let mine (k : Nat) (d : Domain) : Bool := match s.cur.domAt k with
       | some num => d.is s.cur.ctx s.cur.launch k num
       | none => false
     (s.cur.target = none → s.cur.st stYIELD = false → ∀ p ∈ bars,
       (s.cur.domAt p.2 = none → ∃ t, exec p.1 s = .next t ∧ t.cur = (s.retired 0x2C).cur ∧ t.mem = s.mem ∧
         t.domains = s.domains) ∧
       ((s.cur.domAt p.2).isSome = true → (∀ d ∈ s.domains, mine p.2 d = true → d.arrivals + 1 ≠ d.expected) →
         ∃ t, exec p.1 s = .next t ∧ t.mem = s.mem ∧ t.threads = s.threads ∧
           t.cur = { s.cur with wait := some (.bar p.2)
                                run := if (s.core s.cur.core).ready.isEmpty = true then .waitb else .waitu } ∧
           t.domains = s.domains.map fun d => if mine p.2 d = true then { d with arrivals := d.arrivals + 1 } else d) ∧
       (s.domains.any (mine p.2) = true → (∀ d ∈ s.domains, mine p.2 d = true → d.arrivals + 1 = d.expected) →
         ∃ t, exec p.1 s = .next t ∧ t.mem = s.mem ∧ t.cur = (s.retired 0x2C).cur ∧
           t.domains = s.domains.map fun d =>
             if mine p.2 d = true then { d with arrivals := 0, phase := d.phase + 1 } else d)) ∧
     (∃ t, exec (.dleave m) s = .next t ∧ t.mem = s.mem ∧ t.cur.s = s.cur.s ∧ t.cur.pc = s.cur.pc + 4 ∧
       (∀ k : Fin 4, t.cur.dom[k] = if m.getLsbD k = true ∧ (s.cur.domAt k).isSome = true then 0 else s.cur.dom[k]) ∧
       t.domains.map (fun d => d.expected) = s.domains.map fun d =>
         if m.getLsbD d.level = true ∧ mine d.level d = true then d.expected - 1 else d.expected)) ∧
  (∀ (s : State) (l : Launch), s.bare 0x2C = true → s.cur.storeErrors = [] →
     (s.hasXfer s.cur.ref = true → exec .endT s = .next { s with held := true }) ∧
     (s.hasXfer s.cur.ref = false → ∃ t, exec .endT s = .next t ∧ t.cur.run = .done ∧ t.cur.ref = s.cur.ref ∧
       (t.core s.cur.core).tile.holder ≠ some s.cur.ref ∧
       (s.launchOf s.cur = some l → s.Inv → s.plainAt { pa := l.comp, attr := 0 } = true →
         let w := readNat s.mem l.comp 8
         let u := readNat t.mem l.comp 8
         s.sameBytesBut t l.comp 8 ∧ u % 2 ^ 32 = (w + 1) % 2 ^ 32 ∧
         (∀ k, k < 6 → u.testBit (32 + k) = (w.testBit (32 + k) || s.cur.drain.tstat.getLsbD k)) ∧
         u / 2 ^ 40 % 2 ^ 8 = w / 2 ^ 40 % 2 ^ 8 ∧
         u.testBit 63 = (w.testBit 63 || (w + 1) % 2 ^ 32 == l.n))))

/-! ### Tables and margin -/

/-- R250, R405, R406, R409, R419, R420: TBLW in system state, or by a thread that may, gives GEN and a status in
S[d]. Status 0 writes the word and increments GEN; any other changes no entry.
R419, R421: TBLR stores the word that B selects at A. TINV, in system state, removes every cached translation
of a range of a context, once no transfer uses one. -/
def Obligations.TableInstructions : Prop :=
  (∀ (s s1 : State) (d a b : BitVec 5) (p : Place), s.bare 0x2E = true → s.clean [a, b] = true → s.cur.run = .run →
     s.cur.dying = false → s.cur.reissue = none →
     let addr := s.cur.getS a
     let x := Selector.ofWord (s.cur.getS b)
     let may := s.cur.st stSYS = true ∨ s.mayWrite x = true
     (¬may → exec (.tblw d a b) s = .next ({ s with failing := none }.trap
       { code := 5, val := (encode (.tblw d a b)).setWidth 64, elem := none, start := none })) ∧
     (may → s.access 0 addr 32 wantLoad = (s1, .ok p) →
       let l := s1.load 0 addr p 32
       let w := BitVec.ofNat 256 l.2
       let st := l.1.writeStatus x w
       let gen := if x.tbl = 6 then 0 else tfield (s.table x.tbl x.ctx x.index 0) 2 2
       let gives (t : State) (v : Nat) : Prop := t.cur.getS d = (if d = 0 then 0 else BitVec.ofNat 64 v) ∧
         t.cur.poisonedS d = false ∧ t.cur.pc = s.cur.pc + 4 ∧ t.mem = l.1.mem
       (x.exists = false → ∃ t n, exec (.tblw d a b) s = .next t ∧ gives t (n % 65536 * 2 ^ 16 + 1) ∧
         t.tables = s.tables ∧ (x.index < (tableSize x.tbl).1 → n = gen)) ∧
       (x.exists = true → st ≠ 0 → ∃ t, exec (.tblw d a b) s = .next t ∧ gives t (gen * 2 ^ 16 + st) ∧
         t.tables = s.tables) ∧
       (x.exists = true → st = 0 →
         (x.tbl = 1 → tvalid w = true → tfield w 1 1 ≠ 0 → ∀ t ∈ s.all, t.core ≠ tfield w 4 2) →
         ∃ t, exec (.tblw d a b) s = .next t ∧
           gives t ((if x.tbl = 6 then 0 else (gen + 1) % 65536) * 2 ^ 16) ∧
           (x.tbl = 6 → t.table x.tbl x.ctx x.index 0 = w) ∧
           (x.tbl ≠ 6 → x.word ≠ 0 → t.table x.tbl x.ctx x.index x.word = w) ∧
           (x.tbl ≠ 6 → x.word = 0 → t.table x.tbl x.ctx x.index 0 = tput w 2 2 (gen + 1)) ∧
           (x.tbl ≠ 6 → tfield (t.table x.tbl x.ctx x.index 0) 2 2 = (gen + 1) % 65536) ∧
           (∀ tb c i k, (tb ≠ x.tbl ∨ c ≠ x.ctx ∨ i ≠ x.index) → (x.tbl ≠ 0 ∨ c ≠ x.index) →
             t.table tb c i k = s.table tb c i k)))) ∧
  (∀ (s s1 : State) (d a b : BitVec 5) (p : Place), s.bare 0x2E = true → s.clean [a, b] = true →
     let addr := s.cur.getS a
     let B := (s.cur.getS b).toNat
     let x := Selector.ofWord (s.cur.getS b)
     let may := s.cur.st stSYS = true ∨ s.mayRead x = true
     let stops (i : Instr) : Prop := exec i s = .next ({ s with failing := none }.trap
       { code := 5, val := (encode i).setWidth 64, elem := none, start := none })
     (¬may → stops (.tblr d a b)) ∧
     (may → x.exists = true → (x.cmp = true → x.word = 0) → s.access 0 addr 32 wantStore = (s1, .ok p) →
       let gen := if x.tbl = 6 then 0 else tfield (s.table x.tbl x.ctx x.index 0) 2 2
       let w := s.table x.tbl x.ctx x.index x.word
       let t := ((s1.store 0 addr p 32 w.toNat).written d (BitVec.ofNat 64 (gen * 2 ^ 16)) []).retired 0x2E
       exec (.tblr d a b) s = .next t ∧
       (s.Inv → s1.plainAt p = true → readNat t.mem p.pa 32 = w.toNat ∧ s.sameBytesBut t p.pa 32)) ∧
     (may → x.exists = true → x.cmp = true → x.word ≠ 0 →
       exec (.tblr d a b) s = .next ((s.written d (BitVec.ofNat 64 (s.entryGen x * 2 ^ 16 + 1)) []).retired 0x2E)) ∧
     (s.cur.st stSYS = false → stops (.tinv d a b)) ∧
     (s.cur.st stSYS = true →
       let ctx := B / 2 ^ 48 % 4096
       let len := B % 2 ^ 48
       (s.translating ctx addr.toNat len = true → exec (.tinv d a b) s = .next { s with held := true }) ∧
       (s.translating ctx addr.toNat len = false → ∃ t, exec (.tinv d a b) s = .next t ∧
         t.cur = ((s.written d 0 []).retired 0x2E).cur ∧ t.mem = s.mem ∧ t.tables = s.tables ∧
         ∀ core e, e ∈ (t.core core).tlb ↔ e ∈ (s.core core).tlb ∧ ¬(e.ctx = ctx ∧
           (len = 0 ∨ (e.vbase < addr.toNat + len ∧ addr.toNat < e.vbase + 2 ^ e.sizeLog))))))

/-- R437 to R439, R454: AGRD, AGRDX and CTRDX read the ageing counters and counter registers of a core, CTZERO
clears its event counters. AGRDX, MGNREQ, CTRDX and CTZERO belong to system state; of no core AGRDX and CTRDX
read all ones.
R429 to R432, R436, R441: MGNREQ gives its status: 1 of no core, 2 of a quarantined one, 3 at the top step or
in a window that has acted, 4 of a core in use. A step up raises STEP by one, a quarantine opens the guarded
window for good, and a reset of an empty core leaves its scratchpad zero. -/
def Obligations.MarginInstructions : Prop :=
  (∀ (s : State) (d a b : BitVec 5), s.bare 0x2F = true →
     let A := (s.cur.getS a).toNat
     let core := (s.cur.getS b).toNat % 65536
     let gives (i : Instr) (v : Word) (srcs : List (BitVec 5)) : Prop :=
       exec i s = .next ((s.written d v srcs).retired 0x2F)
     gives (.agrd d a) (s.ageing s.cur.core (A % 16)) [a] ∧
     (∀ c, let g := (s.core c).age
       s.ageing c 0 = g.rodly.setWidth 64 ∧ s.ageing c 1 = (if g.refHidden then 0 else g.rodref.setWidth 64) ∧ s.ageing c 2 = g.rplLife ∧
       s.ageing c 3 = g.winmax.setWidth 64 ∧ s.ageing c 4 = g.poh + BitVec.ofNat 64 ((s.dtime - g.pohSince) / 10 ^ 9) ∧
       s.ageing c 5 = BitVec.ofNat 64 (g.plan.start.toNat + 2 ^ 4 * g.plan.top.toNat + 2 ^ 8 * g.rev.toNat +
         2 ^ 24 * g.pend.isSome.toNat + 2 ^ 25 * g.quar.toNat + 2 ^ 26 * g.plan.retire.toNat) ∧
       s.ageing c 6 = g.cec.setWidth 64 ∧ s.ageing c 7 = g.lastrp ∧ ∀ k, 8 ≤ k → s.ageing c k = 0) ∧
     (s.cur.st stSYS = false → s.clean [a, b] = true →
       ∀ i ∈ [Instr.agrdx d a b, .mgnreq d a b, .ctrdx d a b, .ctzero d b],
         exec i s = .next ({ s with failing := none }.trap
           { code := 5, val := (encode i).setWidth 64, elem := none, start := none })) ∧
     (s.cur.st stSYS = true →
       ((s.cls core).isSome = true → gives (.agrdx d a b) (s.ageing core (A % 16)) [a, b] ∧
         (∀ v, s.counterReg core (A % 4096) = some v → gives (.ctrdx d a b) v [a, b]) ∧
         (s.counterReg core (A % 4096) = none → gives (.ctrdx d a b) (BitVec.allOnes 64) [a, b])) ∧
       ((s.cls core).isSome = false → gives (.agrdx d a b) (BitVec.allOnes 64) [a, b] ∧
         gives (.ctrdx d a b) (BitVec.allOnes 64) [a, b]) ∧
       (s.cur.poisonedS b = false →
         ((s.cls core).isSome = false → gives (.ctzero d b) 1 []) ∧
         ((s.cls core).isSome = true → exec (.ctzero d b) s = .next ((({ s with
           cores := assign s.cores core { s.core core with counters := Vector.replicate 18 0 } }).written d 0 []).retired 0x2F))))) ∧
  (∀ (s : State) (d a b : BitVec 5), s.bare 0x2F = true → s.clean [a, b] = true → s.cur.st stSYS = true →
     s.cur.run = .run → s.cur.dying = false → s.cur.reissue = none →
     let op := (s.cur.getS a).toNat % 4
     let core := (s.cur.getS b).toNat % 65536
     let c := s.core core
     let gives (v : Nat) : Prop := exec (.mgnreq d a b) s = .next ((s.written d (BitVec.ofNat 64 v) []).retired 0x2F)
     let status (t : State) (v : Word) : Prop := exec (.mgnreq d a b) s = .next t ∧
       t.cur = ((s.written d v []).retired 0x2F).cur
     ((s.cls core).isSome = false → gives 1) ∧
     ((s.cls core).isSome = true →
       ((op = 0 ∨ op = 1) → c.quarantined = true → gives 2) ∧
       (op = 0 → c.quarantined = false → (c.step = c.top ∨ c.acted = true) → gives 3) ∧
       (op = 0 → c.quarantined = false → c.step ≠ c.top → c.acted = false → ∃ t, status t 0 ∧ t.mem = s.mem ∧
         (t.core core).step = c.step + 1 ∧ (t.core core).top = c.top ∧ (t.core core).acted = true) ∧
       (op = 1 → c.quarantined = false → (∀ t ∈ s.all, t.core ≠ core) → c.arrivals = [] → c.refusals = [] → ∃ t, status t 0 ∧
         t.mem = s.mem ∧ (t.core core).quarantined = true ∧ (t.core core).guard = true ∧
         (t.core core).age.quar = true ∧ (t.core core).stored.quar = true) ∧
       (op = 2 → s.coreInUse core = true → gives 4) ∧
       (op = 2 → s.coreInUse core = false → s.emptied core = true → core ≠ s.cur.core → s.Inv → ∃ t v, status t v ∧
         (v = 0 ∨ v = 6) ∧ (v = 6 ↔ (t.core core).quarantined = true) ∧
         (∀ k, k < 0x100000 → readByte t.mem (windowBase core + k) = 0) ∧
         (t.core core).ready = [] ∧ (t.core core).tile = Tile.reset ∧ (t.core core).stashMaps = [] ∧
         (t.core core).counters = Vector.replicate 18 0) ∧
       (op = 3 → ∃ t v, status t v ∧ (v = 0 ∨ v = 5) ∧ t.mem = s.mem ∧
         (v = 5 → (t.core core).age.pend = c.age.pend) ∧ (v = 0 → (t.core core).age.pend.isSome = true))))

/-! ### Events -/

/-- R30, R45, R54, R120, R123, R251, R364, R366: what the events of a thread do to it: it takes a holder, gives one
up, is marked for a yield, ends its scheduler window, completes its oldest vector instruction, learns of a
store's error, and enters its handler of user-level interrupts.
R46 to R51, R261, R387: a packet is injected once the thread's state is in its save area; it arrives as a READY
thread of its core; a core's arrival buffer gives up its oldest packet; a register is loaded lazily; the counters come
back to the holder; a thread whose save is overdue is saved.
R55, R184, R369: a slot of a core goes to the only instruction of its only thread; the k-th slot of a group completes the
group's slots. -/
def Obligations.ThreadEvents : Prop :=
  (∀ (s : State), s.cur.run ≠ .done →
     let t := s.cur
     let core := s.core t.core
     let becomes (i : Instr) (u : Thread) : Prop := exec i s = .next { s with cur := u }
     (∀ r rest k, s.all.all (fun u => !(u.core == t.core && u.run == .saved && u.restoredRun)) = true →
       core.ready = r :: rest → r = t.ref → s.freeSlot t.core = some k → ∃ u, exec (.threadBind t.core) s = .next u ∧
         u.cur = { t with
           run := .run
           slot := k
           bindTime := s.dtime
           restoredRun := false
           deadline := if t.st stYIELD = true then some (s.dtime + 1000 * s.deadlineOf t.ctx) else none } ∧
         (u.core t.core).ready = rest.filter (· != r) ∧ u.threads = s.threads ∧ u.mem = s.mem) ∧
     (t.run = .waitb → core.ready ≠ [] → becomes (.waitbToWaitu t.ctx t.tid) { t with run := .waitu }) ∧
     (t.run = .run → 20000 ≤ s.dtime - t.bindTime → core.ready ≠ [] → t.st stYIELD = false →
       becomes (.yieldMark t.ctx t.tid) { t with
         tstat := t.tstat ||| 0x200
         deadline := some (s.dtime + 1000 * s.deadlineOf t.ctx) }) ∧
     (4096 ≤ t.winInstr → becomes (.schedulerWindowEnd t.ctx t.tid) { t with
       winInstr := 0
       winVec := 0
       winMat := 0
       hold := t.hold - 1
       target := if t.hold ≠ 0 then none else match s.cls t.core with
         | some .c => if 1024 ≤ t.winVec then some .v else none
         | some .v => if t.winVec < 64 then some .c else none
         | some .t => if t.winMat = 0 ∧ t.tshape.getLsbD 31 = false ∧ t.st stMSM = false then some .c else none
         | none => none }) ∧
     (∀ e, t.vq = [e] → e.left = 0 → t.mq = [] → exec (.vectorComplete t.ctx t.tid) s =
       .next { s with cur := { t with tstat := t.tstat ||| e.flags.setWidth 64, vq := [] }, free := s.free + 1 }) ∧
     (∀ e, t.vq = [] → t.mq = [e] → exec (.vectorComplete t.ctx t.tid) s =
       .next { s with cur := { t with tstat := t.tstat ||| e.flags.setWidth 64, mq := [] }, free := s.free + 1 }) ∧
     (∀ addr, becomes (.storeErrorAck t.ctx t.tid addr) { t with storeErrors := t.storeErrors ++ [addr] }) ∧
     (∀ p rest, t.pending = p :: rest → t.run = .run → t.st stUIE = true → t.st stINUI = false →
       t.st stINTRAP = false → t.latch = none → t.reissue = none → t.stall = none → ∃ u, becomes (.userInterruptEntry t.ctx t.tid) u ∧
         u = { t with
           tstat := u.tstat
           ulipc := t.pc &&& ~~~3
           pc := p.handler
           pending := rest
           xferid := BitVec.ofNat 64 (p.id.toNat + 2 ^ 32 * p.ctr.toNat) } ∧
         ∀ k, k < 64 → u.tstat.getLsbD k = if k = 12 then true else if k = 11 then !rest.isEmpty else t.tstat.getLsbD k) ∧
     (∀ d off o g m j, t.stall = some (.group d o g off m) → m[j]?.map (·.2) = some .pending →
       ∃ l, becomes (.groupMemberRequest t.ctx t.tid j) { t with stall := some (.group d o g off l) } ∧
         l.length = m.length ∧ (∀ k, k ≠ j → l[k]? = m[k]?) ∧
         (∀ q, m[j]? = some q → l[j]? = some (q.1, s.memberReply t.ctx off (tagWidth g / 8) q.1)) ∧
         (∀ q, m[j]? = some q → (q.1 = none ∨ ∃ n core, q.1 = some (n, core) ∧ s.available t.ctx n = none) →
           l[j]? = some (q.1, .absent)))) ∧
  (∀ (s s1 : State),
     let t := s.cur
     (∀ m, t.run = .transit → t.mig = some m → m.injected = false → s.messagesWait t.ref = false → s.engineBusy = false →
       t.reissue = none →
       ({ s with cur := { t with stall := none } }.disarm).saveAll = (s1, true) → ∃ u, exec (.migrationInject t.ctx t.tid) s = .next u ∧
         u.cur.run = .transit ∧ u.cur.mig = some { m with injected := true } ∧ u.cur.target = none ∧
         u.cur.saveArea = t.saveArea ∧ u.mem = s1.mem ∧ u.cur.s = s1.cur.s ∧ u.cur.v = s1.cur.v) ∧
     (∀ m, t.run = .transit → t.mig = some m → m.injected = true → (s.core m.dest).arrivals = [] → (s.core m.dest).refusals = [] →
       s.savingCtx t.ctx = false → s.serves t.ctx m.dest = true → s.vlFits t m.dest = true →
       (s.queue m.dest).length < 64 →
       State.loadBlock { s with cur := { t with
         core := m.dest
         priority := 8
         mig := none
         grantFwd := if t.grantFwd = 0 then 0 else m.fwd } } = (s1, true) →
       s1.cur.convoy.valid = false → s1.cur.wait = none → ∃ u, exec (.migrationArrival t.ctx t.tid) s = .next u ∧
         u.cur = { s1.cur.arriveLatch with run := .ready } ∧ u.cur.core = m.dest ∧ u.mem = s1.mem ∧
         (u.core m.dest).ready = (s1.core m.dest).ready.filter (· != t.ref) ++ [t.ref]) ∧
     (∀ core rest, (s.core core).arrivals = t.ref :: rest → t.run = .saved → (s.queue core).length < 64 →
       (s.core core).refusals = [] → s.serves t.ctx core = true → s.vlFits t core = true → ∃ u, exec (.arrivalBufferAdmit core) s = .next u ∧ u.cur = { t with restoredRun := true } ∧
         (u.core core).arrivals = rest.filter (· != t.ref) ∧ u.mem = s.mem) ∧
     (∀ v n, t.run = .run → (t.getV v).tag ≠ 0 → (t.getV v).resident = false → s.streaming [v] = false →
       s.cls t.core ≠ some .t →
       s.saveRead (0x1000 + 0x400 * v.toNat) (s.sliceBits t.core / 64) = (s1, some n) →
       ∃ u, exec (.vectorLazyLoad t.ctx t.tid v) s = .next u ∧ u.mem = s1.mem ∧
         u.cur.getV v = { t.getV v with bits := BitVec.ofNat 8192 (n % 2 ^ (t.getV v).bound), resident := true } ∧
         ∀ r, r ≠ v → u.cur.getV r = t.getV r) ∧
     (∀ n, t.run = .run → t.scAway = true → t.scbusy = 0 → s.saveRead 0x40 8 = (s1, some n) →
       ∃ u, exec (.countersReturn t.ctx t.tid) s = .next u ∧ u.cur.scAway = false ∧ u.mem = s1.mem ∧
         ∀ k : Fin 8, u.cur.sc[k] = BitVec.ofNat 64 (n / 2 ^ (64 * k.val)) &&& 0x1FFFFFFFFFFFF) ∧
     (∀ sv, t.run = .run → t.dying = false → (s.ctxSt t.ctx).saving = some sv → t.st stPREQ = true →
       sv.deadline ≤ s.dtime → t.reissue = none → t.stall = none → t.ref ∉ (s.core t.core).ready → s.engineBusy = false →
       s.disarm.ageMessages.saveAll = (s1, true) →
       ∃ u, exec (.preemptionDeadline t.ctx t.tid) s = .next u ∧ u.cur.run = .saved ∧ u.cur.before = some s1.cur.run ∧
         u.cur.st stPREQ = false ∧ u.cur.st stYIELD = false ∧ u.mem = s1.mem ∧ u.cur.s = s1.cur.s)) ∧
  (∀ (s : State) (e : VEntry) (k : Nat), s.threads = [] → s.cur.run = .run → s.cur.slot < 8 → s.cur.vq = [e] →
     e.slots = .each k → e.width ≠ 0 → e.requests = false → 0 < e.left → s.lanesReady s.cur.core s.cur.slot = true →
     let g := max 1 (s.groupSize s.cur.core e.width)
     ∃ u, exec (.elementGroupGrant s.cur.core) s = .next u ∧ u.mem = s.mem ∧
       u.cur = { s.cur with vq := [if e.taken + 1 < k then { e with taken := e.taken + 1 } else
         { e with taken := 0, left := e.left - (g - (e.vl - e.left) % g) }] } ∧
       (u.core s.cur.core).counters[6] = (s.core s.cur.core).counters[6] + 1)

/-- R33, R35, R359 to R361, R412: tokens enter their unit's queue, start a launch of their handler or become dead; the
record window gives up the oldest dead token; a launch is performed or rejected; its threads enter run
queues one by one. -/
def Obligations.LaunchEvents : Prop :=
  ∀ (s : State) (u : Nat) (src : BitVec 16) (tok : BitVec 512), u < 2 →
    let x := s.unit u
    let t : Token := { tok := tok, time := BitVec.ofNat 64 s.dtime, src := src, whole := true }
    (x.refused = [] → x.tokens.length < 256 → ∃ v : State, exec (.workToken u src true tok) s = .next v ∧
      v = s.setUnit u { x with tokens := x.tokens ++ [t] }) ∧
    (x.tokens.length = 256 → ∃ v : State, exec (.workToken u src true tok) s = .next v ∧
      v = s.setUnit u { x with refused := x.refused ++ [t] }) ∧
    (x.dead.length < 64 → ∃ (v : State) (r : BitVec 1024), exec (.workToken u src false tok) s = .next v ∧
      v = s.setUnit u { x with count := x.count + 1, dead := x.dead ++ [r] } ∧
      r.setWidth 512 = tok ∧ r.toNat / 2 ^ 592 % 2 ^ 8 = 4) ∧
    (∀ q rest, x.tokens = q :: rest → x.refused = [] → x.dead.length < 64 →
      let ctx := q.tok.toNat / 2 ^ 12 % 2 ^ 12
      let h := x.entry.getD (s.table 4 ctx (q.tok.toNat % 2 ^ 12) 0)
      let field (lo : Nat) : Nat := q.tok.toNat / 2 ^ lo % 2 ^ 64
      s.inactive ctx = false →
      (q.tok.toNat / 2 ^ 24 % 2 ^ 8 = 0 → tvalid (s.descr ctx) = true → tvalid h = true → x.full = false →
        ∃ (v : State) (l : Launch), exec (.tokenDispatch u) s = .next v ∧ (v.unit u).tokens = rest ∧
          (v.unit u).queue = x.queue ++ [{ launch := l, source := .token q (tfield h 2 2) (tfield h 4 1), started := false,
                                           inserted := 0, cores := [], tpc := 1 }] ∧
          l.ctx = ctx ∧ l.num = (s.ctxSt ctx).nextLaunch ∧
          l.n = (if q.tok.toNat / 2 ^ 32 % 2 ^ 32 = 0 then tfield h 8 3 + 1 else q.tok.toNat / 2 ^ 32 % 2 ^ 32) ∧
          l.arg = BitVec.ofNat 64 (if field 64 = 0 then tfield h 0x10 8 else field 64) ∧
          l.compVa = BitVec.ofNat 64 (if field 128 = 0 then tfield h 0x18 8 else field 128)) ∧
      (q.tok.toNat / 2 ^ 24 % 2 ^ 8 = 0 → tvalid (s.descr ctx) = true → tvalid h = true → x.full = true →
        exec (.tokenDispatch u) s = .next (s.setUnit u { x with entry := some h })) ∧
      ((q.tok.toNat / 2 ^ 24 % 2 ^ 8 ≠ 0 ∨ tvalid (s.descr ctx) = false ∨ tvalid h = false) →
        ∃ (v : State) (r : BitVec 1024), exec (.tokenDispatch u) s = .next v ∧ (v.unit u).tokens = rest ∧ (v.unit u).dead = x.dead ++ [r] ∧
          (v.unit u).count = x.count + 1 ∧ r.setWidth 512 = q.tok ∧ r.toNat / 2 ^ 592 % 2 ^ 8 = 1 ∧
          r.toNat / 2 ^ 640 % 2 ^ 16 = tfield h 2 2)) ∧
    (∃ v : State, exec (.deadTokenRecordRead u) s = .next v ∧
      v = s.setUnit u { x with latched := x.dead.headD 0, dead := x.dead.tail }) ∧
    (∀ r rest l p, x.queue = r :: rest → r.started = false → s.inactive r.launch.ctx = false →
      (∀ a b c, r.source ≠ .token a b c) →
      let s0 := s.storeAt 12 { pa := r.launch.comp, attr := 0 } 8 0
      (∀ err, s0.plan r.launch (s0.kernelSlot r.launch.ctx r.launch.entry.toNat) = .error err →
        ∃ v : State, exec (.launchPerform u) s = .next v ∧
          v = State.dropLaunch (s0.storeAt 12 { pa := r.launch.comp, attr := 0 } 8 (2 ^ 63 + err * 2 ^ 40)) u r err) ∧
      (s0.plan r.launch (s0.kernelSlot r.launch.ctx r.launch.entry.toNat) = .ok (l, p) →
        ∃ v : State, exec (.launchPerform u) s = .next v ∧ v.mem = s0.mem ∧ v.launches = s0.launches ++ [l] ∧
          v.domains = s0.domains ++ l.domainRecords ∧
          (v.unit u).queue = { r with launch := l, started := true, cores := p.cores, tpc := p.tpc } :: rest)) ∧
    (∀ r rest c core, x.queue = r :: rest → r.started = true → s.inactive r.launch.ctx = false →
      r.cores[r.inserted / r.tpc]? = some c → s.homeFor r.launch.ctx c = some core → (s.queue core).length < 56 →
      (s.core core).arrivals = [] → (s.core core).refusals = [] →
      ∃ (v : State) (t : Thread), exec (.launchQueueInsert u) s = .next v ∧ v.threads = s.threads ++ [t] ∧
        v.mem = s.mem ∧ t.ctx = r.launch.ctx ∧ t.core = core ∧ t.run = .ready ∧ t.pc = r.launch.entry ∧
        t.index = r.inserted ∧ t.launch = r.launch.num ∧ t.getS 1 = BitVec.ofNat 64 r.inserted ∧
        t.getS 2 = BitVec.ofNat 64 r.launch.n ∧ t.getS 3 = r.launch.arg ∧ t.getS 4 = r.launch.num.setWidth 64 ∧
        (∀ k : BitVec 5, k = 0 ∨ 4 < k.toNat → t.getS k = 0) ∧ t.poison = 0 ∧
        t.saveArea = r.launch.save + BitVec.ofNat 64 (0x20000 * r.inserted) ∧
        (v.core core).ready = (s.core core).ready.filter (· != t.ref) ++ [t.ref])

/-- R370, R374, R383, R402: a free stream engine starts a command; an element of a copy lands and counts; a collective sees a
rank ready, and copies its shard; a message at its destination enters the ring, or is refused and offered
again.
R293, R295: a page walk fills the translation caches of the cores that wait for its page and changes no memory; a line that a
die evicts is in none of its caches, its die-private dirty bytes read back from memory and its other dirty sectors are
in the hub slice; one that the hub evicts is in memory itself.
R478 to R480: a frame out of order, damaged or without room gets a negative acknowledgement; a frame in order advances its
channel, and what it carries is accepted once; a frame refused is sent again, with every later one of its channel, at most
three times, and then its link fails, as after 10 µs of silence; the messages of a failed link stay in their retry
buffers. What a request frame holds and how links are numbered is the model's choice (log entry 2). -/
def Obligations.TransferEvents : Prop :=
  (∀ (s : State) (core : Nat),
     let c := s.core core
     (∀ x, c.xfer = none → c.streamQ = [x] → s.saveWaits core = false →
       ((∀ a b d e f g h i j k l m n, x.kind ≠ .coll a b d e f g h i j k l m n) →
         exec (.streamTransferStart core) s = .next (s.setCore core { c with streamQ := [], xfer := some x })) ∧
       (∀ op tag red n p r send ready recv flags seq seen copied place,
         x.kind = .coll op tag red n p r send ready recv flags seq seen copied → ready[r]? = some place → s.Inv →
         s.plainAt place = true → ∃ u, exec (.streamTransferStart core) s = .next u ∧
           readNat u.mem place.pa 8 = seq.toNat ∧ s.sameBytesBut u place.pa 8 ∧ (u.core core).streamQ = [] ∧
           (u.core core).xfer = some x)) ∧
     (s.saveWaits core = true → exec (.streamTransferStart core) s = .next s) ∧
     (∀ x e src dst p q, c.xfer = some x → x.kind = .copy src dst → e < x.count → e ∉ x.landed →
       x.landed.length + 1 < x.count → src[e]? = some p → dst[e]? = some q → s.Inv → s.monitors = [] →
       s.plainAt p = true → s.region q.pa = .hbm → p.attr = 0 → q.attr = 0 → s.badRange p.pa x.bytes = false →
       s.storeLost q.pa x.bytes = false →
       x.ref = s.cur.ref → s.cur.run = .run → s.cur.scAway = false → s.cur.wait = none →
       ∃ u, exec (.streamElementLanding core e) s = .next u ∧
         readNat u.mem q.pa x.bytes = readNat s.mem p.pa x.bytes ∧ s.sameBytesBut u q.pa x.bytes ∧
         (u.core core).xfer = some { x with landed := e :: x.landed } ∧
         u.cur.sc[x.ctr.toNat]?.getD 0 = scWord (scCount (s.cur.sc[x.ctr.toNat]?.getD 0) + 1)
           (min 0xFFFE (leading (e :: x.landed) 0 x.count)) true) ∧
     (∀ x op tag red n p r send ready recv flags seq seen copied q place, c.xfer = some x →
       x.kind = .coll op tag red n p r send ready recv flags seq seen copied → ready[q]? = some place → q ∉ seen →
       s.badRange place.pa 8 = false → s.plainAt place = true →
       (readNat s.mem place.pa 8 = seq.toNat → ∃ u, exec (.collReadyPoll core q) s = .next u ∧ u.mem = s.mem ∧
         u.cur = s.cur ∧ (u.core core).xfer =
           some { x with kind := .coll op tag red n p r send ready recv flags seq (q :: seen) copied }) ∧
       (readNat s.mem place.pa 8 ≠ seq.toNat → ∃ u, exec (.collReadyPoll core q) s = .next u ∧ u.mem = s.mem ∧
         u.cur = s.cur ∧ (u.core core).xfer = some x)) ∧
     (∀ x tag red n p r send ready recv seq seen copied q, c.xfer = some x → 0 < n → q < p →
       x.kind = .coll 0 tag red n p r send ready recv [] seq seen copied → collTurn x (q * n) = true → q ∉ copied →
       exec (.collShardCopy core q) s = .next ((s.setCore core { c with
         xfer := some { x with kind := .coll 0 tag red n p r send ready recv [] seq seen (q :: copied) } }).landColl core
           (q * n) n).1) ∧
     (∀ x tag red p r send ready recv flags seq seen copied q src dst flag, c.xfer = some x → q < p → q ∈ seen →
       q ∉ copied → (q = r ∨ r ∈ copied) →
       ((rankOrder p r).filter fun k => seen.contains k && !copied.contains k).head? = some q →
       x.kind = .coll 0 tag red 1 p r send ready recv flags seq seen copied → x.bytes = tagWidth tag / 8 →
       q ∉ x.landed → x.landed.length + 1 < x.count → send[q]? = some src → recv[q]? = some dst → flags[q]? = some flag →
       s.Inv → s.monitors = [] → x.ref = s.cur.ref → s.cur.run = .run → s.cur.scAway = false → s.cur.wait = none →
       s.plainAt src = true → src.attr = 0 → s.badRange src.pa x.bytes = false →
       s.region dst.pa = .hbm → dst.attr = 0 → s.region flag.pa = .hbm → flag.attr = 0 →
       ∃ u, exec (.collShardCopy core q) s = .next u ∧ readNat u.mem flag.pa 8 = 1 ∧
         (flag.pa + 8 ≤ dst.pa ∨ dst.pa + x.bytes ≤ flag.pa →
           readNat u.mem dst.pa x.bytes = readNat s.mem src.pa x.bytes) ∧
         (∀ a, (a < dst.pa ∨ dst.pa + x.bytes ≤ a) → (a < flag.pa ∨ flag.pa + 8 ≤ a) →
           readByte u.mem a = readByte s.mem a) ∧
         (u.core core).xfer = some { x with
           kind := .coll 0 tag red 1 p r send ready recv flags seq seen (q :: copied), landed := q :: x.landed }) ∧
     (∀ cls m e, s.retryOf core cls = [m] → m.cls ≠ 3 → m.dstPkg = s.manifest.package →
       (∀ f ∈ s.links.frames, f.carries core m = false) → (∀ h, s.frameRoom h = true) →
       (s.route (dieOf core) (dieOf m.dstCore) 2).isSome = true → (s.die (dieOf core)).cut = false →
       (s.die (dieOf m.dstCore)).cut = false → s.channel m.dstCtx m.chan = some e →
       e.cls = m.cls → s.corePhys m.dstCtx e.dlcore = some m.dstCore → e.ring + 288 * e.slots ≤ s.localBytes m.dstCore →
       (s.ctxSt m.dstCtx).isSaved = false →
       let r := s.ring m.dstCtx m.chan
       let i : List Instr := if m.refused = true then [.retryOffer core cls, .messageDelivery core cls 0] else
         [.messageDelivery core cls 0]
       (e.slots ≤ r.held → ∀ j ∈ i, ∃ u, exec j s = .next u ∧ u.mem = s.mem ∧
         u.retryOf core cls = [{ m with refused := true }]) ∧
       (r.held < e.slots → s.recvWaiters = [] → s.feWaiters = [] → s.monitors = [] → s.Inv → 0 < e.slots →
         let base := windowBase m.dstCore + e.ring + 288 * ((r.first + r.held) % e.slots)
         ∀ j ∈ i, ∃ u, exec j s = .next u ∧ (u.ring m.dstCtx m.chan).held = r.held + 1 ∧ s.sameBytesBut u base 288 ∧
           readNat u.mem base 32 = m.header % 2 ^ 256 ∧ readNat u.mem (base + 32) 256 = m.data.toNat ∧
           u.retryOf core cls = []))) ∧
  (∀ (s : State) (die line ctx page : Nat),
     ((s.die die).walking.contains (ctx, page) = true → (s.cores.map (·.1)).Nodup →
       (∀ core, ∀ q ∈ (s.core core).misses, q.core = core) →
       let here (q : WalkReq) : Prop := q.ctx = ctx ∧ q.page = page
       let walked (q : WalkReq) := TlbEntry.granting q.read q.write
         (s.walk ctx (page * 0x10000) walkLevels (tfield (s.descr ctx) 0x10 8))
       ∃ u, exec (.pageWalkComplete die ctx page) s = .next u ∧ u.mem = s.mem ∧ u.cur = s.cur ∧
         (ctx, page) ∉ (u.die die).walks ∧
         (∀ core, dieOf core = die → ∀ q ∈ (s.core core).misses, here q →
           q ∉ (u.core core).misses ∧
           ∀ e, walked q = .ok e → e ∈ (u.core core).tlb ∧ e ∈ (u.die die).tcache) ∧
         (∀ core, (∀ q ∈ (s.core core).misses, here q → ∃ k, walked q = .error k) →
           (u.core core).tlb = (s.core core).tlb)) ∧
     ((s.die die).walking.contains (ctx, page) = false → exec (.pageWalkComplete die ctx page) s = .next s) ∧
     (die < 12 → s.watched (line * 256) 256 = false → ∃ u, exec (.cacheEviction die line) s = .next u ∧ u.cur = s.cur ∧
       u.priv die line = none ∧ lineIn (u.die die).l2 line = none ∧
       (∀ core, dieOf core = die → lineIn (u.core core).l1 line = none) ∧
       (s.Inv → ∀ p, s.priv die line = some p → ∀ o, o < 256 → p.dirty.getLsbD o = true →
         readByte u.mem (line * 256 + o) = p.byte o) ∧
       (s.Inv → ∀ a, (∀ p, s.priv die line = some p → a / 256 = line → p.dirty.getLsbD (a % 256) = false) →
         readByte u.mem a = readByte s.mem a) ∧
       (∀ x, lineIn (s.die die).l2 line = some x → x.dirty ≠ 0 → ∃ y, lineIn u.hub line = some y ∧
         ∀ k, x.dirty.getLsbD k = true → y.valid.getLsbD k = true ∧ y.dirty.getLsbD k = true)) ∧
     (12 ≤ die → ∃ u, exec (.cacheEviction die line) s = .next u ∧ u.cur = s.cur ∧ u.mem = s.mem ∧
       lineIn u.hub line = none ∧
       (∀ y a, lineIn s.hub line = some y → a / 256 = line → y.dirty.getLsbD (a % 256 / 32) = true → s.Inv →
         readByte u.flatMem a = readByte s.mem a))) ∧
  (∀ (s : State) (link seq : Nat) (chan : BitVec 2) (crc room : Bool) (msg : BitVec 2304), link < 44 →
     let x := s.links
     let next := (lookup x.rxNext (link, chan.toNat)).getD 0
     let got := { s with links := { x with rxNext := assign x.rxNext (link, chan.toNat) (next + 1) } }
     let m := s.msgOfFrame msg.toNat
     let request : Nat × Nat × Nat × Word := (msg.toNat / 2 ^ 96 % 2 ^ 16 * 65536 + msg.toNat / 2 ^ 80 % 2 ^ 16,
       0x20000, 4, BitVec.ofNat 64 (msg.toNat / 2 ^ 128 % 2 ^ 64))
     (s.linkUp link = false → exec (.linkFrameReceive link chan seq crc room msg) s = .next s ∧
       exec (.linkFailure link) s = .next s) ∧
     (s.linkUp link = true →
       (next ≤ seq → (crc = false ∨ room = false ∨ seq ≠ next) →
         exec (.linkFrameReceive link chan seq crc room msg) s =
           .next { s with links := { x with naks := x.naks ++ [(link, chan.toNat, seq)] } }) ∧
       (seq < next → exec (.linkFrameReceive link chan seq crc room msg) s = .next s) ∧
       (seq = next → crc = true → room = true →
         (chan = 1 → exec (.linkFrameReceive link chan seq crc room msg) s = .next got) ∧
         (chan = 0 → msg.getLsbD 72 = false → exec (.linkFrameReceive link chan seq crc room msg) s = .next got) ∧
         (chan = 0 → x.accepted.contains request = true →
           exec (.linkFrameReceive link chan seq crc room msg) s = .next got) ∧
         (chan = 0 → msg.getLsbD 72 = true → x.accepted.contains request = false → s.Inv →
           let pa := msg.toNat % 2 ^ 42
           let n := min 32 (msg.toNat / 2 ^ 64 % 2 ^ 8)
           (s.region pa = .hbm ∨ s.region pa = .cxl) →
           ∃ u, exec (.linkFrameReceive link chan seq crc room msg) s = .next u ∧
             u.links = { got.links with accepted := request :: x.accepted } ∧
             readNat u.mem pa n = msg.toNat / 2 ^ 256 % 2 ^ (8 * n) ∧ s.sameBytesBut u pa n) ∧
         (2 ≤ chan.toNat → m.dstPkg = s.manifest.package → x.accepted.contains m.once = true →
           exec (.linkFrameReceive link chan seq crc room msg) s = .next got) ∧
         (2 ≤ chan.toNat → m.dstPkg = s.manifest.package → x.accepted.contains m.once = false → m.cls = 3 →
           (s.unit m.unit).refused = [] → (s.unit m.unit).tokens.length < 256 →
           ∃ u t, exec (.linkFrameReceive link chan seq crc room msg) s = .next u ∧
             u.links = { got.links with accepted := m.once :: x.accepted } ∧
             (u.unit m.unit).tokens = (s.unit m.unit).tokens ++ [t] ∧ t.tok = m.data.setWidth 512 ∧
             t.time = BitVec.ofNat 64 s.dtime) ∧
         (∀ e, 2 ≤ chan.toNat → m.dstPkg = s.manifest.package → x.accepted.contains m.once = false → m.cls ≠ 3 →
           s.channel m.dstCtx m.chan = some e → e.cls = m.cls → s.corePhys m.dstCtx e.dlcore = some m.dstCore →
           e.ring + 288 * e.slots ≤ s.localBytes m.dstCore →
           ((s.ctxSt m.dstCtx).isSaved = true ∨ e.slots ≤ (s.ring m.dstCtx m.chan).held) →
           exec (.linkFrameReceive link chan seq crc room msg) s =
             .next { s with links := { x with naks := x.naks ++ [(link, chan.toNat, seq)] } }) ∧
         (2 ≤ chan.toNat → m.dstPkg ≠ s.manifest.package →
           (∀ q ∈ (s.core hubCore).retry, (s.path hubCore q).isSome = true) →
           ∃ u, exec (.linkFrameReceive link chan seq crc room msg) s = .next u ∧ u.links.rxNext = got.links.rxNext ∧
             ((s.path hubCore m).isSome = true → u.links = got.links ∧
               (u.core hubCore).retry = (s.core hubCore).retry ++ [m]) ∧
             (s.path hubCore m = none → (u.core hubCore).retry = (s.core hubCore).retry ∧
               u.links.returned = x.returned ++ [m.once])))) ∧
     (∀ f, (x.frames.find? fun (g : Frame) => g.link == link && g.chan == chan && g.seq == seq) = some f →
       (f.resends < 3 → ∃ u, exec (.linkNak link chan seq) s = .next u ∧
         u = { s with links := { x with frames := u.links.frames } } ∧
         u.links.frames.length = x.frames.length ∧
         ∀ (k : Nat) (g : Frame), x.frames[k]? = some g → u.links.frames[k]? = some
           (if g.link = link ∧ g.chan = chan ∧ g.dest = f.dest ∧ seq ≤ g.seq then
             { g with sent := s.dtime, resends := if g.seq = seq then g.resends + 1 else g.resends } else g)) ∧
       (3 ≤ f.resends → exec (.linkNak link chan seq) s = .next (s.failLink link))) ∧
     (∀ f ∈ x.frames, f.link = link → f.sent + 10000 ≤ s.dtime → (lookup x.acked link).getD 0 + 10000 ≤ s.dtime →
       exec (.linkAckTimeout link) s = .next (s.failLink link)) ∧
     ((s.dtime < (lookup x.acked link).getD 0 + 10000 ∨ ∀ f ∈ x.frames, f.link = link → s.dtime < f.sent + 10000) →
       exec (.linkAckTimeout link) s = .next s) ∧
     ((x.frames.find? fun g => g.link == link && g.chan == chan && g.seq == seq) = none →
       exec (.linkNak link chan seq) s = .next s) ∧
     ((link < 16 ∨ 40 ≤ link) → s.linkUp link = true → (List.range 12).all (fun d => s.linkUp (16 + d)) = true →
       ∃ u, exec (.linkFailure link) s = .next u ∧ u.linkUp link = false ∧ u.mem = s.mem ∧ u.cur = s.cur ∧
         (∀ f ∈ u.links.frames, f.link ≠ link) ∧
         (∀ core, core ≠ hubCore → (u.core core).retry = (s.core core).retry) ∧
         (40 ≤ link → (u.die (link - 27)).cut = true ∧ ∀ k, k < 4 → u.linkUp (4 * (link - 40) + k) = false)))

/-- R428 to R441: the replays of n units of a cycle count, and open a guarded window; beyond 16 in a window the step goes up; a window
starts at 0; a guarded window ends except on a quarantined core; a plan follows a rise of RODLY of 2 %;
the counters go to flash; an empty core is reset, and a core with something on it is not.
R372, R450: an idle lane group powers down and holds for 200 ns; an element group that needs it wakes it: a wake in the
first 40 ns cancels the power-down, and a later one joins the in-rush queue of its die, which serves at most 4 requests at a 100 ns boundary. -/
def Obligations.CoreEvents : Prop :=
  (∀ (s : State) (core n : Nat) (rodly : BitVec 32), (s.cls core).isSome = true →
     let c := s.core core
     let win : BitVec 16 := BitVec.ofNat 16 (min 0xFFFF (c.rplWin.toNat + n))
     ((c.guard = true ∨ n = 0) → exec (.lateTransitionReplay (core, n)) s = .next s) ∧
     (c.guard = false → 0 < n → (win.toNat < 17 ∨ c.acted = true) →
       ∃ u, exec (.lateTransitionReplay (core, n)) s = .next u ∧ u.mem = s.mem ∧
       u.core core = { c with
         guard := true
         rplTotal := c.rplTotal + BitVec.ofNat 32 n
         rplWin := win
         age := { c.age with
           rplLife := c.age.rplLife + BitVec.ofNat 64 n
           winmax := if c.age.winmax < win then win else c.age.winmax } }) ∧
     (c.guard = false → 17 ≤ win.toNat → c.acted = false → c.step < c.top →
       ∃ u, exec (.lateTransitionReplay (core, n)) s = .next u ∧ (u.core core).step = c.step + 1 ∧
         (u.core core).acted = true ∧ (u.core core).guard = true ∧
         (u.core core).rplTotal = c.rplTotal + BitVec.ofNat 32 n ∧ u.mem = s.mem) ∧
     exec (.replayWindowStart core) s = .next (s.setCore core { c with rplWin := 0, acted := false }) ∧
     exec (.guardWindowExpire core) s = .next (s.setCore core { c with guard := c.quarantined }) ∧
     (∀ ok, ∃ u, exec (.ageingMeasure core rodly ok) s = .next u ∧ (u.core core).age.rodly = rodly ∧ u.mem = s.mem ∧
       (c.age.unread = false → rodly.toNat * 100 < c.age.plan.rodly.toNat * 102 → (u.core core).age.pend = c.age.pend) ∧
       (ok = true → c.age.plan.rodly.toNat * 102 ≤ rodly.toNat * 100 → (u.core core).age.pend.isSome = true)) ∧
     (∃ u, exec (.ageingWriteback core) s = .next u ∧ u.mem = s.mem ∧
       (c.age.unread = false → (u.core core).stored = (u.core core).age) ∧
       (c.age.unread = true → (u.core core).stored =
         { c.stored with rplLife := (u.core core).age.rplLife, poh := (u.core core).age.poh }) ∧
       (u.core core).age = { c.age with
         poh := c.age.poh + BitVec.ofNat 64 ((s.dtime - c.age.pohSince) / 10 ^ 9)
         pohSince := c.age.pohSince + (s.dtime - c.age.pohSince) / 10 ^ 9 * 10 ^ 9 }) ∧
     (s.emptied core = false → exec (.coreReset core) s = .next s) ∧
     (s.emptied core = true → s.Inv → ∃ u, exec (.coreReset core) s = .next u ∧ u.cur = s.cur ∧
       (∀ k, k < 0x100000 → readByte u.mem (windowBase core + k) = 0) ∧ (u.core core).tlb = [] ∧
       (u.core core).icache = [] ∧ (u.core core).counters = Vector.replicate 18 0 ∧ (u.core core).rplTotal = 0 ∧
       (u.core core).guard = (u.core core).quarantined ∧
       let a := (u.core core).age
       (u.core core).quarantined = a.quar ∧ (u.core core).step = a.plan.start ∧ (u.core core).top = a.plan.top ∧
       (a.unread = true → a.plan.start = 15 ∧ a.plan.top = 15 ∧ a.rev = 0 ∧ a.pend = none ∧
         u.ageing core 1 = 0 ∧ (u.core core).stored = c.stored) ∧
       (a.unread = false → (u.core core).stored = a ∧
         (∀ p, c.stored.pend = some p → a.plan = p ∧ a.rev = c.stored.rev + 1 ∧ a.pend = none ∧ a.quar = p.retire) ∧
         (c.stored.pend = none → a.plan = c.stored.plan ∧ a.rev = c.stored.rev ∧ a.quar = c.stored.plan.retire)))) ∧
  (∀ (s : State) (core lg : Nat), s.cls core = some .v → lg < 4 →
     let l := s.lane core lg
     let die := dieOf core
     (l = .active → s.laneIdle core lg = true → s.lanesDown die < 112 → ∃ u, exec (.laneGroupPowerDown core lg) s = .next u ∧
       u.lane core lg = .hold s.dtime false ∧ (u.core core).counters[11] = (s.core core).counters[11] + 1) ∧
     (∀ since, l = .hold since false → since + 200 ≤ s.dtime →
       exec (.breakEvenHoldEnd core lg) s = .next (s.setLane core lg .down)) ∧
     (∀ since, l = .hold since true → since + 200 ≤ s.dtime → ∃ u, exec (.breakEvenHoldEnd core lg) s = .next u ∧
       u.lane core lg = .queued ∧ (u.die die).inrush = (s.die die).inrush ++ [(core, lg)]) ∧
     (s.laneNeeded core lg = false → exec (.laneGroupWake core lg) s = .next s) ∧
     (∀ since, l = .hold since false → s.laneNeeded core lg = true → ∃ u, exec (.laneGroupWake core lg) s = .next u ∧
       u.lane core lg = (if s.dtime < since + 40 then .active else .hold since true) ∧
       (u.core core).counters[12] = (s.core core).counters[12] + 1) ∧
     (l = .down → s.laneNeeded core lg = true → ∃ u, exec (.laneGroupWake core lg) s = .next u ∧ u.lane core lg = .queued ∧
       (u.die die).inrush = (s.die die).inrush ++ [(core, lg)]) ∧
     (s.dtime % 100 = 0 → s.servedAt die (s.dtime + 100) = 0 → (s.die die).inrush = [(core, lg)] →
       ∃ u, exec (.inrushService die) s = .next u ∧ (u.die die).inrush = [] ∧
         u.lane core lg = .waking (s.dtime + 100)) ∧
     (s.dtime % 100 ≠ 0 → exec (.inrushService die) s = .next s))

/-- R443, R444: a die lends what its holding has above its demand, from its own units, and no more than the borrower lacks;
the borrower counts a granted loan until 10 µs before it expires, a renewal moves that by 1 ms, and at the expiry the
units are the lender's again.
R445 to R447, R451: the power manager caps a cluster's clock; the current cap is the highest step at which the cluster's
draw fits; an alarm slows every cluster to 450 MHz, and 1 ms after the last alarm is clear fast throttle ends, with a
settle of 2 µs.
R279, R300, R405, R485 to R488: power-up, a warm reset and a loss of power leave no thread and no context; the
directory, flash and what lies outside the package keep their contents, and a warm reset keeps device time. Where the
firmware and the manifest in flash verify, that manifest is in force and HBM reads zero; otherwise recovery runs on both
C-dies, HBM keeps its bytes, and no plan is loaded. A firmware update that a loss of power interrupts has written a part of
the image, if any (how much is the model's choice, log entry 34; that the manifest's allocations count for its verification
is DEDUCED, log entry 41; the predictions behind a load-store level are the model's choice, log entry 41). -/
def Obligations.PowerEvents : Prop :=
  (∀ (s : State) (lender borrower units interval k : Nat) (b : Bool),
     (lender < 17 → borrower < 17 → lender ≠ borrower →
       let f := s.budget lender b
       let n := min (min units (s.short borrower b)) (s.surplus lender b)
       ((n = 0 ∨ s.reachesLender borrower lender b = false ∨ (s.die lender).cut = true ∨ (s.die borrower).cut = true) →
         exec (.loanRequest lender borrower units interval b) s = .next s) ∧
       (0 < n → interval ≤ s.dtime / 10000 → s.reachesLender borrower lender b = true → (s.die lender).cut = false → (s.die borrower).cut = false →
         (∀ q, lookup (s.die lender).served b = some q → q.1 = interval → q.2 ≤ borrower) →
         ∃ (u : State) (l : Loan), exec (.loanRequest lender borrower units interval b) s = .next u ∧ u.loans = s.loans ++ [l] ∧
         (∀ m ∈ s.loans, m.id ≠ l.id) ∧ l.lender = lender ∧ l.borrower = borrower ∧ l.units = n ∧ l.sustained = b ∧
         l.counted = false ∧ l.expiry = s.dtime + 1000000 ∧
         u.budget lender b = { f with lent := f.lent + BitVec.ofNat 16 n })) ∧
     (∀ l, s.loans = [l] → l.id = k →
       let f := s.budget l.borrower l.sustained
       let n := BitVec.ofNat 16 l.units
       (l.granted = false → s.dtime + 10000 < l.expiry → ∃ u, exec (.loanGrant k) s = .next u ∧
         u.loans = [{ l with granted := true, counted := true }] ∧
         u.budget l.borrower l.sustained = { f with borr := f.borr + n }) ∧
       (l.counted = true → s.dtime + 10000 < l.expiry → (s.die l.lender).cut = false → (s.die l.borrower).cut = false →
         s.sideband l.borrower l.lender = true →
         exec (.loanRenewal k true) s = .next { s with loans := [{ l with expiry := s.dtime + 1000000, renewed := true }] } ∧
         exec (.loanRenewal k false) s = .next s) ∧
       (l.counted = true → l.expiry ≤ s.dtime + 10000 → ∃ u, exec (.loanStopCount k) s = .next u ∧
         u.loans = [{ l with granted := true, counted := false }] ∧
         u.budget l.borrower l.sustained = { f with borr := f.borr - n }) ∧
       (l.counted = false → l.expiry ≤ s.dtime → ∃ u, exec (.loanExpiry k) s = .next u ∧ u.loans = [] ∧
         u.budget l.lender l.sustained =
           { s.budget l.lender l.sustained with lent := (s.budget l.lender l.sustained).lent - n }))) ∧
  (∀ (s : State) (die cluster thermal activity level : Nat) (src : BitVec 2),
     let th := s.throttle
     let q := (die, cluster)
     (s.dtime % 10000 = 0 → cluster < clustersOn s.blend die → s.domains = [] → s.boosts = [] → s.manifest.boost = none →
       let s1 := s.measured q (min 1000 activity)
       ∃ u, exec (.powerControlInterval die cluster thermal activity level) s = .next u ∧ u.mem = s.mem ∧
         let c := u.cluster q
         c.mhz = (if th.active = true ∨ (∃ e, th.settle = some e ∧ s.dtime < e) then 450 else
           min 1800 (min (max 450 (min 2200 (thermal / 50 * 50))) (s1.currentCap q))) ∧
         c.lvl = s1.loadLevel q c.mhz level ∧ c.activity = min 1000 activity ∧ c.nsBase = s.dtime ∧
         c.cycBase = (s.cluster q).cycles s.dtime) ∧
     (s.dtime % 10000 = 0 → die < 17 → cluster = clustersOn s.blend die →
       ∃ u, exec (.powerControlInterval die cluster thermal activity level) s = .next u ∧ u.mem = s.mem ∧
         (u.die die).activity = min 1000 activity ∧ u.clusters = s.clusters) ∧
     (let limit := if s.overSustained die then min (s.budget die false).holding (s.budget die true).holding
        else (s.budget die false).holding
      let fits (mhz : Nat) : Prop := s.dieDraw die - s.clusterDraw q +
        drawRate (Config.dieClass s.blend die) * (s.cluster q).activity * mhz ≤ limit * powerUnit
      let f := s.currentCap q
      f % 50 = 0 ∧ 450 ≤ f ∧ f ≤ 2200 ∧ (f = 450 ∨ fits f) ∧ ∀ g, g % 50 = 0 → f < g → g ≤ 2200 → ¬fits g) ∧
     (∀ mhz, let rate := drawRate (Config.dieClass s.blend die) * (s.cluster q).activity * mhz
       let fits (share : Nat) : Prop :=
         256 * (s.dieDraw die - s.clusterDraw q) + rate * share ≤ s.drawLimit die * powerUnit * 256
       let l := s.loadLevel q mhz level
       (l = 0 ↔ fits 256) ∧ (l = 1 → ¬fits 256 ∧ fits (level % 256)) ∧
       (l = 2 → ¬fits 256 ∧ ¬fits (level % 256) ∧ fits (level / 256 % 256)) ∧
       (l = 3 → ¬fits 256 ∧ ¬fits (level % 256) ∧ ¬fits (level / 256 % 256))) ∧
     (∃ u, exec (.fastThrottleAlarm src) s = .next u ∧ u.throttle.active = true ∧ u.throttle.settle = none ∧
       u.throttle.alarms.getLsbD src.toNat = true ∧ u.mem = s.mem ∧
       (th.active = false → ∀ d k, d < 12 → k < clustersOn s.blend d → (u.cluster (d, k)).mhz = 450)) ∧
     (src ≠ 3 → ∃ u, exec (.fastThrottleAlarmClear src) s = .next u ∧ u.throttle.alarms.getLsbD src.toNat = false ∧
       (∀ k, k ≠ src.toNat → u.throttle.alarms.getLsbD k = th.alarms.getLsbD k) ∧ u.throttle.active = th.active ∧
       (u.throttle.alarms = 0 → th.alarms ≠ 0 → u.throttle.clearSince = s.dtime)) ∧
     exec (.fastThrottleAlarmClear 3) s = .next s ∧
     (th.active = true → th.alarms = 0 → th.clearSince + 1000000 ≤ s.dtime →
       ∃ u, exec .fastThrottleRelease s = .next u ∧
         u.throttle = { th with active := false, settle := some (s.dtime + 2000) } ∧ u.clusters = s.clusters) ∧
     (∀ e, th.settle = some e → e ≤ s.dtime →
       exec .throttleSettleEnd s = .next { s with throttle := { th with settle := none } })) ∧
  (∀ (s : State), s.Inv →
     let emptied (t : State) (now : Nat) (m : Manifest) : Prop :=
       t.all = [] ∧ t.launches = [] ∧ t.monitors = [] ∧ t.full = [] ∧ t.manifest = m ∧ t.blend = m.blend ∧ t.systvec = 0 ∧
       t.pdefault = 50 ∧ t.devfeat = 0x7F ∧ t.inputs = s.inputs ∧ t.dtime = now ∧
       ∀ tb c k w, t.table tb c k w = if tb = 9 then s.table tb c k w else 0
     let outside (t : State) : Prop := s.behind = [] → ∀ a, readByte t.mem a = match s.region a with
       | .cxl | .fabric _ _ => readByte s.mem a
       | _ => 0
     let flashPlans (t : State) : Prop := ∀ e ∈ s.cores, (s.cores.map (·.1)).Nodup →
       (t.core e.1).stored = e.2.stored ∧ (t.core e.1).age = e.2.stored
     let boots (t : State) (now : Nat) : Prop := t.flash = s.flash ∧
       (s.verified = true → emptied t now s.flash.manifest ∧ (s.flash.manifest.segments = [] → outside t) ∧
         t.unit0.recov = false ∧ t.unit1.recov = false) ∧
       (s.verified = false → emptied t now s.noManifest ∧ t.unit0.recov = true ∧ t.unit1.recov = true ∧
         t.unit0.hostPort = true ∧ t.unit1.hostPort = false ∧ flashPlans t ∧
         (s.behind = [] → ∀ a, readByte t.mem a = match s.region a with
           | .hbm | .cxl | .fabric _ _ => readByte s.mem a
           | _ => 0))
     (∃ t, exec .packagePowerUp s = .next t ∧ boots t 0) ∧
     (∃ t, exec .warmReset s = .next t ∧ boots t s.dtime ∧ t.unit0.count = s.unit0.count ∧
       t.unit1.count = s.unit1.count ∧
       ∀ d, d < 17 → (t.die d).ring = (s.die d).ring ∧ (t.die d).next = (s.die d).next) ∧
     (∃ t, exec .powerLoss s = .next t ∧ emptied t s.dtime s.noManifest ∧ flashPlans t ∧ outside t ∧
       (s.unit0.cmd ≠ some 3 → s.unit1.cmd ≠ some 3 → t.flash = s.flash) ∧
       (s.unit0.cmd = some 3 → let img := s.newImage s.unit0 0
         t.flash = s.flash ∨ (s.imageStatus img = 0 ∧ t.flash.manifest = s.flash.manifest ∧ ∃ k, k ≤ img.length ∧
           t.flash.fw = img.take k ++ if k < img.length then s.flash.fw.drop k else []))))

/-- R251, R281, R288, R394, R473 to R475, R482 to R484: what reaches the package's memory from outside, and what the outside
fails to answer.
R476, R477, R487, R489 to R491: the service commands, each with its status in LAST and BUSY clear: the service alarm,
a firmware image, the attestation report, the manifest's text, an unknown command; and the frozen rings. -/
def Obligations.OutsideEvents : Prop :=
  (∀ (s : State) (u off len port pa line : Nat) (data : BitVec 512) (v : BitVec 64) (b : BitVec 8), s.Inv →
     let n := min 64 len
     let low := data.toNat % 2 ^ (8 * n)
     (u < 2 → (s.unit u).hostPort = true → (s.die (unitDie u)).cut = false →
       (off + len ≤ 2 ^ 40 → s.region off = .hbm →
         (∃ t, exec (.hostAccess u true off len (some data)) s = .next t ∧ readNat t.mem off n = low ∧
           s.sameBytesBut t off n) ∧
         (∃ t, exec (.hostAccess u true off len none) s = .next t ∧ t.mem = s.mem ∧ t.cur = s.cur)) ∧
       (2 ^ 40 < off + len → ∀ w, exec (.hostAccess u true off len w) s = .next s) ∧
       (off < 0x2000000 → off % 0x1000000 < 0x10000 → off % 64 = 0 →
         exec (.hostAccess u false off 64 (some data)) s = .next (s.offerToken (off / 0x1000000)
           { tok := data, time := 0, src := BitVec.ofNat 16 (s.manifest.package + 0x4000), whole := true }).1)) ∧
     (u < 2 → ((s.unit u).hostPort = false ∨ (s.die (unitDie u)).cut = true) → ∀ bar2 w,
       exec (.hostAccess u bar2 off len w) s = .next s) ∧
     (port < 8 → (s.die (unitDie (port / 4))).cut = false →
       (s.region pa = .hbm ∨ s.region pa = .cxl ∨ ((∃ c k, s.region pa = .scratch c k) ∧ s.feWaiters = [])) →
       ∃ t, exec (.ultraEthernetReceive port pa len (some data)) s = .next t ∧ readNat t.mem pa n = low ∧
         s.sameBytesBut t pa n) ∧
     (port < 8 → exec (.ultraEthernetReceive port pa len none) s = .next s) ∧
     (s.region pa = .cxl → ∃ t, exec (.cxlPoolHostWrite pa b) s = .next t ∧ readByte t.mem pa = b ∧
       (∀ d, d < 12 → t.priv d (pa / 256) = none) ∧
       ((∀ d, d < 12 → s.priv d (pa / 256) = none) → s.sameBytesBut t pa 1)) ∧
     (s.region pa ≠ .cxl → exec (.cxlPoolHostWrite pa b) s = .next s) ∧
     (s.region pa = .device → plainRegister pa = true →
       exec (.registerWrite pa v) s = .next { s with mem := writeNat s.mem pa 8 v.toNat } ∧
       readNat (writeNat s.mem pa 8 v.toNat) pa 8 = v.toNat) ∧
     (∀ k, k < 2 → pa = 0x020000010190 + k * 0x1000000 → exec (.registerWrite pa v) s =
       .next (s.setUnit k { s.unit k with svcbuf := v &&& ~~~0xFFF })) ∧
     (∀ k, k < 2 → pa = 0x020000010180 + k * 0x1000000 → let x := s.unit k
       (x.busy.isSome = true → exec (.registerWrite pa v) s = .next (s.setUnit k { x with last := 0xFE })) ∧
       (x.busy = none → (s.unit (1 - k)).cmd = some 3 → v.toNat % 256 = 3 →
         exec (.registerWrite pa v) s = .next (s.setUnit k { x with last := 0xFD })) ∧
       (x.busy = none → ((s.unit (1 - k)).cmd ≠ some 3 ∨ v.toNat % 256 ≠ 3) →
         exec (.registerWrite pa v) s = .next (s.setUnit k { x with busy := some v }))) ∧
     (((s.region pa ≠ .device ∨ plainRegister pa = false) ∧ serviceRegister pa = false) →
       exec (.registerWrite pa v) s = .next s) ∧
     (s.region (256 * line) = .cxl → ∃ t, exec (.cxlBackInvalidate line) s = .next t ∧
       ∀ d, d < 12 → t.priv d line = none) ∧
     (s.region (256 * line) ≠ .cxl → exec (.cxlBackInvalidate line) s = .next s)) ∧
  (∀ (s : State) (addr : BitVec 64) (kind : Nat), s.cur.run ≠ .done →
     let r := s.cur.ref
     (∀ p, s.physOf addr.toNat = some p → s.region p = .cxl →
       exec (.cxlCompletionTimeout r.ctx r.tid addr) s = .next { s with failing := some (r, p) }) ∧
     (s.physOf addr.toNat = none → exec (.cxlCompletionTimeout r.ctx r.tid addr) s = .next s) ∧
     (∀ p package far, s.physOf addr.toNat = some p → s.region p = .fabric package far →
       (s.unreachable s.cur.core package = true →
         exec (.fabricGiveUp 0 r.ctx r.tid addr) s = .next { s with failing := some (r, p) } ∧
         exec (.fabricGiveUp 1 r.ctx r.tid addr) s =
           .next { s with cur := { s.cur with storeErrors := s.cur.storeErrors ++ [addr] } }) ∧
       (s.unreachable s.cur.core package = false → exec (.fabricGiveUp 0 r.ctx r.tid addr) s = .next s ∧
         exec (.fabricGiveUp 1 r.ctx r.tid addr) s = .next s)) ∧
     ((∀ p, s.physOf addr.toNat = some p → ∀ package far, s.region p ≠ .fabric package far) →
       exec (.fabricGiveUp 0 r.ctx r.tid addr) s = .next s ∧ exec (.fabricGiveUp 1 r.ctx r.tid addr) s = .next s) ∧
     (∀ core c m, 2 ≤ kind → s.cores = [(core, c)] → c.retry = [m] → m.sender = r →
       (s.stranded core m = true → ∃ u, exec (.fabricGiveUp kind r.ctx r.tid addr) s = .next u ∧ u.mem = s.mem ∧
         (u.core core).retry = [] ∧ (∀ f ∈ u.links.frames, f.carries core m = false) ∧
         (m.srcPkg = s.manifest.package → m.srcCore = core → (s.cls core).isSome = true →
           (u.core core).counters[15] = c.counters[15] + 1)) ∧
       (s.stranded core m = false → exec (.fabricGiveUp kind r.ctx r.tid addr) s = .next s))) ∧
  (∀ (s : State) (u : Nat) (w : BitVec 64), u < 2 → (s.unit u).busy = some w →
     let x := s.unit u
     let cmd := w.toNat % 256
     let ended (t : State) (last : BitVec 8) : Prop := (t.unit u).busy = none ∧ (t.unit u).last = last
     (x.recov = true → ∀ p ∈ [(1, Instr.svcRaiseAlarm u), (2, .svcClearAlarm u), (4, .svcAttest u),
         (5, .svcBlackboxDump u), (6, .svcManifestCopy u)],
       cmd = p.1 → ∃ t, exec p.2 s = .next t ∧ ended t 0xFF ∧ t.mem = s.mem ∧ t.throttle = s.throttle ∧
         t.flash = s.flash) ∧
     (cmd = 1 → x.recov = false → ∃ t, exec (.svcRaiseAlarm u) s = .next t ∧ ended t 0 ∧ (t.unit u).salm = true ∧
       t.throttle.active = true ∧ t.throttle.alarms.getLsbD 3 = true ∧ t.mem = s.mem) ∧
     (cmd = 2 → x.recov = false → (s.unit (1 - u)).salm = false → ∃ t, exec (.svcClearAlarm u) s = .next t ∧ ended t 0 ∧
       (t.unit u).salm = false ∧ t.throttle.alarms.getLsbD 3 = false ∧ t.mem = s.mem) ∧
     (cmd = 3 →
       let img := readBytes s.mem x.svcbuf.toNat (w.toNat / 2 ^ 8 % 2 ^ 32)
       (Config.signatureOk img = false → ∃ t, exec (.svcFirmwareUpdate u 0) s = .next t ∧ ended t 1 ∧
         t.flash = s.flash) ∧
       (Config.signatureOk img = true → (Config.imageVersion img).toNat < s.manifest.minfw.toNat →
         ∃ t, exec (.svcFirmwareUpdate u 0) s = .next t ∧ ended t 2 ∧ t.flash = s.flash) ∧
       (Config.signatureOk img = true → s.manifest.minfw.toNat ≤ (Config.imageVersion img).toNat →
         ∃ t, exec (.svcFirmwareUpdate u 0) s = .next t ∧ ended t 0 ∧
           t.flash = { s.flash with fw := img, fwVersion := Config.imageVersion img } ∧
           (x.recov = false → t.mem = s.mem ∧ t.cur = s.cur) ∧ (x.recov = true → t.all = []))) ∧
     (cmd = 4 → x.recov = false → s.Inv → s.plainAt { pa := x.svcbuf.toNat, attr := 0 } = true →
       ∃ t, exec (.svcAttest u) s = .next t ∧ ended t 0 ∧
         readNat t.mem x.svcbuf.toNat 32 = readNat s.mem x.svcbuf.toNat 32 ∧
         readNat t.mem (x.svcbuf.toNat + 32) 32 = (sha256 s.flash.fw).toNat ∧
         s.sameBytesBut t x.svcbuf.toNat 0x240) ∧
     (cmd = 5 → x.recov = false → ∃ t, exec (.svcBlackboxDump u) s = .next t ∧ ended t 0 ∧ t.mem = s.mem ∧
       ∀ d, d < 17 → (t.die d).frozen = true) ∧
     (cmd = 6 → x.recov = false → s.manifest.text.length ≤ 4096 → s.Inv → s.plainAt { pa := x.svcbuf.toNat, attr := 0 } = true →
       ∃ t, exec (.svcManifestCopy u) s = .next t ∧ ended t 0 ∧
         s.sameBytesBut t x.svcbuf.toNat s.manifest.text.length ∧
         ∀ k, k < s.manifest.text.length → readByte t.mem (x.svcbuf.toNat + k) = s.manifest.text[k]?.getD 0) ∧
     (cmd = 6 → x.recov = false → 4096 < s.manifest.text.length → ∃ t, exec (.svcManifestCopy u) s = .next t ∧ ended t 3 ∧
       t.mem = s.mem) ∧
     ((cmd = 0 ∨ 6 < cmd) → ∃ t, exec (.svcInvalidCmd u) s = .next t ∧ ended t 0xFF ∧ t.mem = s.mem)) ∧
  (∀ (s : State) (d : Nat), d < 17 →
     ((s.die d).frozen = true → (s.die d).dumped = false →
       ∃ t, exec (.blackboxDumpComplete d) s = .next t ∧ (t.die d).dumped = true ∧ (t.die d).ring = (s.die d).ring ∧
         let n := (lookup s.flash.dumpNext d).getD 0
         lookup t.flash.dumpSlots (d, n) = some (s.die d).ring ∧ lookup t.flash.dumpNext d = some ((n + 1) % 16)) ∧
     (∃ t, exec (.firmwareFault d) s = .next t ∧ (t.die d).frozen = true ∧ t.mem = s.mem))
end

