-- ==== Sys2Proof/Laws/Memory.lean ====
section
/-!
SUPPORT. Memory: what a byte reads after a write of a byte, and that every write, filter and write-back
keeps the canonical form.
-/

namespace Sys2Proof.Machine

theorem wfFrom_weaken {m : List Host.Cell} {a b : Nat} (h : wfFrom b m = true) (hab : a ≤ b) :
    wfFrom a m = true := by
  cases m with
  | nil => rfl
  | cons c t =>
    obtain ⟨k, x⟩ := c
    simp only [wfFrom, Bool.and_eq_true, decide_eq_true_eq] at h ⊢
    exact ⟨⟨by omega, h.1.2⟩, h.2⟩

/-- Below its first entry a canonical list reads as zero. -/
theorem readByte_of_lt {m : List Host.Cell} {b x : Nat} (h : wfFrom b m = true) (hx : x < b) :
    readByte m x = 0 := by
  cases m with
  | nil => rfl
  | cons c t =>
    obtain ⟨k, v⟩ := c
    simp only [wfFrom, Bool.and_eq_true, decide_eq_true_eq] at h
    simp [readByte, show x ≠ k by omega, show x < k by omega]

theorem writeByte_wfFrom (m : List Host.Cell) (a lo : Nat) (b : Byte) (h : wfFrom lo m = true) (ha : lo ≤ a) :
    wfFrom lo (writeByte m a b) = true := by
  induction m generalizing lo with
  | nil => unfold writeByte; split <;> simp_all [wfFrom]
  | cons c t ih =>
    obtain ⟨k, v⟩ := c
    simp only [wfFrom, Bool.and_eq_true, decide_eq_true_eq, bne_iff_ne] at h
    unfold writeByte
    split_ifs with h1 hb h2 hb
    · simp only [wfFrom, Bool.and_eq_true, decide_eq_true_eq, bne_iff_ne]
      exact h
    · simp only [wfFrom, Bool.and_eq_true, decide_eq_true_eq, bne_iff_ne]
      exact ⟨⟨ha, hb⟩, ⟨by omega, h.1.2⟩, h.2⟩
    · exact wfFrom_weaken h.2 (by omega)
    · simp only [wfFrom, Bool.and_eq_true, decide_eq_true_eq, bne_iff_ne]
      exact ⟨⟨h.1.1, hb⟩, h.2⟩
    · simp only [wfFrom, Bool.and_eq_true, decide_eq_true_eq, bne_iff_ne]
      exact ⟨h.1, ih (k + 1) h.2 (by omega)⟩

/-- A write of a byte keeps the canonical form. -/
@[simp] theorem writeByte_wf {m : List Host.Cell} (h : Memory.wf m = true) (a : Nat) (b : Byte) :
    Memory.wf (writeByte m a b) = true := writeByte_wfFrom m a 0 b h (Nat.zero_le a)

theorem readByte_writeByte_from (m : List Host.Cell) (a lo x : Nat) (b : Byte) (h : wfFrom lo m = true) :
    readByte (writeByte m a b) x = if x = a then b else readByte m x := by
  induction m generalizing lo with
  | nil =>
    unfold writeByte
    split_ifs with hb hx hx
    · exact hb.symm
    · rfl
    · simp [readByte, hx]
    · simp [readByte, hx]
  | cons c t ih =>
    obtain ⟨k, v⟩ := c
    simp only [wfFrom, Bool.and_eq_true, decide_eq_true_eq, bne_iff_ne] at h
    unfold writeByte
    split_ifs with h1 hb hx hx h2 hb hx hx hx
    · simp only [readByte, show x ≠ k by omega, show x < k by omega, if_true, if_false]
      exact hb.symm
    · rfl
    · simp [readByte, hx]
    · by_cases hl : x < a
      · simp [readByte, hx, hl, show x ≠ k by omega, show x < k by omega]
      · simp [readByte, hx, hl]
    · rw [hb]; exact readByte_of_lt h.2 (by omega)
    · by_cases hl : x < k
      · simp [readByte, show x ≠ k by omega, hl, readByte_of_lt h.2 (show x < k + 1 by omega)]
      · simp [readByte, show x ≠ k by omega, hl]
    · simp [readByte, show x = k by omega]
    · simp [readByte, show x ≠ k by omega]
    · subst hx; simp [readByte, ih (k + 1) h.2, h1, h2]
    · simp [readByte, ih (k + 1) h.2, hx]

/-- A byte after a write of a byte. -/
theorem readByte_writeByte {m : List Host.Cell} (h : Memory.wf m = true) (a x : Nat) (b : Byte) :
    readByte (writeByte m a b) x = if x = a then b else readByte m x :=
  readByte_writeByte_from m a 0 x b h

/-- A write of a number keeps the canonical form. -/
@[simp] theorem writeNat_wf {m : List Host.Cell} (h : Memory.wf m = true) (a n v : Nat) :
    Memory.wf (writeNat m a n v) = true := by
  induction n generalizing m a v with
  | zero => exact h
  | succ n ih => exact ih (writeByte_wf h a _) _ _

theorem filter_wfFrom (m : List Host.Cell) (lo : Nat) (p : Host.Cell → Bool) (h : wfFrom lo m = true) :
    wfFrom lo (m.filter p) = true := by
  induction m generalizing lo with
  | nil => rfl
  | cons c t ih =>
    obtain ⟨k, v⟩ := c
    simp only [wfFrom, Bool.and_eq_true, decide_eq_true_eq] at h
    simp only [List.filter]
    split
    · simp only [wfFrom, Bool.and_eq_true, decide_eq_true_eq]
      exact ⟨h.1, ih (k + 1) h.2⟩
    · exact wfFrom_weaken (ih (k + 1) h.2) (by omega)

/-- Dropping entries keeps the canonical form. -/
@[simp] theorem filter_wf {m : List Host.Cell} (h : Memory.wf m = true) (p : Host.Cell → Bool) :
    Memory.wf (m.filter p) = true := filter_wfFrom m 0 p h

/-- A write-back of a line keeps the canonical form. -/
@[simp] theorem drainBytes_wf {m : List Host.Cell} (h : Memory.wf m = true) (p : PrivLine) (o n : Nat) :
    Memory.wf (drainBytes m p o n) = true := by
  induction n generalizing m o with
  | zero => exact h
  | succ n ih =>
    unfold drainBytes
    apply ih
    split
    · exact writeByte_wf h _ _
    · exact h

/-! ### Lists by key -/

theorem lookup_assign {κ α : Type} [DecidableEq κ] (l : List (κ × α)) (k j : κ) (x : α) :
    lookup (assign l k x) j = if j = k then some x else lookup l j := by
  induction l with
  | nil =>
    by_cases h : j = k
    · simp [assign, lookup, h]
    · simp [assign, lookup, h, Ne.symm h]
  | cons c t ih =>
    obtain ⟨i, y⟩ := c
    by_cases h1 : i = k
    · subst h1
      by_cases h2 : j = i
      · simp [assign, lookup, h2]
      · simp [assign, lookup, h2, Ne.symm h2]
    · simp only [assign, h1, if_false, lookup, ih]
      by_cases h2 : i = j
      · subst h2; simp [h1]
      · simp [h2]

/-- A core's record after a record is replaced. -/
@[simp] theorem State.core_setCore (s : State) (n k : Nat) (c : CoreSt) :
    (s.setCore n c).core k = if k = n then c else s.core k := by
  unfold State.core State.setCore
  simp only [lookup_assign]
  by_cases h : k = n <;> simp [h]

/-- A die's record after a record is replaced. -/
@[simp] theorem State.die_setDie (s : State) (n k : Nat) (d : DieSt) :
    (s.setDie n d).die k = if k = n then d else s.die k := by
  unfold State.die State.setDie
  simp only [lookup_assign]
  by_cases h : k = n <;> simp [h]

/-- A cluster's record after a record is replaced. -/
@[simp] theorem State.cluster_setCluster (s : State) (n k : Nat × Nat) (c : Cluster) :
    (s.setCluster n c).cluster k = if k = n then c else s.cluster k := by
  unfold State.cluster State.setCluster
  simp only [lookup_assign]
  by_cases h : k = n <;> simp [h]

/-- A context's record after a record is replaced. -/
@[simp] theorem State.ctxSt_setCtx (s : State) (n k : Nat) (c : CtxSt) :
    (s.setCtx n c).ctxSt k = if k = n then c else s.ctxSt k := by
  unfold State.ctxSt State.setCtx
  simp only [lookup_assign]
  by_cases h : k = n <;> simp [h]

/-- A table word after a word is replaced. -/
theorem State.table_setTable (s : State) (a b c d a' b' c' d' : Nat) (v : BitVec 256) :
    (s.setTable a b c d v).table a' b' c' d' =
      if a' = a ∧ b' = b ∧ c' = c ∧ d' = d then v else s.table a' b' c' d' := by
  unfold State.table State.setTable
  simp only [lookup_assign, TableKey.mk.injEq]
  split <;> simp

end Sys2Proof.Machine
end

