-- ==== Sys2Proof/Laws/State.lean ====
section
/-!
SUPPORT. One lemma for each field that a named update of the state or of a thread leaves as it was, and
one for the field it changes.
-/

namespace Sys2Proof.Machine


/-! ### setCore -/

theorem State.setCore_cores (s : State) (n : Nat) (c : CoreSt) : (s.setCore n c).cores = assign s.cores n c := rfl
@[simp] theorem State.setCore_blend (s : State) (n : Nat) (c : CoreSt) : (s.setCore n c).blend = s.blend := rfl
@[simp] theorem State.setCore_cur (s : State) (n : Nat) (c : CoreSt) : (s.setCore n c).cur = s.cur := rfl
@[simp] theorem State.setCore_threads (s : State) (n : Nat) (c : CoreSt) : (s.setCore n c).threads = s.threads := rfl
@[simp] theorem State.setCore_mem (s : State) (n : Nat) (c : CoreSt) : (s.setCore n c).mem = s.mem := rfl
@[simp] theorem State.setCore_full (s : State) (n : Nat) (c : CoreSt) : (s.setCore n c).full = s.full := rfl
@[simp] theorem State.setCore_bad (s : State) (n : Nat) (c : CoreSt) : (s.setCore n c).bad = s.bad := rfl
@[simp] theorem State.setCore_hub (s : State) (n : Nat) (c : CoreSt) : (s.setCore n c).hub = s.hub := rfl
@[simp] theorem State.setCore_behind (s : State) (n : Nat) (c : CoreSt) : (s.setCore n c).behind = s.behind := rfl
@[simp] theorem State.setCore_dies (s : State) (n : Nat) (c : CoreSt) : (s.setCore n c).dies = s.dies := rfl
@[simp] theorem State.setCore_clusters (s : State) (n : Nat) (c : CoreSt) : (s.setCore n c).clusters = s.clusters := rfl
@[simp] theorem State.setCore_loans (s : State) (n : Nat) (c : CoreSt) : (s.setCore n c).loans = s.loans := rfl
@[simp] theorem State.setCore_boosts (s : State) (n : Nat) (c : CoreSt) : (s.setCore n c).boosts = s.boosts := rfl
@[simp] theorem State.setCore_launches (s : State) (n : Nat) (c : CoreSt) : (s.setCore n c).launches = s.launches := rfl
@[simp] theorem State.setCore_domains (s : State) (n : Nat) (c : CoreSt) : (s.setCore n c).domains = s.domains := rfl
@[simp] theorem State.setCore_ctxs (s : State) (n : Nat) (c : CoreSt) : (s.setCore n c).ctxs = s.ctxs := rfl
@[simp] theorem State.setCore_rings (s : State) (n : Nat) (c : CoreSt) : (s.setCore n c).rings = s.rings := rfl
@[simp] theorem State.setCore_tables (s : State) (n : Nat) (c : CoreSt) : (s.setCore n c).tables = s.tables := rfl
@[simp] theorem State.setCore_monitors (s : State) (n : Nat) (c : CoreSt) : (s.setCore n c).monitors = s.monitors := rfl
@[simp] theorem State.setCore_feWaiters (s : State) (n : Nat) (c : CoreSt) : (s.setCore n c).feWaiters = s.feWaiters := rfl
@[simp] theorem State.setCore_recvWaiters (s : State) (n : Nat) (c : CoreSt) : (s.setCore n c).recvWaiters = s.recvWaiters := rfl
@[simp] theorem State.setCore_unit0 (s : State) (n : Nat) (c : CoreSt) : (s.setCore n c).unit0 = s.unit0 := rfl
@[simp] theorem State.setCore_unit1 (s : State) (n : Nat) (c : CoreSt) : (s.setCore n c).unit1 = s.unit1 := rfl
@[simp] theorem State.setCore_systvec (s : State) (n : Nat) (c : CoreSt) : (s.setCore n c).systvec = s.systvec := rfl
@[simp] theorem State.setCore_devfeat (s : State) (n : Nat) (c : CoreSt) : (s.setCore n c).devfeat = s.devfeat := rfl
@[simp] theorem State.setCore_devrev (s : State) (n : Nat) (c : CoreSt) : (s.setCore n c).devrev = s.devrev := rfl
@[simp] theorem State.setCore_pdefault (s : State) (n : Nat) (c : CoreSt) : (s.setCore n c).pdefault = s.pdefault := rfl
@[simp] theorem State.setCore_sysArb (s : State) (n : Nat) (c : CoreSt) : (s.setCore n c).sysArb = s.sysArb := rfl
@[simp] theorem State.setCore_sysArs (s : State) (n : Nat) (c : CoreSt) : (s.setCore n c).sysArs = s.sysArs := rfl
@[simp] theorem State.setCore_dtime (s : State) (n : Nat) (c : CoreSt) : (s.setCore n c).dtime = s.dtime := rfl
@[simp] theorem State.setCore_bootTime (s : State) (n : Nat) (c : CoreSt) : (s.setCore n c).bootTime = s.bootTime := rfl
@[simp] theorem State.setCore_throttle (s : State) (n : Nat) (c : CoreSt) : (s.setCore n c).throttle = s.throttle := rfl
@[simp] theorem State.setCore_links (s : State) (n : Nat) (c : CoreSt) : (s.setCore n c).links = s.links := rfl
@[simp] theorem State.setCore_manifest (s : State) (n : Nat) (c : CoreSt) : (s.setCore n c).manifest = s.manifest := rfl
@[simp] theorem State.setCore_flash (s : State) (n : Nat) (c : CoreSt) : (s.setCore n c).flash = s.flash := rfl
@[simp] theorem State.setCore_capacity (s : State) (n : Nat) (c : CoreSt) : (s.setCore n c).capacity = s.capacity := rfl
@[simp] theorem State.setCore_peers (s : State) (n : Nat) (c : CoreSt) : (s.setCore n c).peers = s.peers := rfl
@[simp] theorem State.setCore_failing (s : State) (n : Nat) (c : CoreSt) : (s.setCore n c).failing = s.failing := rfl
@[simp] theorem State.setCore_held (s : State) (n : Nat) (c : CoreSt) : (s.setCore n c).held = s.held := rfl
@[simp] theorem State.setCore_agenda (s : State) (n : Nat) (c : CoreSt) : (s.setCore n c).agenda = s.agenda := rfl
@[simp] theorem State.setCore_streak (s : State) (n : Nat) (c : CoreSt) : (s.setCore n c).streak = s.streak := rfl
@[simp] theorem State.setCore_inputs (s : State) (n : Nat) (c : CoreSt) : (s.setCore n c).inputs = s.inputs := rfl
@[simp] theorem State.setCore_free (s : State) (n : Nat) (c : CoreSt) : (s.setCore n c).free = s.free := rfl

/-! ### setDie -/

theorem State.setDie_dies (s : State) (n : Nat) (d : DieSt) : (s.setDie n d).dies = assign s.dies n d := rfl
@[simp] theorem State.setDie_blend (s : State) (n : Nat) (d : DieSt) : (s.setDie n d).blend = s.blend := rfl
@[simp] theorem State.setDie_cur (s : State) (n : Nat) (d : DieSt) : (s.setDie n d).cur = s.cur := rfl
@[simp] theorem State.setDie_threads (s : State) (n : Nat) (d : DieSt) : (s.setDie n d).threads = s.threads := rfl
@[simp] theorem State.setDie_mem (s : State) (n : Nat) (d : DieSt) : (s.setDie n d).mem = s.mem := rfl
@[simp] theorem State.setDie_full (s : State) (n : Nat) (d : DieSt) : (s.setDie n d).full = s.full := rfl
@[simp] theorem State.setDie_bad (s : State) (n : Nat) (d : DieSt) : (s.setDie n d).bad = s.bad := rfl
@[simp] theorem State.setDie_hub (s : State) (n : Nat) (d : DieSt) : (s.setDie n d).hub = s.hub := rfl
@[simp] theorem State.setDie_behind (s : State) (n : Nat) (d : DieSt) : (s.setDie n d).behind = s.behind := rfl
@[simp] theorem State.setDie_cores (s : State) (n : Nat) (d : DieSt) : (s.setDie n d).cores = s.cores := rfl
@[simp] theorem State.setDie_clusters (s : State) (n : Nat) (d : DieSt) : (s.setDie n d).clusters = s.clusters := rfl
@[simp] theorem State.setDie_loans (s : State) (n : Nat) (d : DieSt) : (s.setDie n d).loans = s.loans := rfl
@[simp] theorem State.setDie_boosts (s : State) (n : Nat) (d : DieSt) : (s.setDie n d).boosts = s.boosts := rfl
@[simp] theorem State.setDie_launches (s : State) (n : Nat) (d : DieSt) : (s.setDie n d).launches = s.launches := rfl
@[simp] theorem State.setDie_domains (s : State) (n : Nat) (d : DieSt) : (s.setDie n d).domains = s.domains := rfl
@[simp] theorem State.setDie_ctxs (s : State) (n : Nat) (d : DieSt) : (s.setDie n d).ctxs = s.ctxs := rfl
@[simp] theorem State.setDie_rings (s : State) (n : Nat) (d : DieSt) : (s.setDie n d).rings = s.rings := rfl
@[simp] theorem State.setDie_tables (s : State) (n : Nat) (d : DieSt) : (s.setDie n d).tables = s.tables := rfl
@[simp] theorem State.setDie_monitors (s : State) (n : Nat) (d : DieSt) : (s.setDie n d).monitors = s.monitors := rfl
@[simp] theorem State.setDie_feWaiters (s : State) (n : Nat) (d : DieSt) : (s.setDie n d).feWaiters = s.feWaiters := rfl
@[simp] theorem State.setDie_recvWaiters (s : State) (n : Nat) (d : DieSt) : (s.setDie n d).recvWaiters = s.recvWaiters := rfl
@[simp] theorem State.setDie_unit0 (s : State) (n : Nat) (d : DieSt) : (s.setDie n d).unit0 = s.unit0 := rfl
@[simp] theorem State.setDie_unit1 (s : State) (n : Nat) (d : DieSt) : (s.setDie n d).unit1 = s.unit1 := rfl
@[simp] theorem State.setDie_systvec (s : State) (n : Nat) (d : DieSt) : (s.setDie n d).systvec = s.systvec := rfl
@[simp] theorem State.setDie_devfeat (s : State) (n : Nat) (d : DieSt) : (s.setDie n d).devfeat = s.devfeat := rfl
@[simp] theorem State.setDie_devrev (s : State) (n : Nat) (d : DieSt) : (s.setDie n d).devrev = s.devrev := rfl
@[simp] theorem State.setDie_pdefault (s : State) (n : Nat) (d : DieSt) : (s.setDie n d).pdefault = s.pdefault := rfl
@[simp] theorem State.setDie_sysArb (s : State) (n : Nat) (d : DieSt) : (s.setDie n d).sysArb = s.sysArb := rfl
@[simp] theorem State.setDie_sysArs (s : State) (n : Nat) (d : DieSt) : (s.setDie n d).sysArs = s.sysArs := rfl
@[simp] theorem State.setDie_dtime (s : State) (n : Nat) (d : DieSt) : (s.setDie n d).dtime = s.dtime := rfl
@[simp] theorem State.setDie_bootTime (s : State) (n : Nat) (d : DieSt) : (s.setDie n d).bootTime = s.bootTime := rfl
@[simp] theorem State.setDie_throttle (s : State) (n : Nat) (d : DieSt) : (s.setDie n d).throttle = s.throttle := rfl
@[simp] theorem State.setDie_links (s : State) (n : Nat) (d : DieSt) : (s.setDie n d).links = s.links := rfl
@[simp] theorem State.setDie_manifest (s : State) (n : Nat) (d : DieSt) : (s.setDie n d).manifest = s.manifest := rfl
@[simp] theorem State.setDie_flash (s : State) (n : Nat) (d : DieSt) : (s.setDie n d).flash = s.flash := rfl
@[simp] theorem State.setDie_capacity (s : State) (n : Nat) (d : DieSt) : (s.setDie n d).capacity = s.capacity := rfl
@[simp] theorem State.setDie_peers (s : State) (n : Nat) (d : DieSt) : (s.setDie n d).peers = s.peers := rfl
@[simp] theorem State.setDie_failing (s : State) (n : Nat) (d : DieSt) : (s.setDie n d).failing = s.failing := rfl
@[simp] theorem State.setDie_held (s : State) (n : Nat) (d : DieSt) : (s.setDie n d).held = s.held := rfl
@[simp] theorem State.setDie_agenda (s : State) (n : Nat) (d : DieSt) : (s.setDie n d).agenda = s.agenda := rfl
@[simp] theorem State.setDie_streak (s : State) (n : Nat) (d : DieSt) : (s.setDie n d).streak = s.streak := rfl
@[simp] theorem State.setDie_inputs (s : State) (n : Nat) (d : DieSt) : (s.setDie n d).inputs = s.inputs := rfl
@[simp] theorem State.setDie_free (s : State) (n : Nat) (d : DieSt) : (s.setDie n d).free = s.free := rfl

/-! ### setCluster -/

theorem State.setCluster_clusters (s : State) (n : Nat × Nat) (c : Cluster) : (s.setCluster n c).clusters = assign s.clusters n c := rfl
@[simp] theorem State.setCluster_blend (s : State) (n : Nat × Nat) (c : Cluster) : (s.setCluster n c).blend = s.blend := rfl
@[simp] theorem State.setCluster_cur (s : State) (n : Nat × Nat) (c : Cluster) : (s.setCluster n c).cur = s.cur := rfl
@[simp] theorem State.setCluster_threads (s : State) (n : Nat × Nat) (c : Cluster) : (s.setCluster n c).threads = s.threads := rfl
@[simp] theorem State.setCluster_mem (s : State) (n : Nat × Nat) (c : Cluster) : (s.setCluster n c).mem = s.mem := rfl
@[simp] theorem State.setCluster_full (s : State) (n : Nat × Nat) (c : Cluster) : (s.setCluster n c).full = s.full := rfl
@[simp] theorem State.setCluster_bad (s : State) (n : Nat × Nat) (c : Cluster) : (s.setCluster n c).bad = s.bad := rfl
@[simp] theorem State.setCluster_hub (s : State) (n : Nat × Nat) (c : Cluster) : (s.setCluster n c).hub = s.hub := rfl
@[simp] theorem State.setCluster_behind (s : State) (n : Nat × Nat) (c : Cluster) : (s.setCluster n c).behind = s.behind := rfl
@[simp] theorem State.setCluster_cores (s : State) (n : Nat × Nat) (c : Cluster) : (s.setCluster n c).cores = s.cores := rfl
@[simp] theorem State.setCluster_dies (s : State) (n : Nat × Nat) (c : Cluster) : (s.setCluster n c).dies = s.dies := rfl
@[simp] theorem State.setCluster_loans (s : State) (n : Nat × Nat) (c : Cluster) : (s.setCluster n c).loans = s.loans := rfl
@[simp] theorem State.setCluster_boosts (s : State) (n : Nat × Nat) (c : Cluster) : (s.setCluster n c).boosts = s.boosts := rfl
@[simp] theorem State.setCluster_launches (s : State) (n : Nat × Nat) (c : Cluster) : (s.setCluster n c).launches = s.launches := rfl
@[simp] theorem State.setCluster_domains (s : State) (n : Nat × Nat) (c : Cluster) : (s.setCluster n c).domains = s.domains := rfl
@[simp] theorem State.setCluster_ctxs (s : State) (n : Nat × Nat) (c : Cluster) : (s.setCluster n c).ctxs = s.ctxs := rfl
@[simp] theorem State.setCluster_rings (s : State) (n : Nat × Nat) (c : Cluster) : (s.setCluster n c).rings = s.rings := rfl
@[simp] theorem State.setCluster_tables (s : State) (n : Nat × Nat) (c : Cluster) : (s.setCluster n c).tables = s.tables := rfl
@[simp] theorem State.setCluster_monitors (s : State) (n : Nat × Nat) (c : Cluster) : (s.setCluster n c).monitors = s.monitors := rfl
@[simp] theorem State.setCluster_feWaiters (s : State) (n : Nat × Nat) (c : Cluster) : (s.setCluster n c).feWaiters = s.feWaiters := rfl
@[simp] theorem State.setCluster_recvWaiters (s : State) (n : Nat × Nat) (c : Cluster) : (s.setCluster n c).recvWaiters = s.recvWaiters := rfl
@[simp] theorem State.setCluster_unit0 (s : State) (n : Nat × Nat) (c : Cluster) : (s.setCluster n c).unit0 = s.unit0 := rfl
@[simp] theorem State.setCluster_unit1 (s : State) (n : Nat × Nat) (c : Cluster) : (s.setCluster n c).unit1 = s.unit1 := rfl
@[simp] theorem State.setCluster_systvec (s : State) (n : Nat × Nat) (c : Cluster) : (s.setCluster n c).systvec = s.systvec := rfl
@[simp] theorem State.setCluster_devfeat (s : State) (n : Nat × Nat) (c : Cluster) : (s.setCluster n c).devfeat = s.devfeat := rfl
@[simp] theorem State.setCluster_devrev (s : State) (n : Nat × Nat) (c : Cluster) : (s.setCluster n c).devrev = s.devrev := rfl
@[simp] theorem State.setCluster_pdefault (s : State) (n : Nat × Nat) (c : Cluster) : (s.setCluster n c).pdefault = s.pdefault := rfl
@[simp] theorem State.setCluster_sysArb (s : State) (n : Nat × Nat) (c : Cluster) : (s.setCluster n c).sysArb = s.sysArb := rfl
@[simp] theorem State.setCluster_sysArs (s : State) (n : Nat × Nat) (c : Cluster) : (s.setCluster n c).sysArs = s.sysArs := rfl
@[simp] theorem State.setCluster_dtime (s : State) (n : Nat × Nat) (c : Cluster) : (s.setCluster n c).dtime = s.dtime := rfl
@[simp] theorem State.setCluster_bootTime (s : State) (n : Nat × Nat) (c : Cluster) : (s.setCluster n c).bootTime = s.bootTime := rfl
@[simp] theorem State.setCluster_throttle (s : State) (n : Nat × Nat) (c : Cluster) : (s.setCluster n c).throttle = s.throttle := rfl
@[simp] theorem State.setCluster_links (s : State) (n : Nat × Nat) (c : Cluster) : (s.setCluster n c).links = s.links := rfl
@[simp] theorem State.setCluster_manifest (s : State) (n : Nat × Nat) (c : Cluster) : (s.setCluster n c).manifest = s.manifest := rfl
@[simp] theorem State.setCluster_flash (s : State) (n : Nat × Nat) (c : Cluster) : (s.setCluster n c).flash = s.flash := rfl
@[simp] theorem State.setCluster_capacity (s : State) (n : Nat × Nat) (c : Cluster) : (s.setCluster n c).capacity = s.capacity := rfl
@[simp] theorem State.setCluster_peers (s : State) (n : Nat × Nat) (c : Cluster) : (s.setCluster n c).peers = s.peers := rfl
@[simp] theorem State.setCluster_failing (s : State) (n : Nat × Nat) (c : Cluster) : (s.setCluster n c).failing = s.failing := rfl
@[simp] theorem State.setCluster_held (s : State) (n : Nat × Nat) (c : Cluster) : (s.setCluster n c).held = s.held := rfl
@[simp] theorem State.setCluster_agenda (s : State) (n : Nat × Nat) (c : Cluster) : (s.setCluster n c).agenda = s.agenda := rfl
@[simp] theorem State.setCluster_streak (s : State) (n : Nat × Nat) (c : Cluster) : (s.setCluster n c).streak = s.streak := rfl
@[simp] theorem State.setCluster_inputs (s : State) (n : Nat × Nat) (c : Cluster) : (s.setCluster n c).inputs = s.inputs := rfl
@[simp] theorem State.setCluster_free (s : State) (n : Nat × Nat) (c : Cluster) : (s.setCluster n c).free = s.free := rfl

/-! ### setCtx -/

theorem State.setCtx_ctxs (s : State) (n : Nat) (c : CtxSt) : (s.setCtx n c).ctxs = assign s.ctxs n c := rfl
@[simp] theorem State.setCtx_blend (s : State) (n : Nat) (c : CtxSt) : (s.setCtx n c).blend = s.blend := rfl
@[simp] theorem State.setCtx_cur (s : State) (n : Nat) (c : CtxSt) : (s.setCtx n c).cur = s.cur := rfl
@[simp] theorem State.setCtx_threads (s : State) (n : Nat) (c : CtxSt) : (s.setCtx n c).threads = s.threads := rfl
@[simp] theorem State.setCtx_mem (s : State) (n : Nat) (c : CtxSt) : (s.setCtx n c).mem = s.mem := rfl
@[simp] theorem State.setCtx_full (s : State) (n : Nat) (c : CtxSt) : (s.setCtx n c).full = s.full := rfl
@[simp] theorem State.setCtx_bad (s : State) (n : Nat) (c : CtxSt) : (s.setCtx n c).bad = s.bad := rfl
@[simp] theorem State.setCtx_hub (s : State) (n : Nat) (c : CtxSt) : (s.setCtx n c).hub = s.hub := rfl
@[simp] theorem State.setCtx_behind (s : State) (n : Nat) (c : CtxSt) : (s.setCtx n c).behind = s.behind := rfl
@[simp] theorem State.setCtx_cores (s : State) (n : Nat) (c : CtxSt) : (s.setCtx n c).cores = s.cores := rfl
@[simp] theorem State.setCtx_dies (s : State) (n : Nat) (c : CtxSt) : (s.setCtx n c).dies = s.dies := rfl
@[simp] theorem State.setCtx_clusters (s : State) (n : Nat) (c : CtxSt) : (s.setCtx n c).clusters = s.clusters := rfl
@[simp] theorem State.setCtx_loans (s : State) (n : Nat) (c : CtxSt) : (s.setCtx n c).loans = s.loans := rfl
@[simp] theorem State.setCtx_boosts (s : State) (n : Nat) (c : CtxSt) : (s.setCtx n c).boosts = s.boosts := rfl
@[simp] theorem State.setCtx_launches (s : State) (n : Nat) (c : CtxSt) : (s.setCtx n c).launches = s.launches := rfl
@[simp] theorem State.setCtx_domains (s : State) (n : Nat) (c : CtxSt) : (s.setCtx n c).domains = s.domains := rfl
@[simp] theorem State.setCtx_rings (s : State) (n : Nat) (c : CtxSt) : (s.setCtx n c).rings = s.rings := rfl
@[simp] theorem State.setCtx_tables (s : State) (n : Nat) (c : CtxSt) : (s.setCtx n c).tables = s.tables := rfl
@[simp] theorem State.setCtx_monitors (s : State) (n : Nat) (c : CtxSt) : (s.setCtx n c).monitors = s.monitors := rfl
@[simp] theorem State.setCtx_feWaiters (s : State) (n : Nat) (c : CtxSt) : (s.setCtx n c).feWaiters = s.feWaiters := rfl
@[simp] theorem State.setCtx_recvWaiters (s : State) (n : Nat) (c : CtxSt) : (s.setCtx n c).recvWaiters = s.recvWaiters := rfl
@[simp] theorem State.setCtx_unit0 (s : State) (n : Nat) (c : CtxSt) : (s.setCtx n c).unit0 = s.unit0 := rfl
@[simp] theorem State.setCtx_unit1 (s : State) (n : Nat) (c : CtxSt) : (s.setCtx n c).unit1 = s.unit1 := rfl
@[simp] theorem State.setCtx_systvec (s : State) (n : Nat) (c : CtxSt) : (s.setCtx n c).systvec = s.systvec := rfl
@[simp] theorem State.setCtx_devfeat (s : State) (n : Nat) (c : CtxSt) : (s.setCtx n c).devfeat = s.devfeat := rfl
@[simp] theorem State.setCtx_devrev (s : State) (n : Nat) (c : CtxSt) : (s.setCtx n c).devrev = s.devrev := rfl
@[simp] theorem State.setCtx_pdefault (s : State) (n : Nat) (c : CtxSt) : (s.setCtx n c).pdefault = s.pdefault := rfl
@[simp] theorem State.setCtx_sysArb (s : State) (n : Nat) (c : CtxSt) : (s.setCtx n c).sysArb = s.sysArb := rfl
@[simp] theorem State.setCtx_sysArs (s : State) (n : Nat) (c : CtxSt) : (s.setCtx n c).sysArs = s.sysArs := rfl
@[simp] theorem State.setCtx_dtime (s : State) (n : Nat) (c : CtxSt) : (s.setCtx n c).dtime = s.dtime := rfl
@[simp] theorem State.setCtx_bootTime (s : State) (n : Nat) (c : CtxSt) : (s.setCtx n c).bootTime = s.bootTime := rfl
@[simp] theorem State.setCtx_throttle (s : State) (n : Nat) (c : CtxSt) : (s.setCtx n c).throttle = s.throttle := rfl
@[simp] theorem State.setCtx_links (s : State) (n : Nat) (c : CtxSt) : (s.setCtx n c).links = s.links := rfl
@[simp] theorem State.setCtx_manifest (s : State) (n : Nat) (c : CtxSt) : (s.setCtx n c).manifest = s.manifest := rfl
@[simp] theorem State.setCtx_flash (s : State) (n : Nat) (c : CtxSt) : (s.setCtx n c).flash = s.flash := rfl
@[simp] theorem State.setCtx_capacity (s : State) (n : Nat) (c : CtxSt) : (s.setCtx n c).capacity = s.capacity := rfl
@[simp] theorem State.setCtx_peers (s : State) (n : Nat) (c : CtxSt) : (s.setCtx n c).peers = s.peers := rfl
@[simp] theorem State.setCtx_failing (s : State) (n : Nat) (c : CtxSt) : (s.setCtx n c).failing = s.failing := rfl
@[simp] theorem State.setCtx_held (s : State) (n : Nat) (c : CtxSt) : (s.setCtx n c).held = s.held := rfl
@[simp] theorem State.setCtx_agenda (s : State) (n : Nat) (c : CtxSt) : (s.setCtx n c).agenda = s.agenda := rfl
@[simp] theorem State.setCtx_streak (s : State) (n : Nat) (c : CtxSt) : (s.setCtx n c).streak = s.streak := rfl
@[simp] theorem State.setCtx_inputs (s : State) (n : Nat) (c : CtxSt) : (s.setCtx n c).inputs = s.inputs := rfl
@[simp] theorem State.setCtx_free (s : State) (n : Nat) (c : CtxSt) : (s.setCtx n c).free = s.free := rfl

/-! ### setTable -/

@[simp] theorem State.setTable_blend (s : State) (a b c d : Nat) (w : BitVec 256) : (s.setTable a b c d w).blend = s.blend := rfl
@[simp] theorem State.setTable_cur (s : State) (a b c d : Nat) (w : BitVec 256) : (s.setTable a b c d w).cur = s.cur := rfl
@[simp] theorem State.setTable_threads (s : State) (a b c d : Nat) (w : BitVec 256) : (s.setTable a b c d w).threads = s.threads := rfl
@[simp] theorem State.setTable_mem (s : State) (a b c d : Nat) (w : BitVec 256) : (s.setTable a b c d w).mem = s.mem := rfl
@[simp] theorem State.setTable_full (s : State) (a b c d : Nat) (w : BitVec 256) : (s.setTable a b c d w).full = s.full := rfl
@[simp] theorem State.setTable_bad (s : State) (a b c d : Nat) (w : BitVec 256) : (s.setTable a b c d w).bad = s.bad := rfl
@[simp] theorem State.setTable_hub (s : State) (a b c d : Nat) (w : BitVec 256) : (s.setTable a b c d w).hub = s.hub := rfl
@[simp] theorem State.setTable_behind (s : State) (a b c d : Nat) (w : BitVec 256) : (s.setTable a b c d w).behind = s.behind := rfl
@[simp] theorem State.setTable_cores (s : State) (a b c d : Nat) (w : BitVec 256) : (s.setTable a b c d w).cores = s.cores := rfl
@[simp] theorem State.setTable_dies (s : State) (a b c d : Nat) (w : BitVec 256) : (s.setTable a b c d w).dies = s.dies := rfl
@[simp] theorem State.setTable_clusters (s : State) (a b c d : Nat) (w : BitVec 256) : (s.setTable a b c d w).clusters = s.clusters := rfl
@[simp] theorem State.setTable_loans (s : State) (a b c d : Nat) (w : BitVec 256) : (s.setTable a b c d w).loans = s.loans := rfl
@[simp] theorem State.setTable_boosts (s : State) (a b c d : Nat) (w : BitVec 256) : (s.setTable a b c d w).boosts = s.boosts := rfl
@[simp] theorem State.setTable_launches (s : State) (a b c d : Nat) (w : BitVec 256) : (s.setTable a b c d w).launches = s.launches := rfl
@[simp] theorem State.setTable_domains (s : State) (a b c d : Nat) (w : BitVec 256) : (s.setTable a b c d w).domains = s.domains := rfl
@[simp] theorem State.setTable_ctxs (s : State) (a b c d : Nat) (w : BitVec 256) : (s.setTable a b c d w).ctxs = s.ctxs := rfl
@[simp] theorem State.setTable_rings (s : State) (a b c d : Nat) (w : BitVec 256) : (s.setTable a b c d w).rings = s.rings := rfl
@[simp] theorem State.setTable_monitors (s : State) (a b c d : Nat) (w : BitVec 256) : (s.setTable a b c d w).monitors = s.monitors := rfl
@[simp] theorem State.setTable_feWaiters (s : State) (a b c d : Nat) (w : BitVec 256) : (s.setTable a b c d w).feWaiters = s.feWaiters := rfl
@[simp] theorem State.setTable_recvWaiters (s : State) (a b c d : Nat) (w : BitVec 256) : (s.setTable a b c d w).recvWaiters = s.recvWaiters := rfl
@[simp] theorem State.setTable_unit0 (s : State) (a b c d : Nat) (w : BitVec 256) : (s.setTable a b c d w).unit0 = s.unit0 := rfl
@[simp] theorem State.setTable_unit1 (s : State) (a b c d : Nat) (w : BitVec 256) : (s.setTable a b c d w).unit1 = s.unit1 := rfl
@[simp] theorem State.setTable_systvec (s : State) (a b c d : Nat) (w : BitVec 256) : (s.setTable a b c d w).systvec = s.systvec := rfl
@[simp] theorem State.setTable_devfeat (s : State) (a b c d : Nat) (w : BitVec 256) : (s.setTable a b c d w).devfeat = s.devfeat := rfl
@[simp] theorem State.setTable_devrev (s : State) (a b c d : Nat) (w : BitVec 256) : (s.setTable a b c d w).devrev = s.devrev := rfl
@[simp] theorem State.setTable_pdefault (s : State) (a b c d : Nat) (w : BitVec 256) : (s.setTable a b c d w).pdefault = s.pdefault := rfl
@[simp] theorem State.setTable_sysArb (s : State) (a b c d : Nat) (w : BitVec 256) : (s.setTable a b c d w).sysArb = s.sysArb := rfl
@[simp] theorem State.setTable_sysArs (s : State) (a b c d : Nat) (w : BitVec 256) : (s.setTable a b c d w).sysArs = s.sysArs := rfl
@[simp] theorem State.setTable_dtime (s : State) (a b c d : Nat) (w : BitVec 256) : (s.setTable a b c d w).dtime = s.dtime := rfl
@[simp] theorem State.setTable_bootTime (s : State) (a b c d : Nat) (w : BitVec 256) : (s.setTable a b c d w).bootTime = s.bootTime := rfl
@[simp] theorem State.setTable_throttle (s : State) (a b c d : Nat) (w : BitVec 256) : (s.setTable a b c d w).throttle = s.throttle := rfl
@[simp] theorem State.setTable_links (s : State) (a b c d : Nat) (w : BitVec 256) : (s.setTable a b c d w).links = s.links := rfl
@[simp] theorem State.setTable_manifest (s : State) (a b c d : Nat) (w : BitVec 256) : (s.setTable a b c d w).manifest = s.manifest := rfl
@[simp] theorem State.setTable_flash (s : State) (a b c d : Nat) (w : BitVec 256) : (s.setTable a b c d w).flash = s.flash := rfl
@[simp] theorem State.setTable_capacity (s : State) (a b c d : Nat) (w : BitVec 256) : (s.setTable a b c d w).capacity = s.capacity := rfl
@[simp] theorem State.setTable_peers (s : State) (a b c d : Nat) (w : BitVec 256) : (s.setTable a b c d w).peers = s.peers := rfl
@[simp] theorem State.setTable_failing (s : State) (a b c d : Nat) (w : BitVec 256) : (s.setTable a b c d w).failing = s.failing := rfl
@[simp] theorem State.setTable_held (s : State) (a b c d : Nat) (w : BitVec 256) : (s.setTable a b c d w).held = s.held := rfl
@[simp] theorem State.setTable_agenda (s : State) (a b c d : Nat) (w : BitVec 256) : (s.setTable a b c d w).agenda = s.agenda := rfl
@[simp] theorem State.setTable_streak (s : State) (a b c d : Nat) (w : BitVec 256) : (s.setTable a b c d w).streak = s.streak := rfl
@[simp] theorem State.setTable_inputs (s : State) (a b c d : Nat) (w : BitVec 256) : (s.setTable a b c d w).inputs = s.inputs := rfl
@[simp] theorem State.setTable_free (s : State) (a b c d : Nat) (w : BitVec 256) : (s.setTable a b c d w).free = s.free := rfl

/-! ### count -/

@[simp] theorem State.count_blend (s : State) (n k : Nat) : (s.count n k).blend = s.blend := rfl
@[simp] theorem State.count_cur (s : State) (n k : Nat) : (s.count n k).cur = s.cur := rfl
@[simp] theorem State.count_threads (s : State) (n k : Nat) : (s.count n k).threads = s.threads := rfl
@[simp] theorem State.count_mem (s : State) (n k : Nat) : (s.count n k).mem = s.mem := rfl
@[simp] theorem State.count_full (s : State) (n k : Nat) : (s.count n k).full = s.full := rfl
@[simp] theorem State.count_bad (s : State) (n k : Nat) : (s.count n k).bad = s.bad := rfl
@[simp] theorem State.count_hub (s : State) (n k : Nat) : (s.count n k).hub = s.hub := rfl
@[simp] theorem State.count_behind (s : State) (n k : Nat) : (s.count n k).behind = s.behind := rfl
@[simp] theorem State.count_dies (s : State) (n k : Nat) : (s.count n k).dies = s.dies := rfl
@[simp] theorem State.count_clusters (s : State) (n k : Nat) : (s.count n k).clusters = s.clusters := rfl
@[simp] theorem State.count_loans (s : State) (n k : Nat) : (s.count n k).loans = s.loans := rfl
@[simp] theorem State.count_boosts (s : State) (n k : Nat) : (s.count n k).boosts = s.boosts := rfl
@[simp] theorem State.count_launches (s : State) (n k : Nat) : (s.count n k).launches = s.launches := rfl
@[simp] theorem State.count_domains (s : State) (n k : Nat) : (s.count n k).domains = s.domains := rfl
@[simp] theorem State.count_ctxs (s : State) (n k : Nat) : (s.count n k).ctxs = s.ctxs := rfl
@[simp] theorem State.count_rings (s : State) (n k : Nat) : (s.count n k).rings = s.rings := rfl
@[simp] theorem State.count_tables (s : State) (n k : Nat) : (s.count n k).tables = s.tables := rfl
@[simp] theorem State.count_monitors (s : State) (n k : Nat) : (s.count n k).monitors = s.monitors := rfl
@[simp] theorem State.count_feWaiters (s : State) (n k : Nat) : (s.count n k).feWaiters = s.feWaiters := rfl
@[simp] theorem State.count_recvWaiters (s : State) (n k : Nat) : (s.count n k).recvWaiters = s.recvWaiters := rfl
@[simp] theorem State.count_unit0 (s : State) (n k : Nat) : (s.count n k).unit0 = s.unit0 := rfl
@[simp] theorem State.count_unit1 (s : State) (n k : Nat) : (s.count n k).unit1 = s.unit1 := rfl
@[simp] theorem State.count_systvec (s : State) (n k : Nat) : (s.count n k).systvec = s.systvec := rfl
@[simp] theorem State.count_devfeat (s : State) (n k : Nat) : (s.count n k).devfeat = s.devfeat := rfl
@[simp] theorem State.count_devrev (s : State) (n k : Nat) : (s.count n k).devrev = s.devrev := rfl
@[simp] theorem State.count_pdefault (s : State) (n k : Nat) : (s.count n k).pdefault = s.pdefault := rfl
@[simp] theorem State.count_sysArb (s : State) (n k : Nat) : (s.count n k).sysArb = s.sysArb := rfl
@[simp] theorem State.count_sysArs (s : State) (n k : Nat) : (s.count n k).sysArs = s.sysArs := rfl
@[simp] theorem State.count_dtime (s : State) (n k : Nat) : (s.count n k).dtime = s.dtime := rfl
@[simp] theorem State.count_bootTime (s : State) (n k : Nat) : (s.count n k).bootTime = s.bootTime := rfl
@[simp] theorem State.count_throttle (s : State) (n k : Nat) : (s.count n k).throttle = s.throttle := rfl
@[simp] theorem State.count_links (s : State) (n k : Nat) : (s.count n k).links = s.links := rfl
@[simp] theorem State.count_manifest (s : State) (n k : Nat) : (s.count n k).manifest = s.manifest := rfl
@[simp] theorem State.count_flash (s : State) (n k : Nat) : (s.count n k).flash = s.flash := rfl
@[simp] theorem State.count_capacity (s : State) (n k : Nat) : (s.count n k).capacity = s.capacity := rfl
@[simp] theorem State.count_peers (s : State) (n k : Nat) : (s.count n k).peers = s.peers := rfl
@[simp] theorem State.count_failing (s : State) (n k : Nat) : (s.count n k).failing = s.failing := rfl
@[simp] theorem State.count_held (s : State) (n k : Nat) : (s.count n k).held = s.held := rfl
@[simp] theorem State.count_agenda (s : State) (n k : Nat) : (s.count n k).agenda = s.agenda := rfl
@[simp] theorem State.count_streak (s : State) (n k : Nat) : (s.count n k).streak = s.streak := rfl
@[simp] theorem State.count_inputs (s : State) (n k : Nat) : (s.count n k).inputs = s.inputs := rfl
@[simp] theorem State.count_free (s : State) (n k : Nat) : (s.count n k).free = s.free := rfl

/-! ### Thread.setV -/

@[simp] theorem Thread.setV_ctx (t : Thread) (r : BitVec 5) (x : VReg) : (t.setV r x).ctx = t.ctx := rfl
@[simp] theorem Thread.setV_tid (t : Thread) (r : BitVec 5) (x : VReg) : (t.setV r x).tid = t.tid := rfl
@[simp] theorem Thread.setV_launch (t : Thread) (r : BitVec 5) (x : VReg) : (t.setV r x).launch = t.launch := rfl
@[simp] theorem Thread.setV_index (t : Thread) (r : BitVec 5) (x : VReg) : (t.setV r x).index = t.index := rfl
@[simp] theorem Thread.setV_core (t : Thread) (r : BitVec 5) (x : VReg) : (t.setV r x).core = t.core := rfl
@[simp] theorem Thread.setV_slot (t : Thread) (r : BitVec 5) (x : VReg) : (t.setV r x).slot = t.slot := rfl
@[simp] theorem Thread.setV_run (t : Thread) (r : BitVec 5) (x : VReg) : (t.setV r x).run = t.run := rfl
@[simp] theorem Thread.setV_pc (t : Thread) (r : BitVec 5) (x : VReg) : (t.setV r x).pc = t.pc := rfl
@[simp] theorem Thread.setV_s (t : Thread) (r : BitVec 5) (x : VReg) : (t.setV r x).s = t.s := rfl
@[simp] theorem Thread.setV_poison (t : Thread) (r : BitVec 5) (x : VReg) : (t.setV r x).poison = t.poison := rfl
@[simp] theorem Thread.setV_pw (t : Thread) (r : BitVec 5) (x : VReg) : (t.setV r x).pw = t.pw := rfl
@[simp] theorem Thread.setV_m (t : Thread) (r : BitVec 5) (x : VReg) : (t.setV r x).m = t.m := rfl
@[simp] theorem Thread.setV_vl (t : Thread) (r : BitVec 5) (x : VReg) : (t.setV r x).vl = t.vl := rfl
@[simp] theorem Thread.setV_vspace (t : Thread) (r : BitVec 5) (x : VReg) : (t.setV r x).vspace = t.vspace := rfl
@[simp] theorem Thread.setV_vfill (t : Thread) (r : BitVec 5) (x : VReg) : (t.setV r x).vfill = t.vfill := rfl
@[simp] theorem Thread.setV_vesr (t : Thread) (r : BitVec 5) (x : VReg) : (t.setV r x).vesr = t.vesr := rfl
@[simp] theorem Thread.setV_tshape (t : Thread) (r : BitVec 5) (x : VReg) : (t.setV r x).tshape = t.tshape := rfl
@[simp] theorem Thread.setV_tstat (t : Thread) (r : BitVec 5) (x : VReg) : (t.setV r x).tstat = t.tstat := rfl
@[simp] theorem Thread.setV_trpc (t : Thread) (r : BitVec 5) (x : VReg) : (t.setV r x).trpc = t.trpc := rfl
@[simp] theorem Thread.setV_trcause (t : Thread) (r : BitVec 5) (x : VReg) : (t.setV r x).trcause = t.trcause := rfl
@[simp] theorem Thread.setV_trval (t : Thread) (r : BitVec 5) (x : VReg) : (t.setV r x).trval = t.trval := rfl
@[simp] theorem Thread.setV_trelem (t : Thread) (r : BitVec 5) (x : VReg) : (t.setV r x).trelem = t.trelem := rfl
@[simp] theorem Thread.setV_trvec (t : Thread) (r : BitVec 5) (x : VReg) : (t.setV r x).trvec = t.trvec := rfl
@[simp] theorem Thread.setV_xferid (t : Thread) (r : BitVec 5) (x : VReg) : (t.setV r x).xferid = t.xferid := rfl
@[simp] theorem Thread.setV_ulipc (t : Thread) (r : BitVec 5) (x : VReg) : (t.setV r x).ulipc = t.ulipc := rfl
@[simp] theorem Thread.setV_dom (t : Thread) (r : BitVec 5) (x : VReg) : (t.setV r x).dom = t.dom := rfl
@[simp] theorem Thread.setV_sc (t : Thread) (r : BitVec 5) (x : VReg) : (t.setV r x).sc = t.sc := rfl
@[simp] theorem Thread.setV_latch (t : Thread) (r : BitVec 5) (x : VReg) : (t.setV r x).latch = t.latch := rfl
@[simp] theorem Thread.setV_pending (t : Thread) (r : BitVec 5) (x : VReg) : (t.setV r x).pending = t.pending := rfl
@[simp] theorem Thread.setV_scbusy (t : Thread) (r : BitVec 5) (x : VReg) : (t.setV r x).scbusy = t.scbusy := rfl
@[simp] theorem Thread.setV_scAway (t : Thread) (r : BitVec 5) (x : VReg) : (t.setV r x).scAway = t.scAway := rfl
@[simp] theorem Thread.setV_convoy (t : Thread) (r : BitVec 5) (x : VReg) : (t.setV r x).convoy = t.convoy := rfl
@[simp] theorem Thread.setV_reissue (t : Thread) (r : BitVec 5) (x : VReg) : (t.setV r x).reissue = t.reissue := rfl
@[simp] theorem Thread.setV_vq (t : Thread) (r : BitVec 5) (x : VReg) : (t.setV r x).vq = t.vq := rfl
@[simp] theorem Thread.setV_mq (t : Thread) (r : BitVec 5) (x : VReg) : (t.setV r x).mq = t.mq := rfl
@[simp] theorem Thread.setV_wait (t : Thread) (r : BitVec 5) (x : VReg) : (t.setV r x).wait = t.wait := rfl
@[simp] theorem Thread.setV_stall (t : Thread) (r : BitVec 5) (x : VReg) : (t.setV r x).stall = t.stall := rfl
@[simp] theorem Thread.setV_mig (t : Thread) (r : BitVec 5) (x : VReg) : (t.setV r x).mig = t.mig := rfl
@[simp] theorem Thread.setV_grantFwd (t : Thread) (r : BitVec 5) (x : VReg) : (t.setV r x).grantFwd = t.grantFwd := rfl
@[simp] theorem Thread.setV_saveArea (t : Thread) (r : BitVec 5) (x : VReg) : (t.setV r x).saveArea = t.saveArea := rfl
@[simp] theorem Thread.setV_winInstr (t : Thread) (r : BitVec 5) (x : VReg) : (t.setV r x).winInstr = t.winInstr := rfl
@[simp] theorem Thread.setV_winVec (t : Thread) (r : BitVec 5) (x : VReg) : (t.setV r x).winVec = t.winVec := rfl
@[simp] theorem Thread.setV_winMat (t : Thread) (r : BitVec 5) (x : VReg) : (t.setV r x).winMat = t.winMat := rfl
@[simp] theorem Thread.setV_target (t : Thread) (r : BitVec 5) (x : VReg) : (t.setV r x).target = t.target := rfl
@[simp] theorem Thread.setV_hold (t : Thread) (r : BitVec 5) (x : VReg) : (t.setV r x).hold = t.hold := rfl
@[simp] theorem Thread.setV_bindTime (t : Thread) (r : BitVec 5) (x : VReg) : (t.setV r x).bindTime = t.bindTime := rfl
@[simp] theorem Thread.setV_deadline (t : Thread) (r : BitVec 5) (x : VReg) : (t.setV r x).deadline = t.deadline := rfl
@[simp] theorem Thread.setV_before (t : Thread) (r : BitVec 5) (x : VReg) : (t.setV r x).before = t.before := rfl
@[simp] theorem Thread.setV_restoredRun (t : Thread) (r : BitVec 5) (x : VReg) : (t.setV r x).restoredRun = t.restoredRun := rfl
@[simp] theorem Thread.setV_priority (t : Thread) (r : BitVec 5) (x : VReg) : (t.setV r x).priority = t.priority := rfl
@[simp] theorem Thread.setV_storeErrors (t : Thread) (r : BitVec 5) (x : VReg) : (t.setV r x).storeErrors = t.storeErrors := rfl
@[simp] theorem Thread.setV_leaving (t : Thread) (r : BitVec 5) (x : VReg) : (t.setV r x).leaving = t.leaving := rfl
@[simp] theorem Thread.setV_dying (t : Thread) (r : BitVec 5) (x : VReg) : (t.setV r x).dying = t.dying := rfl

/-! ### Thread.setSt -/

@[simp] theorem Thread.setSt_ctx (t : Thread) (i : Nat) (b : Bool) : (t.setSt i b).ctx = t.ctx := rfl
@[simp] theorem Thread.setSt_tid (t : Thread) (i : Nat) (b : Bool) : (t.setSt i b).tid = t.tid := rfl
@[simp] theorem Thread.setSt_launch (t : Thread) (i : Nat) (b : Bool) : (t.setSt i b).launch = t.launch := rfl
@[simp] theorem Thread.setSt_index (t : Thread) (i : Nat) (b : Bool) : (t.setSt i b).index = t.index := rfl
@[simp] theorem Thread.setSt_core (t : Thread) (i : Nat) (b : Bool) : (t.setSt i b).core = t.core := rfl
@[simp] theorem Thread.setSt_slot (t : Thread) (i : Nat) (b : Bool) : (t.setSt i b).slot = t.slot := rfl
@[simp] theorem Thread.setSt_run (t : Thread) (i : Nat) (b : Bool) : (t.setSt i b).run = t.run := rfl
@[simp] theorem Thread.setSt_pc (t : Thread) (i : Nat) (b : Bool) : (t.setSt i b).pc = t.pc := rfl
@[simp] theorem Thread.setSt_s (t : Thread) (i : Nat) (b : Bool) : (t.setSt i b).s = t.s := rfl
@[simp] theorem Thread.setSt_poison (t : Thread) (i : Nat) (b : Bool) : (t.setSt i b).poison = t.poison := rfl
@[simp] theorem Thread.setSt_pw (t : Thread) (i : Nat) (b : Bool) : (t.setSt i b).pw = t.pw := rfl
@[simp] theorem Thread.setSt_v (t : Thread) (i : Nat) (b : Bool) : (t.setSt i b).v = t.v := rfl
@[simp] theorem Thread.setSt_m (t : Thread) (i : Nat) (b : Bool) : (t.setSt i b).m = t.m := rfl
@[simp] theorem Thread.setSt_vl (t : Thread) (i : Nat) (b : Bool) : (t.setSt i b).vl = t.vl := rfl
@[simp] theorem Thread.setSt_vspace (t : Thread) (i : Nat) (b : Bool) : (t.setSt i b).vspace = t.vspace := rfl
@[simp] theorem Thread.setSt_vfill (t : Thread) (i : Nat) (b : Bool) : (t.setSt i b).vfill = t.vfill := rfl
@[simp] theorem Thread.setSt_vesr (t : Thread) (i : Nat) (b : Bool) : (t.setSt i b).vesr = t.vesr := rfl
@[simp] theorem Thread.setSt_tshape (t : Thread) (i : Nat) (b : Bool) : (t.setSt i b).tshape = t.tshape := rfl
@[simp] theorem Thread.setSt_trpc (t : Thread) (i : Nat) (b : Bool) : (t.setSt i b).trpc = t.trpc := rfl
@[simp] theorem Thread.setSt_trcause (t : Thread) (i : Nat) (b : Bool) : (t.setSt i b).trcause = t.trcause := rfl
@[simp] theorem Thread.setSt_trval (t : Thread) (i : Nat) (b : Bool) : (t.setSt i b).trval = t.trval := rfl
@[simp] theorem Thread.setSt_trelem (t : Thread) (i : Nat) (b : Bool) : (t.setSt i b).trelem = t.trelem := rfl
@[simp] theorem Thread.setSt_trvec (t : Thread) (i : Nat) (b : Bool) : (t.setSt i b).trvec = t.trvec := rfl
@[simp] theorem Thread.setSt_xferid (t : Thread) (i : Nat) (b : Bool) : (t.setSt i b).xferid = t.xferid := rfl
@[simp] theorem Thread.setSt_ulipc (t : Thread) (i : Nat) (b : Bool) : (t.setSt i b).ulipc = t.ulipc := rfl
@[simp] theorem Thread.setSt_dom (t : Thread) (i : Nat) (b : Bool) : (t.setSt i b).dom = t.dom := rfl
@[simp] theorem Thread.setSt_sc (t : Thread) (i : Nat) (b : Bool) : (t.setSt i b).sc = t.sc := rfl
@[simp] theorem Thread.setSt_latch (t : Thread) (i : Nat) (b : Bool) : (t.setSt i b).latch = t.latch := rfl
@[simp] theorem Thread.setSt_pending (t : Thread) (i : Nat) (b : Bool) : (t.setSt i b).pending = t.pending := rfl
@[simp] theorem Thread.setSt_scbusy (t : Thread) (i : Nat) (b : Bool) : (t.setSt i b).scbusy = t.scbusy := rfl
@[simp] theorem Thread.setSt_scAway (t : Thread) (i : Nat) (b : Bool) : (t.setSt i b).scAway = t.scAway := rfl
@[simp] theorem Thread.setSt_convoy (t : Thread) (i : Nat) (b : Bool) : (t.setSt i b).convoy = t.convoy := rfl
@[simp] theorem Thread.setSt_reissue (t : Thread) (i : Nat) (b : Bool) : (t.setSt i b).reissue = t.reissue := rfl
@[simp] theorem Thread.setSt_vq (t : Thread) (i : Nat) (b : Bool) : (t.setSt i b).vq = t.vq := rfl
@[simp] theorem Thread.setSt_mq (t : Thread) (i : Nat) (b : Bool) : (t.setSt i b).mq = t.mq := rfl
@[simp] theorem Thread.setSt_wait (t : Thread) (i : Nat) (b : Bool) : (t.setSt i b).wait = t.wait := rfl
@[simp] theorem Thread.setSt_stall (t : Thread) (i : Nat) (b : Bool) : (t.setSt i b).stall = t.stall := rfl
@[simp] theorem Thread.setSt_mig (t : Thread) (i : Nat) (b : Bool) : (t.setSt i b).mig = t.mig := rfl
@[simp] theorem Thread.setSt_grantFwd (t : Thread) (i : Nat) (b : Bool) : (t.setSt i b).grantFwd = t.grantFwd := rfl
@[simp] theorem Thread.setSt_saveArea (t : Thread) (i : Nat) (b : Bool) : (t.setSt i b).saveArea = t.saveArea := rfl
@[simp] theorem Thread.setSt_winInstr (t : Thread) (i : Nat) (b : Bool) : (t.setSt i b).winInstr = t.winInstr := rfl
@[simp] theorem Thread.setSt_winVec (t : Thread) (i : Nat) (b : Bool) : (t.setSt i b).winVec = t.winVec := rfl
@[simp] theorem Thread.setSt_winMat (t : Thread) (i : Nat) (b : Bool) : (t.setSt i b).winMat = t.winMat := rfl
@[simp] theorem Thread.setSt_target (t : Thread) (i : Nat) (b : Bool) : (t.setSt i b).target = t.target := rfl
@[simp] theorem Thread.setSt_hold (t : Thread) (i : Nat) (b : Bool) : (t.setSt i b).hold = t.hold := rfl
@[simp] theorem Thread.setSt_bindTime (t : Thread) (i : Nat) (b : Bool) : (t.setSt i b).bindTime = t.bindTime := rfl
@[simp] theorem Thread.setSt_deadline (t : Thread) (i : Nat) (b : Bool) : (t.setSt i b).deadline = t.deadline := rfl
@[simp] theorem Thread.setSt_before (t : Thread) (i : Nat) (b : Bool) : (t.setSt i b).before = t.before := rfl
@[simp] theorem Thread.setSt_restoredRun (t : Thread) (i : Nat) (b : Bool) : (t.setSt i b).restoredRun = t.restoredRun := rfl
@[simp] theorem Thread.setSt_priority (t : Thread) (i : Nat) (b : Bool) : (t.setSt i b).priority = t.priority := rfl
@[simp] theorem Thread.setSt_storeErrors (t : Thread) (i : Nat) (b : Bool) : (t.setSt i b).storeErrors = t.storeErrors := rfl
@[simp] theorem Thread.setSt_leaving (t : Thread) (i : Nat) (b : Bool) : (t.setSt i b).leaving = t.leaving := rfl
@[simp] theorem Thread.setSt_dying (t : Thread) (i : Nat) (b : Bool) : (t.setSt i b).dying = t.dying := rfl

/-! ### Thread.orFlags -/

@[simp] theorem Thread.orFlags_ctx (t : Thread) (f : BitVec 6) : (t.orFlags f).ctx = t.ctx := rfl
@[simp] theorem Thread.orFlags_tid (t : Thread) (f : BitVec 6) : (t.orFlags f).tid = t.tid := rfl
@[simp] theorem Thread.orFlags_launch (t : Thread) (f : BitVec 6) : (t.orFlags f).launch = t.launch := rfl
@[simp] theorem Thread.orFlags_index (t : Thread) (f : BitVec 6) : (t.orFlags f).index = t.index := rfl
@[simp] theorem Thread.orFlags_core (t : Thread) (f : BitVec 6) : (t.orFlags f).core = t.core := rfl
@[simp] theorem Thread.orFlags_slot (t : Thread) (f : BitVec 6) : (t.orFlags f).slot = t.slot := rfl
@[simp] theorem Thread.orFlags_run (t : Thread) (f : BitVec 6) : (t.orFlags f).run = t.run := rfl
@[simp] theorem Thread.orFlags_pc (t : Thread) (f : BitVec 6) : (t.orFlags f).pc = t.pc := rfl
@[simp] theorem Thread.orFlags_s (t : Thread) (f : BitVec 6) : (t.orFlags f).s = t.s := rfl
@[simp] theorem Thread.orFlags_poison (t : Thread) (f : BitVec 6) : (t.orFlags f).poison = t.poison := rfl
@[simp] theorem Thread.orFlags_pw (t : Thread) (f : BitVec 6) : (t.orFlags f).pw = t.pw := rfl
@[simp] theorem Thread.orFlags_v (t : Thread) (f : BitVec 6) : (t.orFlags f).v = t.v := rfl
@[simp] theorem Thread.orFlags_m (t : Thread) (f : BitVec 6) : (t.orFlags f).m = t.m := rfl
@[simp] theorem Thread.orFlags_vl (t : Thread) (f : BitVec 6) : (t.orFlags f).vl = t.vl := rfl
@[simp] theorem Thread.orFlags_vspace (t : Thread) (f : BitVec 6) : (t.orFlags f).vspace = t.vspace := rfl
@[simp] theorem Thread.orFlags_vfill (t : Thread) (f : BitVec 6) : (t.orFlags f).vfill = t.vfill := rfl
@[simp] theorem Thread.orFlags_vesr (t : Thread) (f : BitVec 6) : (t.orFlags f).vesr = t.vesr := rfl
@[simp] theorem Thread.orFlags_tshape (t : Thread) (f : BitVec 6) : (t.orFlags f).tshape = t.tshape := rfl
@[simp] theorem Thread.orFlags_trpc (t : Thread) (f : BitVec 6) : (t.orFlags f).trpc = t.trpc := rfl
@[simp] theorem Thread.orFlags_trcause (t : Thread) (f : BitVec 6) : (t.orFlags f).trcause = t.trcause := rfl
@[simp] theorem Thread.orFlags_trval (t : Thread) (f : BitVec 6) : (t.orFlags f).trval = t.trval := rfl
@[simp] theorem Thread.orFlags_trelem (t : Thread) (f : BitVec 6) : (t.orFlags f).trelem = t.trelem := rfl
@[simp] theorem Thread.orFlags_trvec (t : Thread) (f : BitVec 6) : (t.orFlags f).trvec = t.trvec := rfl
@[simp] theorem Thread.orFlags_xferid (t : Thread) (f : BitVec 6) : (t.orFlags f).xferid = t.xferid := rfl
@[simp] theorem Thread.orFlags_ulipc (t : Thread) (f : BitVec 6) : (t.orFlags f).ulipc = t.ulipc := rfl
@[simp] theorem Thread.orFlags_dom (t : Thread) (f : BitVec 6) : (t.orFlags f).dom = t.dom := rfl
@[simp] theorem Thread.orFlags_sc (t : Thread) (f : BitVec 6) : (t.orFlags f).sc = t.sc := rfl
@[simp] theorem Thread.orFlags_latch (t : Thread) (f : BitVec 6) : (t.orFlags f).latch = t.latch := rfl
@[simp] theorem Thread.orFlags_pending (t : Thread) (f : BitVec 6) : (t.orFlags f).pending = t.pending := rfl
@[simp] theorem Thread.orFlags_scbusy (t : Thread) (f : BitVec 6) : (t.orFlags f).scbusy = t.scbusy := rfl
@[simp] theorem Thread.orFlags_scAway (t : Thread) (f : BitVec 6) : (t.orFlags f).scAway = t.scAway := rfl
@[simp] theorem Thread.orFlags_convoy (t : Thread) (f : BitVec 6) : (t.orFlags f).convoy = t.convoy := rfl
@[simp] theorem Thread.orFlags_reissue (t : Thread) (f : BitVec 6) : (t.orFlags f).reissue = t.reissue := rfl
@[simp] theorem Thread.orFlags_vq (t : Thread) (f : BitVec 6) : (t.orFlags f).vq = t.vq := rfl
@[simp] theorem Thread.orFlags_mq (t : Thread) (f : BitVec 6) : (t.orFlags f).mq = t.mq := rfl
@[simp] theorem Thread.orFlags_wait (t : Thread) (f : BitVec 6) : (t.orFlags f).wait = t.wait := rfl
@[simp] theorem Thread.orFlags_stall (t : Thread) (f : BitVec 6) : (t.orFlags f).stall = t.stall := rfl
@[simp] theorem Thread.orFlags_mig (t : Thread) (f : BitVec 6) : (t.orFlags f).mig = t.mig := rfl
@[simp] theorem Thread.orFlags_grantFwd (t : Thread) (f : BitVec 6) : (t.orFlags f).grantFwd = t.grantFwd := rfl
@[simp] theorem Thread.orFlags_saveArea (t : Thread) (f : BitVec 6) : (t.orFlags f).saveArea = t.saveArea := rfl
@[simp] theorem Thread.orFlags_winInstr (t : Thread) (f : BitVec 6) : (t.orFlags f).winInstr = t.winInstr := rfl
@[simp] theorem Thread.orFlags_winVec (t : Thread) (f : BitVec 6) : (t.orFlags f).winVec = t.winVec := rfl
@[simp] theorem Thread.orFlags_winMat (t : Thread) (f : BitVec 6) : (t.orFlags f).winMat = t.winMat := rfl
@[simp] theorem Thread.orFlags_target (t : Thread) (f : BitVec 6) : (t.orFlags f).target = t.target := rfl
@[simp] theorem Thread.orFlags_hold (t : Thread) (f : BitVec 6) : (t.orFlags f).hold = t.hold := rfl
@[simp] theorem Thread.orFlags_bindTime (t : Thread) (f : BitVec 6) : (t.orFlags f).bindTime = t.bindTime := rfl
@[simp] theorem Thread.orFlags_deadline (t : Thread) (f : BitVec 6) : (t.orFlags f).deadline = t.deadline := rfl
@[simp] theorem Thread.orFlags_before (t : Thread) (f : BitVec 6) : (t.orFlags f).before = t.before := rfl
@[simp] theorem Thread.orFlags_restoredRun (t : Thread) (f : BitVec 6) : (t.orFlags f).restoredRun = t.restoredRun := rfl
@[simp] theorem Thread.orFlags_priority (t : Thread) (f : BitVec 6) : (t.orFlags f).priority = t.priority := rfl
@[simp] theorem Thread.orFlags_storeErrors (t : Thread) (f : BitVec 6) : (t.orFlags f).storeErrors = t.storeErrors := rfl
@[simp] theorem Thread.orFlags_leaving (t : Thread) (f : BitVec 6) : (t.orFlags f).leaving = t.leaving := rfl
@[simp] theorem Thread.orFlags_dying (t : Thread) (f : BitVec 6) : (t.orFlags f).dying = t.dying := rfl

/-! ### Thread.drain -/

@[simp] theorem Thread.drain_ctx (t : Thread) : (t.drain).ctx = t.ctx := rfl
@[simp] theorem Thread.drain_tid (t : Thread) : (t.drain).tid = t.tid := rfl
@[simp] theorem Thread.drain_launch (t : Thread) : (t.drain).launch = t.launch := rfl
@[simp] theorem Thread.drain_index (t : Thread) : (t.drain).index = t.index := rfl
@[simp] theorem Thread.drain_core (t : Thread) : (t.drain).core = t.core := rfl
@[simp] theorem Thread.drain_slot (t : Thread) : (t.drain).slot = t.slot := rfl
@[simp] theorem Thread.drain_run (t : Thread) : (t.drain).run = t.run := rfl
@[simp] theorem Thread.drain_pc (t : Thread) : (t.drain).pc = t.pc := rfl
@[simp] theorem Thread.drain_s (t : Thread) : (t.drain).s = t.s := rfl
@[simp] theorem Thread.drain_poison (t : Thread) : (t.drain).poison = t.poison := rfl
@[simp] theorem Thread.drain_pw (t : Thread) : (t.drain).pw = t.pw := rfl
@[simp] theorem Thread.drain_v (t : Thread) : (t.drain).v = t.v := rfl
@[simp] theorem Thread.drain_m (t : Thread) : (t.drain).m = t.m := rfl
@[simp] theorem Thread.drain_vl (t : Thread) : (t.drain).vl = t.vl := rfl
@[simp] theorem Thread.drain_vspace (t : Thread) : (t.drain).vspace = t.vspace := rfl
@[simp] theorem Thread.drain_vfill (t : Thread) : (t.drain).vfill = t.vfill := rfl
@[simp] theorem Thread.drain_vesr (t : Thread) : (t.drain).vesr = t.vesr := rfl
@[simp] theorem Thread.drain_tshape (t : Thread) : (t.drain).tshape = t.tshape := rfl
@[simp] theorem Thread.drain_trpc (t : Thread) : (t.drain).trpc = t.trpc := rfl
@[simp] theorem Thread.drain_trcause (t : Thread) : (t.drain).trcause = t.trcause := rfl
@[simp] theorem Thread.drain_trval (t : Thread) : (t.drain).trval = t.trval := rfl
@[simp] theorem Thread.drain_trelem (t : Thread) : (t.drain).trelem = t.trelem := rfl
@[simp] theorem Thread.drain_trvec (t : Thread) : (t.drain).trvec = t.trvec := rfl
@[simp] theorem Thread.drain_xferid (t : Thread) : (t.drain).xferid = t.xferid := rfl
@[simp] theorem Thread.drain_ulipc (t : Thread) : (t.drain).ulipc = t.ulipc := rfl
@[simp] theorem Thread.drain_dom (t : Thread) : (t.drain).dom = t.dom := rfl
@[simp] theorem Thread.drain_sc (t : Thread) : (t.drain).sc = t.sc := rfl
@[simp] theorem Thread.drain_latch (t : Thread) : (t.drain).latch = t.latch := rfl
@[simp] theorem Thread.drain_pending (t : Thread) : (t.drain).pending = t.pending := rfl
@[simp] theorem Thread.drain_scbusy (t : Thread) : (t.drain).scbusy = t.scbusy := rfl
@[simp] theorem Thread.drain_scAway (t : Thread) : (t.drain).scAway = t.scAway := rfl
@[simp] theorem Thread.drain_convoy (t : Thread) : (t.drain).convoy = t.convoy := rfl
@[simp] theorem Thread.drain_reissue (t : Thread) : (t.drain).reissue = t.reissue := rfl
@[simp] theorem Thread.drain_wait (t : Thread) : (t.drain).wait = t.wait := rfl
@[simp] theorem Thread.drain_stall (t : Thread) : (t.drain).stall = t.stall := rfl
@[simp] theorem Thread.drain_mig (t : Thread) : (t.drain).mig = t.mig := rfl
@[simp] theorem Thread.drain_grantFwd (t : Thread) : (t.drain).grantFwd = t.grantFwd := rfl
@[simp] theorem Thread.drain_saveArea (t : Thread) : (t.drain).saveArea = t.saveArea := rfl
@[simp] theorem Thread.drain_winInstr (t : Thread) : (t.drain).winInstr = t.winInstr := rfl
@[simp] theorem Thread.drain_winVec (t : Thread) : (t.drain).winVec = t.winVec := rfl
@[simp] theorem Thread.drain_winMat (t : Thread) : (t.drain).winMat = t.winMat := rfl
@[simp] theorem Thread.drain_target (t : Thread) : (t.drain).target = t.target := rfl
@[simp] theorem Thread.drain_hold (t : Thread) : (t.drain).hold = t.hold := rfl
@[simp] theorem Thread.drain_bindTime (t : Thread) : (t.drain).bindTime = t.bindTime := rfl
@[simp] theorem Thread.drain_deadline (t : Thread) : (t.drain).deadline = t.deadline := rfl
@[simp] theorem Thread.drain_before (t : Thread) : (t.drain).before = t.before := rfl
@[simp] theorem Thread.drain_restoredRun (t : Thread) : (t.drain).restoredRun = t.restoredRun := rfl
@[simp] theorem Thread.drain_priority (t : Thread) : (t.drain).priority = t.priority := rfl
@[simp] theorem Thread.drain_storeErrors (t : Thread) : (t.drain).storeErrors = t.storeErrors := rfl
@[simp] theorem Thread.drain_leaving (t : Thread) : (t.drain).leaving = t.leaving := rfl
@[simp] theorem Thread.drain_dying (t : Thread) : (t.drain).dying = t.dying := rfl

/-! ### Thread.retire -/

@[simp] theorem Thread.retire_ctx (t : Thread) (m : Nat) : (t.retire m).ctx = t.ctx := rfl
@[simp] theorem Thread.retire_tid (t : Thread) (m : Nat) : (t.retire m).tid = t.tid := rfl
@[simp] theorem Thread.retire_launch (t : Thread) (m : Nat) : (t.retire m).launch = t.launch := rfl
@[simp] theorem Thread.retire_index (t : Thread) (m : Nat) : (t.retire m).index = t.index := rfl
@[simp] theorem Thread.retire_core (t : Thread) (m : Nat) : (t.retire m).core = t.core := rfl
@[simp] theorem Thread.retire_slot (t : Thread) (m : Nat) : (t.retire m).slot = t.slot := rfl
@[simp] theorem Thread.retire_run (t : Thread) (m : Nat) : (t.retire m).run = t.run := rfl
@[simp] theorem Thread.retire_pc (t : Thread) (m : Nat) : (t.retire m).pc = t.pc := rfl
@[simp] theorem Thread.retire_s (t : Thread) (m : Nat) : (t.retire m).s = t.s := rfl
@[simp] theorem Thread.retire_poison (t : Thread) (m : Nat) : (t.retire m).poison = t.poison := rfl
@[simp] theorem Thread.retire_pw (t : Thread) (m : Nat) : (t.retire m).pw = t.pw := rfl
@[simp] theorem Thread.retire_v (t : Thread) (m : Nat) : (t.retire m).v = t.v := rfl
@[simp] theorem Thread.retire_m (t : Thread) (m : Nat) : (t.retire m).m = t.m := rfl
@[simp] theorem Thread.retire_vl (t : Thread) (m : Nat) : (t.retire m).vl = t.vl := rfl
@[simp] theorem Thread.retire_vspace (t : Thread) (m : Nat) : (t.retire m).vspace = t.vspace := rfl
@[simp] theorem Thread.retire_vfill (t : Thread) (m : Nat) : (t.retire m).vfill = t.vfill := rfl
@[simp] theorem Thread.retire_tshape (t : Thread) (m : Nat) : (t.retire m).tshape = t.tshape := rfl
@[simp] theorem Thread.retire_tstat (t : Thread) (m : Nat) : (t.retire m).tstat = t.tstat := rfl
@[simp] theorem Thread.retire_trpc (t : Thread) (m : Nat) : (t.retire m).trpc = t.trpc := rfl
@[simp] theorem Thread.retire_trcause (t : Thread) (m : Nat) : (t.retire m).trcause = t.trcause := rfl
@[simp] theorem Thread.retire_trval (t : Thread) (m : Nat) : (t.retire m).trval = t.trval := rfl
@[simp] theorem Thread.retire_trelem (t : Thread) (m : Nat) : (t.retire m).trelem = t.trelem := rfl
@[simp] theorem Thread.retire_trvec (t : Thread) (m : Nat) : (t.retire m).trvec = t.trvec := rfl
@[simp] theorem Thread.retire_xferid (t : Thread) (m : Nat) : (t.retire m).xferid = t.xferid := rfl
@[simp] theorem Thread.retire_ulipc (t : Thread) (m : Nat) : (t.retire m).ulipc = t.ulipc := rfl
@[simp] theorem Thread.retire_dom (t : Thread) (m : Nat) : (t.retire m).dom = t.dom := rfl
@[simp] theorem Thread.retire_sc (t : Thread) (m : Nat) : (t.retire m).sc = t.sc := rfl
@[simp] theorem Thread.retire_pending (t : Thread) (m : Nat) : (t.retire m).pending = t.pending := rfl
@[simp] theorem Thread.retire_scbusy (t : Thread) (m : Nat) : (t.retire m).scbusy = t.scbusy := rfl
@[simp] theorem Thread.retire_scAway (t : Thread) (m : Nat) : (t.retire m).scAway = t.scAway := rfl
@[simp] theorem Thread.retire_convoy (t : Thread) (m : Nat) : (t.retire m).convoy = t.convoy := rfl
@[simp] theorem Thread.retire_reissue (t : Thread) (m : Nat) : (t.retire m).reissue = t.reissue := rfl
@[simp] theorem Thread.retire_vq (t : Thread) (m : Nat) : (t.retire m).vq = t.vq := rfl
@[simp] theorem Thread.retire_mq (t : Thread) (m : Nat) : (t.retire m).mq = t.mq := rfl
@[simp] theorem Thread.retire_wait (t : Thread) (m : Nat) : (t.retire m).wait = t.wait := rfl
@[simp] theorem Thread.retire_stall (t : Thread) (m : Nat) : (t.retire m).stall = t.stall := rfl
@[simp] theorem Thread.retire_mig (t : Thread) (m : Nat) : (t.retire m).mig = t.mig := rfl
@[simp] theorem Thread.retire_grantFwd (t : Thread) (m : Nat) : (t.retire m).grantFwd = t.grantFwd := rfl
@[simp] theorem Thread.retire_saveArea (t : Thread) (m : Nat) : (t.retire m).saveArea = t.saveArea := rfl
@[simp] theorem Thread.retire_target (t : Thread) (m : Nat) : (t.retire m).target = t.target := rfl
@[simp] theorem Thread.retire_hold (t : Thread) (m : Nat) : (t.retire m).hold = t.hold := rfl
@[simp] theorem Thread.retire_bindTime (t : Thread) (m : Nat) : (t.retire m).bindTime = t.bindTime := rfl
@[simp] theorem Thread.retire_deadline (t : Thread) (m : Nat) : (t.retire m).deadline = t.deadline := rfl
@[simp] theorem Thread.retire_before (t : Thread) (m : Nat) : (t.retire m).before = t.before := rfl
@[simp] theorem Thread.retire_restoredRun (t : Thread) (m : Nat) : (t.retire m).restoredRun = t.restoredRun := rfl
@[simp] theorem Thread.retire_priority (t : Thread) (m : Nat) : (t.retire m).priority = t.priority := rfl
@[simp] theorem Thread.retire_storeErrors (t : Thread) (m : Nat) : (t.retire m).storeErrors = t.storeErrors := rfl
@[simp] theorem Thread.retire_leaving (t : Thread) (m : Nat) : (t.retire m).leaving = t.leaving := rfl
@[simp] theorem Thread.retire_dying (t : Thread) (m : Nat) : (t.retire m).dying = t.dying := rfl

/-! ### Thread.setS -/

theorem Thread.setS_eq (t : Thread) (r : BitVec 5) (v : Word) (p : Bool) : t.setS r v p = { t with s := (t.setS r v p).s, poison := (t.setS r v p).poison } := by
  unfold Thread.setS
  split <;> rfl
@[simp] theorem Thread.setS_ctx (t : Thread) (r : BitVec 5) (v : Word) (p : Bool) : (t.setS r v p).ctx = t.ctx := by
  rw [Thread.setS_eq]
@[simp] theorem Thread.setS_tid (t : Thread) (r : BitVec 5) (v : Word) (p : Bool) : (t.setS r v p).tid = t.tid := by
  rw [Thread.setS_eq]
@[simp] theorem Thread.setS_launch (t : Thread) (r : BitVec 5) (v : Word) (p : Bool) : (t.setS r v p).launch = t.launch := by
  rw [Thread.setS_eq]
@[simp] theorem Thread.setS_index (t : Thread) (r : BitVec 5) (v : Word) (p : Bool) : (t.setS r v p).index = t.index := by
  rw [Thread.setS_eq]
@[simp] theorem Thread.setS_core (t : Thread) (r : BitVec 5) (v : Word) (p : Bool) : (t.setS r v p).core = t.core := by
  rw [Thread.setS_eq]
@[simp] theorem Thread.setS_slot (t : Thread) (r : BitVec 5) (v : Word) (p : Bool) : (t.setS r v p).slot = t.slot := by
  rw [Thread.setS_eq]
@[simp] theorem Thread.setS_run (t : Thread) (r : BitVec 5) (v : Word) (p : Bool) : (t.setS r v p).run = t.run := by
  rw [Thread.setS_eq]
@[simp] theorem Thread.setS_pc (t : Thread) (r : BitVec 5) (v : Word) (p : Bool) : (t.setS r v p).pc = t.pc := by
  rw [Thread.setS_eq]
@[simp] theorem Thread.setS_pw (t : Thread) (r : BitVec 5) (v : Word) (p : Bool) : (t.setS r v p).pw = t.pw := by
  rw [Thread.setS_eq]
@[simp] theorem Thread.setS_v (t : Thread) (r : BitVec 5) (v : Word) (p : Bool) : (t.setS r v p).v = t.v := by
  rw [Thread.setS_eq]
@[simp] theorem Thread.setS_m (t : Thread) (r : BitVec 5) (v : Word) (p : Bool) : (t.setS r v p).m = t.m := by
  rw [Thread.setS_eq]
@[simp] theorem Thread.setS_vl (t : Thread) (r : BitVec 5) (v : Word) (p : Bool) : (t.setS r v p).vl = t.vl := by
  rw [Thread.setS_eq]
@[simp] theorem Thread.setS_vspace (t : Thread) (r : BitVec 5) (v : Word) (p : Bool) : (t.setS r v p).vspace = t.vspace := by
  rw [Thread.setS_eq]
@[simp] theorem Thread.setS_vfill (t : Thread) (r : BitVec 5) (v : Word) (p : Bool) : (t.setS r v p).vfill = t.vfill := by
  rw [Thread.setS_eq]
@[simp] theorem Thread.setS_vesr (t : Thread) (r : BitVec 5) (v : Word) (p : Bool) : (t.setS r v p).vesr = t.vesr := by
  rw [Thread.setS_eq]
@[simp] theorem Thread.setS_tshape (t : Thread) (r : BitVec 5) (v : Word) (p : Bool) : (t.setS r v p).tshape = t.tshape := by
  rw [Thread.setS_eq]
@[simp] theorem Thread.setS_tstat (t : Thread) (r : BitVec 5) (v : Word) (p : Bool) : (t.setS r v p).tstat = t.tstat := by
  rw [Thread.setS_eq]
@[simp] theorem Thread.setS_trpc (t : Thread) (r : BitVec 5) (v : Word) (p : Bool) : (t.setS r v p).trpc = t.trpc := by
  rw [Thread.setS_eq]
@[simp] theorem Thread.setS_trcause (t : Thread) (r : BitVec 5) (v : Word) (p : Bool) : (t.setS r v p).trcause = t.trcause := by
  rw [Thread.setS_eq]
@[simp] theorem Thread.setS_trval (t : Thread) (r : BitVec 5) (v : Word) (p : Bool) : (t.setS r v p).trval = t.trval := by
  rw [Thread.setS_eq]
@[simp] theorem Thread.setS_trelem (t : Thread) (r : BitVec 5) (v : Word) (p : Bool) : (t.setS r v p).trelem = t.trelem := by
  rw [Thread.setS_eq]
@[simp] theorem Thread.setS_trvec (t : Thread) (r : BitVec 5) (v : Word) (p : Bool) : (t.setS r v p).trvec = t.trvec := by
  rw [Thread.setS_eq]
@[simp] theorem Thread.setS_xferid (t : Thread) (r : BitVec 5) (v : Word) (p : Bool) : (t.setS r v p).xferid = t.xferid := by
  rw [Thread.setS_eq]
@[simp] theorem Thread.setS_ulipc (t : Thread) (r : BitVec 5) (v : Word) (p : Bool) : (t.setS r v p).ulipc = t.ulipc := by
  rw [Thread.setS_eq]
@[simp] theorem Thread.setS_dom (t : Thread) (r : BitVec 5) (v : Word) (p : Bool) : (t.setS r v p).dom = t.dom := by
  rw [Thread.setS_eq]
@[simp] theorem Thread.setS_sc (t : Thread) (r : BitVec 5) (v : Word) (p : Bool) : (t.setS r v p).sc = t.sc := by
  rw [Thread.setS_eq]
@[simp] theorem Thread.setS_latch (t : Thread) (r : BitVec 5) (v : Word) (p : Bool) : (t.setS r v p).latch = t.latch := by
  rw [Thread.setS_eq]
@[simp] theorem Thread.setS_pending (t : Thread) (r : BitVec 5) (v : Word) (p : Bool) : (t.setS r v p).pending = t.pending := by
  rw [Thread.setS_eq]
@[simp] theorem Thread.setS_scbusy (t : Thread) (r : BitVec 5) (v : Word) (p : Bool) : (t.setS r v p).scbusy = t.scbusy := by
  rw [Thread.setS_eq]
@[simp] theorem Thread.setS_scAway (t : Thread) (r : BitVec 5) (v : Word) (p : Bool) : (t.setS r v p).scAway = t.scAway := by
  rw [Thread.setS_eq]
@[simp] theorem Thread.setS_convoy (t : Thread) (r : BitVec 5) (v : Word) (p : Bool) : (t.setS r v p).convoy = t.convoy := by
  rw [Thread.setS_eq]
@[simp] theorem Thread.setS_reissue (t : Thread) (r : BitVec 5) (v : Word) (p : Bool) : (t.setS r v p).reissue = t.reissue := by
  rw [Thread.setS_eq]
@[simp] theorem Thread.setS_vq (t : Thread) (r : BitVec 5) (v : Word) (p : Bool) : (t.setS r v p).vq = t.vq := by
  rw [Thread.setS_eq]
@[simp] theorem Thread.setS_mq (t : Thread) (r : BitVec 5) (v : Word) (p : Bool) : (t.setS r v p).mq = t.mq := by
  rw [Thread.setS_eq]
@[simp] theorem Thread.setS_wait (t : Thread) (r : BitVec 5) (v : Word) (p : Bool) : (t.setS r v p).wait = t.wait := by
  rw [Thread.setS_eq]
@[simp] theorem Thread.setS_stall (t : Thread) (r : BitVec 5) (v : Word) (p : Bool) : (t.setS r v p).stall = t.stall := by
  rw [Thread.setS_eq]
@[simp] theorem Thread.setS_mig (t : Thread) (r : BitVec 5) (v : Word) (p : Bool) : (t.setS r v p).mig = t.mig := by
  rw [Thread.setS_eq]
@[simp] theorem Thread.setS_grantFwd (t : Thread) (r : BitVec 5) (v : Word) (p : Bool) : (t.setS r v p).grantFwd = t.grantFwd := by
  rw [Thread.setS_eq]
@[simp] theorem Thread.setS_saveArea (t : Thread) (r : BitVec 5) (v : Word) (p : Bool) : (t.setS r v p).saveArea = t.saveArea := by
  rw [Thread.setS_eq]
@[simp] theorem Thread.setS_winInstr (t : Thread) (r : BitVec 5) (v : Word) (p : Bool) : (t.setS r v p).winInstr = t.winInstr := by
  rw [Thread.setS_eq]
@[simp] theorem Thread.setS_winVec (t : Thread) (r : BitVec 5) (v : Word) (p : Bool) : (t.setS r v p).winVec = t.winVec := by
  rw [Thread.setS_eq]
@[simp] theorem Thread.setS_winMat (t : Thread) (r : BitVec 5) (v : Word) (p : Bool) : (t.setS r v p).winMat = t.winMat := by
  rw [Thread.setS_eq]
@[simp] theorem Thread.setS_target (t : Thread) (r : BitVec 5) (v : Word) (p : Bool) : (t.setS r v p).target = t.target := by
  rw [Thread.setS_eq]
@[simp] theorem Thread.setS_hold (t : Thread) (r : BitVec 5) (v : Word) (p : Bool) : (t.setS r v p).hold = t.hold := by
  rw [Thread.setS_eq]
@[simp] theorem Thread.setS_bindTime (t : Thread) (r : BitVec 5) (v : Word) (p : Bool) : (t.setS r v p).bindTime = t.bindTime := by
  rw [Thread.setS_eq]
@[simp] theorem Thread.setS_deadline (t : Thread) (r : BitVec 5) (v : Word) (p : Bool) : (t.setS r v p).deadline = t.deadline := by
  rw [Thread.setS_eq]
@[simp] theorem Thread.setS_before (t : Thread) (r : BitVec 5) (v : Word) (p : Bool) : (t.setS r v p).before = t.before := by
  rw [Thread.setS_eq]
@[simp] theorem Thread.setS_restoredRun (t : Thread) (r : BitVec 5) (v : Word) (p : Bool) : (t.setS r v p).restoredRun = t.restoredRun := by
  rw [Thread.setS_eq]
@[simp] theorem Thread.setS_priority (t : Thread) (r : BitVec 5) (v : Word) (p : Bool) : (t.setS r v p).priority = t.priority := by
  rw [Thread.setS_eq]
@[simp] theorem Thread.setS_storeErrors (t : Thread) (r : BitVec 5) (v : Word) (p : Bool) : (t.setS r v p).storeErrors = t.storeErrors := by
  rw [Thread.setS_eq]
@[simp] theorem Thread.setS_leaving (t : Thread) (r : BitVec 5) (v : Word) (p : Bool) : (t.setS r v p).leaving = t.leaving := by
  rw [Thread.setS_eq]
@[simp] theorem Thread.setS_dying (t : Thread) (r : BitVec 5) (v : Word) (p : Bool) : (t.setS r v p).dying = t.dying := by
  rw [Thread.setS_eq]

/-! ### Thread.setP -/

theorem Thread.setP_eq (t : Thread) (n : BitVec 3) (b : Bool) : t.setP n b = { t with pw := (t.setP n b).pw } := by
  unfold Thread.setP
  split <;> rfl
@[simp] theorem Thread.setP_ctx (t : Thread) (n : BitVec 3) (b : Bool) : (t.setP n b).ctx = t.ctx := by
  rw [Thread.setP_eq]
@[simp] theorem Thread.setP_tid (t : Thread) (n : BitVec 3) (b : Bool) : (t.setP n b).tid = t.tid := by
  rw [Thread.setP_eq]
@[simp] theorem Thread.setP_launch (t : Thread) (n : BitVec 3) (b : Bool) : (t.setP n b).launch = t.launch := by
  rw [Thread.setP_eq]
@[simp] theorem Thread.setP_index (t : Thread) (n : BitVec 3) (b : Bool) : (t.setP n b).index = t.index := by
  rw [Thread.setP_eq]
@[simp] theorem Thread.setP_core (t : Thread) (n : BitVec 3) (b : Bool) : (t.setP n b).core = t.core := by
  rw [Thread.setP_eq]
@[simp] theorem Thread.setP_slot (t : Thread) (n : BitVec 3) (b : Bool) : (t.setP n b).slot = t.slot := by
  rw [Thread.setP_eq]
@[simp] theorem Thread.setP_run (t : Thread) (n : BitVec 3) (b : Bool) : (t.setP n b).run = t.run := by
  rw [Thread.setP_eq]
@[simp] theorem Thread.setP_pc (t : Thread) (n : BitVec 3) (b : Bool) : (t.setP n b).pc = t.pc := by
  rw [Thread.setP_eq]
@[simp] theorem Thread.setP_s (t : Thread) (n : BitVec 3) (b : Bool) : (t.setP n b).s = t.s := by
  rw [Thread.setP_eq]
@[simp] theorem Thread.setP_poison (t : Thread) (n : BitVec 3) (b : Bool) : (t.setP n b).poison = t.poison := by
  rw [Thread.setP_eq]
@[simp] theorem Thread.setP_v (t : Thread) (n : BitVec 3) (b : Bool) : (t.setP n b).v = t.v := by
  rw [Thread.setP_eq]
@[simp] theorem Thread.setP_m (t : Thread) (n : BitVec 3) (b : Bool) : (t.setP n b).m = t.m := by
  rw [Thread.setP_eq]
@[simp] theorem Thread.setP_vl (t : Thread) (n : BitVec 3) (b : Bool) : (t.setP n b).vl = t.vl := by
  rw [Thread.setP_eq]
@[simp] theorem Thread.setP_vspace (t : Thread) (n : BitVec 3) (b : Bool) : (t.setP n b).vspace = t.vspace := by
  rw [Thread.setP_eq]
@[simp] theorem Thread.setP_vfill (t : Thread) (n : BitVec 3) (b : Bool) : (t.setP n b).vfill = t.vfill := by
  rw [Thread.setP_eq]
@[simp] theorem Thread.setP_vesr (t : Thread) (n : BitVec 3) (b : Bool) : (t.setP n b).vesr = t.vesr := by
  rw [Thread.setP_eq]
@[simp] theorem Thread.setP_tshape (t : Thread) (n : BitVec 3) (b : Bool) : (t.setP n b).tshape = t.tshape := by
  rw [Thread.setP_eq]
@[simp] theorem Thread.setP_tstat (t : Thread) (n : BitVec 3) (b : Bool) : (t.setP n b).tstat = t.tstat := by
  rw [Thread.setP_eq]
@[simp] theorem Thread.setP_trpc (t : Thread) (n : BitVec 3) (b : Bool) : (t.setP n b).trpc = t.trpc := by
  rw [Thread.setP_eq]
@[simp] theorem Thread.setP_trcause (t : Thread) (n : BitVec 3) (b : Bool) : (t.setP n b).trcause = t.trcause := by
  rw [Thread.setP_eq]
@[simp] theorem Thread.setP_trval (t : Thread) (n : BitVec 3) (b : Bool) : (t.setP n b).trval = t.trval := by
  rw [Thread.setP_eq]
@[simp] theorem Thread.setP_trelem (t : Thread) (n : BitVec 3) (b : Bool) : (t.setP n b).trelem = t.trelem := by
  rw [Thread.setP_eq]
@[simp] theorem Thread.setP_trvec (t : Thread) (n : BitVec 3) (b : Bool) : (t.setP n b).trvec = t.trvec := by
  rw [Thread.setP_eq]
@[simp] theorem Thread.setP_xferid (t : Thread) (n : BitVec 3) (b : Bool) : (t.setP n b).xferid = t.xferid := by
  rw [Thread.setP_eq]
@[simp] theorem Thread.setP_ulipc (t : Thread) (n : BitVec 3) (b : Bool) : (t.setP n b).ulipc = t.ulipc := by
  rw [Thread.setP_eq]
@[simp] theorem Thread.setP_dom (t : Thread) (n : BitVec 3) (b : Bool) : (t.setP n b).dom = t.dom := by
  rw [Thread.setP_eq]
@[simp] theorem Thread.setP_sc (t : Thread) (n : BitVec 3) (b : Bool) : (t.setP n b).sc = t.sc := by
  rw [Thread.setP_eq]
@[simp] theorem Thread.setP_latch (t : Thread) (n : BitVec 3) (b : Bool) : (t.setP n b).latch = t.latch := by
  rw [Thread.setP_eq]
@[simp] theorem Thread.setP_pending (t : Thread) (n : BitVec 3) (b : Bool) : (t.setP n b).pending = t.pending := by
  rw [Thread.setP_eq]
@[simp] theorem Thread.setP_scbusy (t : Thread) (n : BitVec 3) (b : Bool) : (t.setP n b).scbusy = t.scbusy := by
  rw [Thread.setP_eq]
@[simp] theorem Thread.setP_scAway (t : Thread) (n : BitVec 3) (b : Bool) : (t.setP n b).scAway = t.scAway := by
  rw [Thread.setP_eq]
@[simp] theorem Thread.setP_convoy (t : Thread) (n : BitVec 3) (b : Bool) : (t.setP n b).convoy = t.convoy := by
  rw [Thread.setP_eq]
@[simp] theorem Thread.setP_reissue (t : Thread) (n : BitVec 3) (b : Bool) : (t.setP n b).reissue = t.reissue := by
  rw [Thread.setP_eq]
@[simp] theorem Thread.setP_vq (t : Thread) (n : BitVec 3) (b : Bool) : (t.setP n b).vq = t.vq := by
  rw [Thread.setP_eq]
@[simp] theorem Thread.setP_mq (t : Thread) (n : BitVec 3) (b : Bool) : (t.setP n b).mq = t.mq := by
  rw [Thread.setP_eq]
@[simp] theorem Thread.setP_wait (t : Thread) (n : BitVec 3) (b : Bool) : (t.setP n b).wait = t.wait := by
  rw [Thread.setP_eq]
@[simp] theorem Thread.setP_stall (t : Thread) (n : BitVec 3) (b : Bool) : (t.setP n b).stall = t.stall := by
  rw [Thread.setP_eq]
@[simp] theorem Thread.setP_mig (t : Thread) (n : BitVec 3) (b : Bool) : (t.setP n b).mig = t.mig := by
  rw [Thread.setP_eq]
@[simp] theorem Thread.setP_grantFwd (t : Thread) (n : BitVec 3) (b : Bool) : (t.setP n b).grantFwd = t.grantFwd := by
  rw [Thread.setP_eq]
@[simp] theorem Thread.setP_saveArea (t : Thread) (n : BitVec 3) (b : Bool) : (t.setP n b).saveArea = t.saveArea := by
  rw [Thread.setP_eq]
@[simp] theorem Thread.setP_winInstr (t : Thread) (n : BitVec 3) (b : Bool) : (t.setP n b).winInstr = t.winInstr := by
  rw [Thread.setP_eq]
@[simp] theorem Thread.setP_winVec (t : Thread) (n : BitVec 3) (b : Bool) : (t.setP n b).winVec = t.winVec := by
  rw [Thread.setP_eq]
@[simp] theorem Thread.setP_winMat (t : Thread) (n : BitVec 3) (b : Bool) : (t.setP n b).winMat = t.winMat := by
  rw [Thread.setP_eq]
@[simp] theorem Thread.setP_target (t : Thread) (n : BitVec 3) (b : Bool) : (t.setP n b).target = t.target := by
  rw [Thread.setP_eq]
@[simp] theorem Thread.setP_hold (t : Thread) (n : BitVec 3) (b : Bool) : (t.setP n b).hold = t.hold := by
  rw [Thread.setP_eq]
@[simp] theorem Thread.setP_bindTime (t : Thread) (n : BitVec 3) (b : Bool) : (t.setP n b).bindTime = t.bindTime := by
  rw [Thread.setP_eq]
@[simp] theorem Thread.setP_deadline (t : Thread) (n : BitVec 3) (b : Bool) : (t.setP n b).deadline = t.deadline := by
  rw [Thread.setP_eq]
@[simp] theorem Thread.setP_before (t : Thread) (n : BitVec 3) (b : Bool) : (t.setP n b).before = t.before := by
  rw [Thread.setP_eq]
@[simp] theorem Thread.setP_restoredRun (t : Thread) (n : BitVec 3) (b : Bool) : (t.setP n b).restoredRun = t.restoredRun := by
  rw [Thread.setP_eq]
@[simp] theorem Thread.setP_priority (t : Thread) (n : BitVec 3) (b : Bool) : (t.setP n b).priority = t.priority := by
  rw [Thread.setP_eq]
@[simp] theorem Thread.setP_storeErrors (t : Thread) (n : BitVec 3) (b : Bool) : (t.setP n b).storeErrors = t.storeErrors := by
  rw [Thread.setP_eq]
@[simp] theorem Thread.setP_leaving (t : Thread) (n : BitVec 3) (b : Bool) : (t.setP n b).leaving = t.leaving := by
  rw [Thread.setP_eq]
@[simp] theorem Thread.setP_dying (t : Thread) (n : BitVec 3) (b : Bool) : (t.setP n b).dying = t.dying := by
  rw [Thread.setP_eq]

/-! ### Thread.setM -/

theorem Thread.setM_eq (t : Thread) (n : BitVec 3) (w : BitVec 2048) : t.setM n w = { t with m := (t.setM n w).m } := by
  unfold Thread.setM
  split <;> rfl
@[simp] theorem Thread.setM_ctx (t : Thread) (n : BitVec 3) (w : BitVec 2048) : (t.setM n w).ctx = t.ctx := by
  rw [Thread.setM_eq]
@[simp] theorem Thread.setM_tid (t : Thread) (n : BitVec 3) (w : BitVec 2048) : (t.setM n w).tid = t.tid := by
  rw [Thread.setM_eq]
@[simp] theorem Thread.setM_launch (t : Thread) (n : BitVec 3) (w : BitVec 2048) : (t.setM n w).launch = t.launch := by
  rw [Thread.setM_eq]
@[simp] theorem Thread.setM_index (t : Thread) (n : BitVec 3) (w : BitVec 2048) : (t.setM n w).index = t.index := by
  rw [Thread.setM_eq]
@[simp] theorem Thread.setM_core (t : Thread) (n : BitVec 3) (w : BitVec 2048) : (t.setM n w).core = t.core := by
  rw [Thread.setM_eq]
@[simp] theorem Thread.setM_slot (t : Thread) (n : BitVec 3) (w : BitVec 2048) : (t.setM n w).slot = t.slot := by
  rw [Thread.setM_eq]
@[simp] theorem Thread.setM_run (t : Thread) (n : BitVec 3) (w : BitVec 2048) : (t.setM n w).run = t.run := by
  rw [Thread.setM_eq]
@[simp] theorem Thread.setM_pc (t : Thread) (n : BitVec 3) (w : BitVec 2048) : (t.setM n w).pc = t.pc := by
  rw [Thread.setM_eq]
@[simp] theorem Thread.setM_s (t : Thread) (n : BitVec 3) (w : BitVec 2048) : (t.setM n w).s = t.s := by
  rw [Thread.setM_eq]
@[simp] theorem Thread.setM_poison (t : Thread) (n : BitVec 3) (w : BitVec 2048) : (t.setM n w).poison = t.poison := by
  rw [Thread.setM_eq]
@[simp] theorem Thread.setM_pw (t : Thread) (n : BitVec 3) (w : BitVec 2048) : (t.setM n w).pw = t.pw := by
  rw [Thread.setM_eq]
@[simp] theorem Thread.setM_v (t : Thread) (n : BitVec 3) (w : BitVec 2048) : (t.setM n w).v = t.v := by
  rw [Thread.setM_eq]
@[simp] theorem Thread.setM_vl (t : Thread) (n : BitVec 3) (w : BitVec 2048) : (t.setM n w).vl = t.vl := by
  rw [Thread.setM_eq]
@[simp] theorem Thread.setM_vspace (t : Thread) (n : BitVec 3) (w : BitVec 2048) : (t.setM n w).vspace = t.vspace := by
  rw [Thread.setM_eq]
@[simp] theorem Thread.setM_vfill (t : Thread) (n : BitVec 3) (w : BitVec 2048) : (t.setM n w).vfill = t.vfill := by
  rw [Thread.setM_eq]
@[simp] theorem Thread.setM_vesr (t : Thread) (n : BitVec 3) (w : BitVec 2048) : (t.setM n w).vesr = t.vesr := by
  rw [Thread.setM_eq]
@[simp] theorem Thread.setM_tshape (t : Thread) (n : BitVec 3) (w : BitVec 2048) : (t.setM n w).tshape = t.tshape := by
  rw [Thread.setM_eq]
@[simp] theorem Thread.setM_tstat (t : Thread) (n : BitVec 3) (w : BitVec 2048) : (t.setM n w).tstat = t.tstat := by
  rw [Thread.setM_eq]
@[simp] theorem Thread.setM_trpc (t : Thread) (n : BitVec 3) (w : BitVec 2048) : (t.setM n w).trpc = t.trpc := by
  rw [Thread.setM_eq]
@[simp] theorem Thread.setM_trcause (t : Thread) (n : BitVec 3) (w : BitVec 2048) : (t.setM n w).trcause = t.trcause := by
  rw [Thread.setM_eq]
@[simp] theorem Thread.setM_trval (t : Thread) (n : BitVec 3) (w : BitVec 2048) : (t.setM n w).trval = t.trval := by
  rw [Thread.setM_eq]
@[simp] theorem Thread.setM_trelem (t : Thread) (n : BitVec 3) (w : BitVec 2048) : (t.setM n w).trelem = t.trelem := by
  rw [Thread.setM_eq]
@[simp] theorem Thread.setM_trvec (t : Thread) (n : BitVec 3) (w : BitVec 2048) : (t.setM n w).trvec = t.trvec := by
  rw [Thread.setM_eq]
@[simp] theorem Thread.setM_xferid (t : Thread) (n : BitVec 3) (w : BitVec 2048) : (t.setM n w).xferid = t.xferid := by
  rw [Thread.setM_eq]
@[simp] theorem Thread.setM_ulipc (t : Thread) (n : BitVec 3) (w : BitVec 2048) : (t.setM n w).ulipc = t.ulipc := by
  rw [Thread.setM_eq]
@[simp] theorem Thread.setM_dom (t : Thread) (n : BitVec 3) (w : BitVec 2048) : (t.setM n w).dom = t.dom := by
  rw [Thread.setM_eq]
@[simp] theorem Thread.setM_sc (t : Thread) (n : BitVec 3) (w : BitVec 2048) : (t.setM n w).sc = t.sc := by
  rw [Thread.setM_eq]
@[simp] theorem Thread.setM_latch (t : Thread) (n : BitVec 3) (w : BitVec 2048) : (t.setM n w).latch = t.latch := by
  rw [Thread.setM_eq]
@[simp] theorem Thread.setM_pending (t : Thread) (n : BitVec 3) (w : BitVec 2048) : (t.setM n w).pending = t.pending := by
  rw [Thread.setM_eq]
@[simp] theorem Thread.setM_scbusy (t : Thread) (n : BitVec 3) (w : BitVec 2048) : (t.setM n w).scbusy = t.scbusy := by
  rw [Thread.setM_eq]
@[simp] theorem Thread.setM_scAway (t : Thread) (n : BitVec 3) (w : BitVec 2048) : (t.setM n w).scAway = t.scAway := by
  rw [Thread.setM_eq]
@[simp] theorem Thread.setM_convoy (t : Thread) (n : BitVec 3) (w : BitVec 2048) : (t.setM n w).convoy = t.convoy := by
  rw [Thread.setM_eq]
@[simp] theorem Thread.setM_reissue (t : Thread) (n : BitVec 3) (w : BitVec 2048) : (t.setM n w).reissue = t.reissue := by
  rw [Thread.setM_eq]
@[simp] theorem Thread.setM_vq (t : Thread) (n : BitVec 3) (w : BitVec 2048) : (t.setM n w).vq = t.vq := by
  rw [Thread.setM_eq]
@[simp] theorem Thread.setM_mq (t : Thread) (n : BitVec 3) (w : BitVec 2048) : (t.setM n w).mq = t.mq := by
  rw [Thread.setM_eq]
@[simp] theorem Thread.setM_wait (t : Thread) (n : BitVec 3) (w : BitVec 2048) : (t.setM n w).wait = t.wait := by
  rw [Thread.setM_eq]
@[simp] theorem Thread.setM_stall (t : Thread) (n : BitVec 3) (w : BitVec 2048) : (t.setM n w).stall = t.stall := by
  rw [Thread.setM_eq]
@[simp] theorem Thread.setM_mig (t : Thread) (n : BitVec 3) (w : BitVec 2048) : (t.setM n w).mig = t.mig := by
  rw [Thread.setM_eq]
@[simp] theorem Thread.setM_grantFwd (t : Thread) (n : BitVec 3) (w : BitVec 2048) : (t.setM n w).grantFwd = t.grantFwd := by
  rw [Thread.setM_eq]
@[simp] theorem Thread.setM_saveArea (t : Thread) (n : BitVec 3) (w : BitVec 2048) : (t.setM n w).saveArea = t.saveArea := by
  rw [Thread.setM_eq]
@[simp] theorem Thread.setM_winInstr (t : Thread) (n : BitVec 3) (w : BitVec 2048) : (t.setM n w).winInstr = t.winInstr := by
  rw [Thread.setM_eq]
@[simp] theorem Thread.setM_winVec (t : Thread) (n : BitVec 3) (w : BitVec 2048) : (t.setM n w).winVec = t.winVec := by
  rw [Thread.setM_eq]
@[simp] theorem Thread.setM_winMat (t : Thread) (n : BitVec 3) (w : BitVec 2048) : (t.setM n w).winMat = t.winMat := by
  rw [Thread.setM_eq]
@[simp] theorem Thread.setM_target (t : Thread) (n : BitVec 3) (w : BitVec 2048) : (t.setM n w).target = t.target := by
  rw [Thread.setM_eq]
@[simp] theorem Thread.setM_hold (t : Thread) (n : BitVec 3) (w : BitVec 2048) : (t.setM n w).hold = t.hold := by
  rw [Thread.setM_eq]
@[simp] theorem Thread.setM_bindTime (t : Thread) (n : BitVec 3) (w : BitVec 2048) : (t.setM n w).bindTime = t.bindTime := by
  rw [Thread.setM_eq]
@[simp] theorem Thread.setM_deadline (t : Thread) (n : BitVec 3) (w : BitVec 2048) : (t.setM n w).deadline = t.deadline := by
  rw [Thread.setM_eq]
@[simp] theorem Thread.setM_before (t : Thread) (n : BitVec 3) (w : BitVec 2048) : (t.setM n w).before = t.before := by
  rw [Thread.setM_eq]
@[simp] theorem Thread.setM_restoredRun (t : Thread) (n : BitVec 3) (w : BitVec 2048) : (t.setM n w).restoredRun = t.restoredRun := by
  rw [Thread.setM_eq]
@[simp] theorem Thread.setM_priority (t : Thread) (n : BitVec 3) (w : BitVec 2048) : (t.setM n w).priority = t.priority := by
  rw [Thread.setM_eq]
@[simp] theorem Thread.setM_storeErrors (t : Thread) (n : BitVec 3) (w : BitVec 2048) : (t.setM n w).storeErrors = t.storeErrors := by
  rw [Thread.setM_eq]
@[simp] theorem Thread.setM_leaving (t : Thread) (n : BitVec 3) (w : BitVec 2048) : (t.setM n w).leaving = t.leaving := by
  rw [Thread.setM_eq]
@[simp] theorem Thread.setM_dying (t : Thread) (n : BitVec 3) (w : BitVec 2048) : (t.setM n w).dying = t.dying := by
  rw [Thread.setM_eq]

/-! ### Thread.poisonS -/

theorem Thread.poisonS_eq (t : Thread) (r : BitVec 5) : t.poisonS r = { t with poison := (t.poisonS r).poison } := by
  unfold Thread.poisonS
  split <;> rfl
@[simp] theorem Thread.poisonS_ctx (t : Thread) (r : BitVec 5) : (t.poisonS r).ctx = t.ctx := by
  rw [Thread.poisonS_eq]
@[simp] theorem Thread.poisonS_tid (t : Thread) (r : BitVec 5) : (t.poisonS r).tid = t.tid := by
  rw [Thread.poisonS_eq]
@[simp] theorem Thread.poisonS_launch (t : Thread) (r : BitVec 5) : (t.poisonS r).launch = t.launch := by
  rw [Thread.poisonS_eq]
@[simp] theorem Thread.poisonS_index (t : Thread) (r : BitVec 5) : (t.poisonS r).index = t.index := by
  rw [Thread.poisonS_eq]
@[simp] theorem Thread.poisonS_core (t : Thread) (r : BitVec 5) : (t.poisonS r).core = t.core := by
  rw [Thread.poisonS_eq]
@[simp] theorem Thread.poisonS_slot (t : Thread) (r : BitVec 5) : (t.poisonS r).slot = t.slot := by
  rw [Thread.poisonS_eq]
@[simp] theorem Thread.poisonS_run (t : Thread) (r : BitVec 5) : (t.poisonS r).run = t.run := by
  rw [Thread.poisonS_eq]
@[simp] theorem Thread.poisonS_pc (t : Thread) (r : BitVec 5) : (t.poisonS r).pc = t.pc := by
  rw [Thread.poisonS_eq]
@[simp] theorem Thread.poisonS_s (t : Thread) (r : BitVec 5) : (t.poisonS r).s = t.s := by
  rw [Thread.poisonS_eq]
@[simp] theorem Thread.poisonS_pw (t : Thread) (r : BitVec 5) : (t.poisonS r).pw = t.pw := by
  rw [Thread.poisonS_eq]
@[simp] theorem Thread.poisonS_v (t : Thread) (r : BitVec 5) : (t.poisonS r).v = t.v := by
  rw [Thread.poisonS_eq]
@[simp] theorem Thread.poisonS_m (t : Thread) (r : BitVec 5) : (t.poisonS r).m = t.m := by
  rw [Thread.poisonS_eq]
@[simp] theorem Thread.poisonS_vl (t : Thread) (r : BitVec 5) : (t.poisonS r).vl = t.vl := by
  rw [Thread.poisonS_eq]
@[simp] theorem Thread.poisonS_vspace (t : Thread) (r : BitVec 5) : (t.poisonS r).vspace = t.vspace := by
  rw [Thread.poisonS_eq]
@[simp] theorem Thread.poisonS_vfill (t : Thread) (r : BitVec 5) : (t.poisonS r).vfill = t.vfill := by
  rw [Thread.poisonS_eq]
@[simp] theorem Thread.poisonS_vesr (t : Thread) (r : BitVec 5) : (t.poisonS r).vesr = t.vesr := by
  rw [Thread.poisonS_eq]
@[simp] theorem Thread.poisonS_tshape (t : Thread) (r : BitVec 5) : (t.poisonS r).tshape = t.tshape := by
  rw [Thread.poisonS_eq]
@[simp] theorem Thread.poisonS_tstat (t : Thread) (r : BitVec 5) : (t.poisonS r).tstat = t.tstat := by
  rw [Thread.poisonS_eq]
@[simp] theorem Thread.poisonS_trpc (t : Thread) (r : BitVec 5) : (t.poisonS r).trpc = t.trpc := by
  rw [Thread.poisonS_eq]
@[simp] theorem Thread.poisonS_trcause (t : Thread) (r : BitVec 5) : (t.poisonS r).trcause = t.trcause := by
  rw [Thread.poisonS_eq]
@[simp] theorem Thread.poisonS_trval (t : Thread) (r : BitVec 5) : (t.poisonS r).trval = t.trval := by
  rw [Thread.poisonS_eq]
@[simp] theorem Thread.poisonS_trelem (t : Thread) (r : BitVec 5) : (t.poisonS r).trelem = t.trelem := by
  rw [Thread.poisonS_eq]
@[simp] theorem Thread.poisonS_trvec (t : Thread) (r : BitVec 5) : (t.poisonS r).trvec = t.trvec := by
  rw [Thread.poisonS_eq]
@[simp] theorem Thread.poisonS_xferid (t : Thread) (r : BitVec 5) : (t.poisonS r).xferid = t.xferid := by
  rw [Thread.poisonS_eq]
@[simp] theorem Thread.poisonS_ulipc (t : Thread) (r : BitVec 5) : (t.poisonS r).ulipc = t.ulipc := by
  rw [Thread.poisonS_eq]
@[simp] theorem Thread.poisonS_dom (t : Thread) (r : BitVec 5) : (t.poisonS r).dom = t.dom := by
  rw [Thread.poisonS_eq]
@[simp] theorem Thread.poisonS_sc (t : Thread) (r : BitVec 5) : (t.poisonS r).sc = t.sc := by
  rw [Thread.poisonS_eq]
@[simp] theorem Thread.poisonS_latch (t : Thread) (r : BitVec 5) : (t.poisonS r).latch = t.latch := by
  rw [Thread.poisonS_eq]
@[simp] theorem Thread.poisonS_pending (t : Thread) (r : BitVec 5) : (t.poisonS r).pending = t.pending := by
  rw [Thread.poisonS_eq]
@[simp] theorem Thread.poisonS_scbusy (t : Thread) (r : BitVec 5) : (t.poisonS r).scbusy = t.scbusy := by
  rw [Thread.poisonS_eq]
@[simp] theorem Thread.poisonS_scAway (t : Thread) (r : BitVec 5) : (t.poisonS r).scAway = t.scAway := by
  rw [Thread.poisonS_eq]
@[simp] theorem Thread.poisonS_convoy (t : Thread) (r : BitVec 5) : (t.poisonS r).convoy = t.convoy := by
  rw [Thread.poisonS_eq]
@[simp] theorem Thread.poisonS_reissue (t : Thread) (r : BitVec 5) : (t.poisonS r).reissue = t.reissue := by
  rw [Thread.poisonS_eq]
@[simp] theorem Thread.poisonS_vq (t : Thread) (r : BitVec 5) : (t.poisonS r).vq = t.vq := by
  rw [Thread.poisonS_eq]
@[simp] theorem Thread.poisonS_mq (t : Thread) (r : BitVec 5) : (t.poisonS r).mq = t.mq := by
  rw [Thread.poisonS_eq]
@[simp] theorem Thread.poisonS_wait (t : Thread) (r : BitVec 5) : (t.poisonS r).wait = t.wait := by
  rw [Thread.poisonS_eq]
@[simp] theorem Thread.poisonS_stall (t : Thread) (r : BitVec 5) : (t.poisonS r).stall = t.stall := by
  rw [Thread.poisonS_eq]
@[simp] theorem Thread.poisonS_mig (t : Thread) (r : BitVec 5) : (t.poisonS r).mig = t.mig := by
  rw [Thread.poisonS_eq]
@[simp] theorem Thread.poisonS_grantFwd (t : Thread) (r : BitVec 5) : (t.poisonS r).grantFwd = t.grantFwd := by
  rw [Thread.poisonS_eq]
@[simp] theorem Thread.poisonS_saveArea (t : Thread) (r : BitVec 5) : (t.poisonS r).saveArea = t.saveArea := by
  rw [Thread.poisonS_eq]
@[simp] theorem Thread.poisonS_winInstr (t : Thread) (r : BitVec 5) : (t.poisonS r).winInstr = t.winInstr := by
  rw [Thread.poisonS_eq]
@[simp] theorem Thread.poisonS_winVec (t : Thread) (r : BitVec 5) : (t.poisonS r).winVec = t.winVec := by
  rw [Thread.poisonS_eq]
@[simp] theorem Thread.poisonS_winMat (t : Thread) (r : BitVec 5) : (t.poisonS r).winMat = t.winMat := by
  rw [Thread.poisonS_eq]
@[simp] theorem Thread.poisonS_target (t : Thread) (r : BitVec 5) : (t.poisonS r).target = t.target := by
  rw [Thread.poisonS_eq]
@[simp] theorem Thread.poisonS_hold (t : Thread) (r : BitVec 5) : (t.poisonS r).hold = t.hold := by
  rw [Thread.poisonS_eq]
@[simp] theorem Thread.poisonS_bindTime (t : Thread) (r : BitVec 5) : (t.poisonS r).bindTime = t.bindTime := by
  rw [Thread.poisonS_eq]
@[simp] theorem Thread.poisonS_deadline (t : Thread) (r : BitVec 5) : (t.poisonS r).deadline = t.deadline := by
  rw [Thread.poisonS_eq]
@[simp] theorem Thread.poisonS_before (t : Thread) (r : BitVec 5) : (t.poisonS r).before = t.before := by
  rw [Thread.poisonS_eq]
@[simp] theorem Thread.poisonS_restoredRun (t : Thread) (r : BitVec 5) : (t.poisonS r).restoredRun = t.restoredRun := by
  rw [Thread.poisonS_eq]
@[simp] theorem Thread.poisonS_priority (t : Thread) (r : BitVec 5) : (t.poisonS r).priority = t.priority := by
  rw [Thread.poisonS_eq]
@[simp] theorem Thread.poisonS_storeErrors (t : Thread) (r : BitVec 5) : (t.poisonS r).storeErrors = t.storeErrors := by
  rw [Thread.poisonS_eq]
@[simp] theorem Thread.poisonS_leaving (t : Thread) (r : BitVec 5) : (t.poisonS r).leaving = t.leaving := by
  rw [Thread.poisonS_eq]
@[simp] theorem Thread.poisonS_dying (t : Thread) (r : BitVec 5) : (t.poisonS r).dying = t.dying := by
  rw [Thread.poisonS_eq]

end Sys2Proof.Machine
end

