-- ==== Sys2Proof/Laws/Ops.lean ====
section
/-!
SUPPORT. The shared operations: when an instruction's meaning runs and what its result becomes, what a
translation, an access and a wake leave as they were, and what a trap does.
-/

namespace Sys2Proof.Machine

/-! ### From a meaning to a step -/

@[simp] theorem Res.out_done (s : State) (m : Nat) : (Res.done s).out m = .next (s.retired m) := rfl
@[simp] theorem Res.out_nop (s : State) (m : Nat) : (Res.nop s).out m = .next (s.passed m) := rfl
@[simp] theorem Res.out_jump (pc : Word) (s : State) (m : Nat) : (Res.jump pc s).out m = .next (s.retiredAt m pc) := rfl
@[simp] theorem Res.out_held (s : State) (m : Nat) : (Res.held s).out m = .next { s with held := true } := rfl
@[simp] theorem Res.out_trap (x : Trap) (s : State) (m : Nat) :
    (Res.trap x s).out m = .next ({ s with failing := none }.trap x) := rfl

/-- Every result of a meaning is a next state. -/
theorem Res.out_next (r : Res) (m : Nat) : ∃ t, r.out m = .next t := by cases r <;> exact ⟨_, rfl⟩

/-- Every instruction's frame answers a next state. -/
theorem issue_next (i : Instr) (acc : Bool × Bool × Bool) (zero : State → Res)
    (body : Option (BitVec 12) → State → Res) (s : State) : ∃ t, issue i acc zero body s = .next t := by
  unfold issue
  dsimp only
  repeat' split
  all_goals first | exact ⟨_, rfl⟩ | exact Res.out_next _ _

/-- A major that the class lacks. -/
theorem issue_class {i : Instr} {acc : Bool × Bool × Bool} {zero : State → Res}
    {body : Option (BitVec 12) → State → Res} {s : State} {k : Cls} (hk : s.cls s.cur.core = some k)
    (hm : inMark (bits (encode i).toNat 26 6) k = false) :
    issue i acc zero body s = .next (s.classTrap (encode i) (bits (encode i).toNat 26 6)) := by
  unfold issue
  simp [hk, hm]

/-- No instruction of a major needs more room in its queue than TDRAIN. -/
theorem queueFull_of_room {s : State} {k : Cls} {i : Instr} {major : Nat} (hk : s.cls s.cur.core = some k)
    (h : s.room major = true) : s.cur.queueFull k i major = false := by
  simp only [State.room, hk, Thread.queueFull] at h ⊢
  cases k
  case c => simpa [Classical.or_iff_not_imp_left] using h
  case v => simpa [Classical.or_iff_not_imp_left] using h
  case t =>
    simp only [reduceIte] at h ⊢
    split <;> simp_all <;> omega

/-- The instruction's queue is full: it has not issued (R358). -/
theorem issue_full {i : Instr} {acc : Bool × Bool × Bool} {zero : State → Res}
    {body : Option (BitVec 12) → State → Res} {s : State} {k : Cls} (hk : s.cls s.cur.core = some k)
    (hm : inMark (bits (encode i).toNat 26 6) k = true)
    (hf : s.cur.queueFull k i (bits (encode i).toNat 26 6) = true) :
    issue i acc zero body s = .next { s with held := true } := by
  unfold issue
  simp [hk, hm, hf]

/-- Neither its class nor a prefix nor a full queue stops an instruction: its body runs with the latch. -/
theorem issue_runs {i : Instr} {acc : Bool × Bool × Bool} {zero : State → Res}
    {body : Option (BitVec 12) → State → Res} {s : State} {major : Nat}
    (hm : bits (encode i).toNat 26 6 = major) (hc : s.onClass major = true) (hp : s.passes acc = true)
    (hr : s.room major = true) :
    issue i acc zero body s = (body s.cur.latch s).out major := by
  subst hm
  unfold issue
  unfold State.onClass at hc
  unfold State.passes at hp
  cases hk : s.cls s.cur.core with
  | none => simp [hk] at hc
  | some k =>
    simp only [hk] at hc
    have hq := queueFull_of_room (i := i) hk hr
    cases hl : s.cur.latch with
    | none => simp [hc, hq]
    | some l =>
      simp only [hl] at hp
      obtain ⟨ha, hb, hcc⟩ := acc
      cases h1 : lPK l <;> cases h2 : lDE l <;> cases ha <;> cases hb <;> cases hcc <;> simp_all

/-- The same without a prefix. -/
theorem issue_bare {i : Instr} {acc : Bool × Bool × Bool} {zero : State → Res}
    {body : Option (BitVec 12) → State → Res} {s : State} {major : Nat}
    (hm : bits (encode i).toNat 26 6 = major) (h : s.bare major = true) :
    issue i acc zero body s = (body none s).out major := by
  simp only [State.bare, Bool.and_eq_true, Option.isNone_iff_eq_none] at h
  rw [issue_runs hm h.1.1 (by simp [State.passes, h.1.2]) h.2, h.1.2]

/-- An instruction that runs without a prefix runs. -/
theorem runs_of_bare {s : State} {major : Nat} (h : s.bare major = true) : s.runs major = true := by
  simp only [State.bare, Bool.and_eq_true, Option.isNone_iff_eq_none] at h
  simp [State.runs, State.passes, h.1.1, h.1.2, h.2]

/-- Without a prefix there is no second destination to copy to. -/
theorem copyS_none {t : Thread} (h : t.latch = none) (d : BitVec 5) : t.copyS d = t := by simp [Thread.copyS, h]

theorem plainOp_out {i : Instr} {body : State → Res} {s : State} {major : Nat}
    (hm : bits (encode i).toNat 26 6 = major) (h : s.runs major = true) : plainOp i body s = (body s).out major := by
  simp only [State.runs, Bool.and_eq_true] at h
  unfold plainOp
  rw [issue_runs hm h.1.1 (by rw [hm]; exact h.1.2) h.2]

theorem plainOp_bare {i : Instr} {body : State → Res} {s : State} {major : Nat}
    (hm : bits (encode i).toNat 26 6 = major) (h : s.bare major = true) : plainOp i body s = (body s).out major :=
  plainOp_out hm (runs_of_bare h)

/-- A completing scalar result: the second destination copies it, and the instruction retires. -/
theorem scalarDest_runs {i : Instr} {d : BitVec 5} {body : State → Res} {s t : State} {major : Nat}
    (hm : bits (encode i).toNat 26 6 = major) (h : s.runs major = true) (hb : body s = .done t) :
    scalarDest i d body s = .next ({ t with cur := t.cur.copyS d }.retired major) := by
  simp only [State.runs, Bool.and_eq_true] at h
  unfold scalarDest
  rw [issue_runs hm h.1.1 (by rw [hm]; exact h.1.2) h.2]
  simp [hb]

theorem scalarDest_jumps {i : Instr} {d : BitVec 5} {body : State → Res} {s t : State} {major : Nat} {pc : Word}
    (hm : bits (encode i).toNat 26 6 = major) (h : s.runs major = true) (hb : body s = .jump pc t) :
    scalarDest i d body s = .next ({ t with cur := t.cur.copyS d }.retiredAt major pc) := by
  simp only [State.runs, Bool.and_eq_true] at h
  unfold scalarDest
  rw [issue_runs hm h.1.1 (by rw [hm]; exact h.1.2) h.2]
  simp [hb]

theorem scalarDest_traps {i : Instr} {d : BitVec 5} {body : State → Res} {s t : State} {major : Nat} {x : Trap}
    (hm : bits (encode i).toNat 26 6 = major) (h : s.runs major = true) (hb : body s = .trap x t) :
    scalarDest i d body s = .next ({ t with failing := none }.trap x) := by
  simp only [State.runs, Bool.and_eq_true] at h
  unfold scalarDest
  rw [issue_runs hm h.1.1 (by rw [hm]; exact h.1.2) h.2]
  simp [hb]

theorem scalarDest_holds {i : Instr} {d : BitVec 5} {body : State → Res} {s t : State} {major : Nat}
    (hm : bits (encode i).toNat 26 6 = major) (h : s.runs major = true) (hb : body s = .held t) :
    scalarDest i d body s = .next { t with held := true } := by
  simp only [State.runs, Bool.and_eq_true] at h
  unfold scalarDest
  rw [issue_runs hm h.1.1 (by rw [hm]; exact h.1.2) h.2]
  simp [hb]

/-! ### Poison -/

/-- No register of a list is poisoned. -/
theorem consume_clean {l : List (BitVec 5 × Nat)} {k : State → Res} {s : State}
    (h : ∀ p ∈ l, s.cur.poisonedS p.1 = false) : consume l k s = k s := by
  have : s.cur.firstPoison l = none := by
    induction l with
    | nil => rfl
    | cons p t ih =>
      simp only [Thread.firstPoison, h p (by simp)]
      exact ih fun q hq => h q (by simp [hq])
  simp [consume, this]

/-- The first register of a list is poisoned. -/
theorem consume_first {r : BitVec 5} {n : Nat} {l : List (BitVec 5 × Nat)} {k : State → Res} {s : State}
    (h : s.cur.poisonedS r = true) :
    consume ((r, n) :: l) k s = .trap (.plain 2 (BitVec.ofNat 64 (r.toNat + n * 64))) s := by
  simp [consume, Thread.firstPoison, h]

/-! ### Registers -/

@[simp] theorem getS_zero (t : Thread) : t.getS 0 = 0 := rfl
@[simp] theorem poisonedS_zero (t : Thread) : t.poisonedS 0 = false := rfl
@[simp] theorem getP_zero (t : Thread) : t.getP 0 = true := rfl
@[simp] theorem getM_zero (t : Thread) : t.getM 0 = BitVec.allOnes 2048 := rfl

theorem getLsbD_putBit {n : Nat} (w : BitVec n) (i k : Nat) (b : Bool) (hk : k < n) :
    (putBit w i b).getLsbD k = if k = i then b else w.getLsbD k := by
  by_cases h : k = i
  · subst h; cases b <;> simp [putBit, hk]
  · cases b <;> simp [putBit, hk, h]

/-! ### Translations and accesses (R295, R281) -/

theorem openGuard_frame (s : State) (core : Nat) :
    s.openGuard core = { s with cores := (s.openGuard core).cores } := by
  unfold State.openGuard
  dsimp only
  split <;> rfl

theorem record_frame (s : State) (die code core arg : Nat) :
    s.record die code core arg = { s with dies := (s.record die code core arg).dies } := by
  unfold State.record
  dsimp only
  split <;> rfl

/-! ### Caches (R289) -/

theorem sameButCaches_refl (s : State) : s.sameButCaches s := rfl

theorem sameButCaches_trans {s t u : State} (h : s.sameButCaches t) (k : t.sameButCaches u) : s.sameButCaches u := by
  unfold State.sameButCaches at *
  rw [h] at k
  exact k

theorem ite_caches {s a b : State} {c : Prop} [Decidable c] (h : s.sameButCaches a) (k : s.sameButCaches b) :
    s.sameButCaches (if c then a else b) := by split <;> assumption

theorem sameButCaches_mem {s t : State} (h : s.sameButCaches t) : t.mem = s.mem := by rw [h]
theorem sameButCaches_cur {s t : State} (h : s.sameButCaches t) : t.cur = s.cur := by rw [h]

theorem settleLine_caches (s : State) (line : Nat) (d : BitVec 8) : s.sameButCaches (s.settleLine line d) := rfl

theorem evictHub_caches (s : State) (line : Nat) : s.sameButCaches (s.evictHub line) := by
  unfold State.evictHub
  split <;> rfl

theorem hubFill_caches (s : State) (line : Nat) (v d : BitVec 8) : s.sameButCaches (s.hubFill line v d) := by
  unfold State.hubFill
  dsimp only
  split
  · rfl
  · refine sameButCaches_trans (t := s.fresh.2) rfl ?_
    split
    · exact sameButCaches_trans (evictHub_caches _ _) rfl
    · rfl

theorem dropL1_caches (s : State) (die line : Nat) (k : Option Nat) : s.sameButCaches (s.dropL1 die line k) := rfl

theorem recallL2_caches (s : State) (die line : Nat) (drop : Bool) : s.sameButCaches (s.recallL2 die line drop) := by
  unfold State.recallL2
  dsimp only
  split
  · rfl
  · have h (d : DieSt) (x : CacheLine) : s.sameButCaches
        (if x.dirty = 0 then s.setDie die d else (s.setDie die d).hubFill line x.dirty x.dirty) :=
      ite_caches rfl (sameButCaches_trans (t := s.setDie die d) rfl (hubFill_caches _ _ _ _))
    exact ite_caches (sameButCaches_trans (h _ _) (dropL1_caches _ _ _ _)) (h _ _)

theorem recallWriter_caches (s : State) (die line : Nat) : s.sameButCaches (s.recallWriter die line) := by
  unfold State.recallWriter
  split
  · exact ite_caches rfl (recallL2_caches _ _ _ _)
  · rfl

theorem recallAll_caches (line : Nat) (keep : Option Nat) (l : List Nat) (s : State) :
    s.sameButCaches (s.recallAll line keep l) := by
  induction l generalizing s with
  | nil => rfl
  | cons d t ih =>
    unfold State.recallAll
    split
    · exact ih s
    · exact sameButCaches_trans (recallL2_caches _ _ _ _) (ih _)

theorem recallStash_caches (s : State) (line : Nat) (drop : Bool) (sect : Nat) (keep : Option StashId) :
    s.sameButCaches (s.recallStash line drop sect keep) := by
  have h (c : List (Nat × CoreSt)) (d : BitVec 8) : s.sameButCaches
      (if d = 0 then { s with cores := c } else { s with cores := c }.hubFill line d d) :=
    ite_caches rfl (sameButCaches_trans (t := { s with cores := c }) rfl (hubFill_caches _ _ _ _))
  exact h _ _

theorem l2Fill_caches (s : State) (die line : Nat) (v d : BitVec 8) (own : Bool) :
    s.sameButCaches (s.l2Fill die line v d own) := by
  unfold State.l2Fill
  dsimp only
  split
  · rfl
  · refine sameButCaches_trans (t := s.fresh.2) rfl ?_
    split
    · exact sameButCaches_trans (recallL2_caches _ _ _ _) rfl
    · rfl

theorem cohLoad_caches (s : State) (die pa n : Nat) : s.sameButCaches (s.cohLoad die pa n) := by
  unfold State.cohLoad
  refine ite_caches rfl ?_
  have h := sameButCaches_trans (sameButCaches_trans (recallStash_caches s (pa / 256) false 0 none)
    (recallWriter_caches _ die (pa / 256))) (hubFill_caches _ (pa / 256) (sectorsOf pa n) 0)
  exact ite_caches (sameButCaches_trans h (l2Fill_caches _ _ _ _ _ _)) h

theorem keepBehind_caches (s : State) (pa n : Nat) : s.sameButCaches (s.keepBehind pa n) := by
  induction n generalizing s pa with
  | zero => rfl
  | succ n ih =>
    unfold State.keepBehind
    dsimp only
    split
    · exact sameButCaches_trans (t := { s with behind := _ }) rfl (ih _ _)
    · exact ih _ _

theorem cohStore_caches (s : State) (die pa n : Nat) (core : Option Nat) (stash : Option StashId) :
    s.sameButCaches (s.cohStore die pa n core stash) := by
  unfold State.cohStore
  have h := sameButCaches_trans (keepBehind_caches s pa n) (recallStash_caches _ (pa / 256) true (pa / 32) stash)
  refine ite_caches (sameButCaches_trans h (recallAll_caches _ _ _ _)) (ite_caches ?_ ?_)
  · exact sameButCaches_trans (sameButCaches_trans (sameButCaches_trans h (recallAll_caches _ _ _ _))
      (dropL1_caches _ _ _ _)) (l2Fill_caches _ _ _ _ _ _)
  · exact sameButCaches_trans (sameButCaches_trans h (recallAll_caches _ _ _ _)) (hubFill_caches _ _ _ _)

theorem eachLine_caches {f : State → Nat → Nat → State} (hf : ∀ (s : State) a m, s.sameButCaches (f s a m)) (k : Nat) (s : State)
    (pa n : Nat) : s.sameButCaches (State.eachLine f s pa n k) := by
  induction k generalizing s pa n with
  | zero => rfl
  | succ k ih =>
    unfold State.eachLine
    exact sameButCaches_trans (hf _ _ _) (ih _ _ _)

theorem l1Fill_caches (s : State) (core pa n : Nat) : s.sameButCaches (s.l1Fill core pa n) := by
  unfold State.l1Fill
  dsimp only
  split
  · exact ite_caches rfl rfl
  · exact ite_caches rfl rfl

/-! ### Translations (R295, R297) -/

theorem eitherEntry_caches (s : State) (e : TlbEntry) (x : Except Nat TlbEntry) :
    s.sameButCaches (s.eitherEntry e x).1 := by
  unfold State.eitherEntry
  dsimp only
  split
  · split <;> rfl
  · split <;> rfl

theorem walkFills_caches (l : List Nat) (s : State) (die : Nat) : s.sameButCaches (s.walkFills die l) := by
  induction l generalizing s with
  | nil => rfl
  | cons a t ih =>
    unfold State.walkFills
    rw [List.foldl_cons]
    refine sameButCaches_trans ?_ (ih _)
    split
    all_goals first | exact cohLoad_caches _ _ _ _ | rfl

/-- A translation changes caches, counters and the count of free values alone: no thread, no byte, no table. -/
theorem translate_caches (s : State) (core ctx va : Nat) (r w : Bool) :
    s.sameButCaches (s.translate core ctx va r w).1 := by
  unfold State.translate
  split
  · rfl
  · dsimp only
    split
    · exact sameButCaches_trans (t := s.setCore _ _) rfl (eitherEntry_caches _ _ _)
    · split
      · exact sameButCaches_trans (t := (s.count core 9).fillTlb core _) rfl (eitherEntry_caches _ _ _)
      · have h := sameButCaches_trans (t := (s.count core 9).count core 10) rfl
          (walkFills_caches ((s.count core 9).walkPath ctx va) _ (dieOf core))
        split
        · exact sameButCaches_trans h rfl
        · exact h

@[simp] theorem translate_mem (s : State) (core ctx va : Nat) (r w : Bool) :
    (s.translate core ctx va r w).1.mem = s.mem := sameButCaches_mem (translate_caches ..)

@[simp] theorem translate_cur (s : State) (core ctx va : Nat) (r w : Bool) :
    (s.translate core ctx va r w).1.cur = s.cur := sameButCaches_cur (translate_caches ..)

@[simp] theorem translate_tables (s : State) (core ctx va : Nat) (r w : Bool) :
    (s.translate core ctx va r w).1.tables = s.tables := by rw [translate_caches s core ctx va r w]

/-! ### Loads and stores -/

/-- A store to plain memory: the caches make room and give the line up, the bytes are written, and then the monitors
that they meet fire. -/
theorem storeBy_plain {s : State} {core : Option Nat} {stash : Option StashId} {die : Nat} {p : Place} {n v : Nat}
    (h : s.plainAt p = true) :
    ∃ u, s.sameButCaches u ∧ s.storeBy core stash die p n v = { u with mem := writeNat s.mem p.pa n v }.fireAt none p.pa n := by
  have hc (f : State → Nat → Nat → State) (hf : ∀ (s : State) a m, s.sameButCaches (f s a m)) (hp : (p.attr != 1) = true) :
      ∃ u, s.sameButCaches u ∧
        (if p.attr = 1 then (s.privWrite die p.pa n v).fireAt (some die) p.pa n
         else
           let s := if p.attr = 0 then State.eachLine f s p.pa n (linesOf p.pa n) else s
           { s with mem := writeNat s.mem p.pa n v }.fireAt none p.pa n) =
          { u with mem := writeNat s.mem p.pa n v }.fireAt none p.pa n := by
    rw [if_neg (by simpa using hp)]
    dsimp only
    split
    · have hu := eachLine_caches hf (linesOf p.pa n) s p.pa n
      exact ⟨_, hu, by rw [sameButCaches_mem hu]⟩
    · exact ⟨s, rfl, rfl⟩
  unfold State.storeBy
  unfold State.plainAt at h
  split at h
  · next e => rw [e]; exact hc _ (fun s a m => cohStore_caches s die a m core stash) h
  · next e => rw [e]; exact hc _ (fun s a m => cohStore_caches s die a m core stash) h
  · next e => rw [e]; exact hc _ (fun s a m => cohStore_caches s die a m core stash) h
  · next e => rw [e]; exact ⟨s, rfl, rfl⟩
  all_goals cases h

/-- A load from plain memory fills caches. -/
theorem loadAt_plain {s : State} {die : Nat} {p : Place} {n : Nat} (h : s.plainAt p = true) :
    ∃ u, s.sameButCaches u ∧ s.loadAt die p n = (u, readNat s.mem p.pa n) := by
  have hc (hp : (p.attr != 1) = true) :
      ∃ u, s.sameButCaches u ∧
        (if p.attr = 1 then s.privRead die p.pa n
         else if p.attr = 0 then
           (State.eachLine (fun s pa m => s.cohLoad die pa m) s p.pa n (linesOf p.pa n), readNat s.mem p.pa n)
         else (s, readNat s.mem p.pa n)) = (u, readNat s.mem p.pa n) := by
    rw [if_neg (by simpa using hp)]
    split
    · exact ⟨_, eachLine_caches (fun s a m => cohLoad_caches s die a m) _ s p.pa n, rfl⟩
    · exact ⟨s, rfl, rfl⟩
  unfold State.loadAt
  unfold State.plainAt at h
  split at h
  · next e => rw [e]; exact hc h
  · next e => rw [e]; exact hc h
  · next e => rw [e]; exact hc h
  · next e => rw [e]; exact ⟨s, rfl, rfl⟩
  all_goals cases h

@[simp] theorem modify_mem (s : State) (r : TRef) (f : Thread → Thread) : (s.modify r f).mem = s.mem := by
  unfold State.modify
  split <;> rfl

@[simp] theorem enterReady_mem (s : State) (r : TRef) (core : Nat) : (s.enterReady r core).mem = s.mem := rfl

@[simp] theorem wake_mem (s : State) (r : TRef) (res : Option (BitVec 5 × Word)) (m : Nat) :
    (s.wake r res m).mem = s.mem := by
  unfold State.wake
  dsimp only
  split
  · rfl
  · split <;> simp

/-- Firing monitors changes no memory. -/
@[simp] theorem fire_mem (s : State) (die : Option Nat) (pa n : Nat) (l : List Monitor) :
    (s.fire die pa n l).mem = s.mem := by
  induction l generalizing s with
  | nil => rfl
  | cons m t ih =>
    unfold State.fire
    by_cases h : m.die = die ∧ m.pa < pa + n ∧ pa < m.pa + (if m.wide = true then 8 else 4)
    · dsimp only
      rw [if_pos h]
      by_cases hv : s.monitorValue m = m.cmp.toNat
      · rw [if_pos hv]
        exact ih s
      · rw [if_neg hv, ih]
        split
        · split <;> simp
        · rfl
    · dsimp only
      rw [if_neg h]
      exact ih s

/-- After a store to plain memory, memory holds the bytes. -/
theorem storeBy_mem {s : State} {core : Option Nat} {stash : Option StashId} {die : Nat} {p : Place} {n v : Nat}
    (h : s.plainAt p = true) : (s.storeBy core stash die p n v).mem = writeNat s.mem p.pa n v := by
  obtain ⟨u, -, e⟩ := storeBy_plain (core := core) (stash := stash) (die := die) (n := n) (v := v) h
  rw [e]
  unfold State.fireAt
  split <;> simp

theorem storeAt_mem {s : State} {die : Nat} {p : Place} {n v : Nat} (h : s.plainAt p = true) :
    (s.storeAt die p n v).mem = writeNat s.mem p.pa n v := storeBy_mem h

/-! ### Turns -/

@[simp] theorem focus_mem (s : State) (r : TRef) : (s.focus r).mem = s.mem := by
  unfold State.focus
  split
  · rfl
  · split <;> rfl

theorem focus_self {s : State} (h : s.cur.run ≠ .done) : s.focus s.cur.ref = s := by
  have : s.cur.named s.cur.ref = true := by simp [Thread.named, h]
  simp [State.focus, this]

/-- Acting on the current thread, when it keeps its name and lives on. -/
theorem onThread_self {s : State} {f : State → State} (h : s.cur.run ≠ .done)
    (hn : (f s).cur.named s.cur.ref = true) : s.onThread s.cur.ref f = f s := by
  have hf : s.find s.cur.ref = some s.cur := by simp [State.find, State.all, h]
  simp only [State.onThread, hf, focus_self h]
  unfold State.focus
  rw [hn]
  rfl

theorem modify_self {s : State} {f : Thread → Thread} (h : s.cur.run ≠ .done) :
    s.modify s.cur.ref f = { s with cur := f s.cur } := by
  simp [State.modify, Thread.named, h]

/-! ### Traps (R247 to R249) -/

theorem trap_thread {s : State} {x : Trap} (h : systemCause x.code = false) : s.trap x = s.threadTrap x := by
  simp [State.trap, h]

theorem trap_system {s : State} {x : Trap} (h : systemCause x.code = true) : s.trap x = s.systemTrap x false := by
  simp [State.trap, h]

/-- A trap inside a handler, or without one, is fatal. -/
theorem threadTrap_fatal {s : State} {x : Trap} (h : s.cur.st stINTRAP = true ∨ s.cur.trvec.toNat < 256) :
    s.threadTrap x = s.fatal := by
  unfold State.threadTrap
  rw [if_pos]
  rcases h with h | h
  · exact .inl h
  · exact .inr (by omega)

/-- Entry to the thread's handler. -/
theorem threadTrap_enters {s t : State} {x : Trap} (h : s.cur.st stINTRAP = false) (hv : 256 ≤ s.cur.trvec.toNat)
    (he : s.trapEntry x false = (t, true)) :
    s.threadTrap x = { t with cur := { t.cur.setSt stINTRAP true with pc := t.cur.trvec &&& ~~~(0xFF : Word) } } := by
  unfold State.threadTrap
  rw [if_neg (by simp [h]; omega), he]
  rfl

/-- Completing the queues (R120) changes the thread's queues and sticky flags, lanes that are woken, counters and what
waits for an in-rush slot. -/
theorem drain_frame (s : State) :
    s.drain = { s with cur := s.cur.drain, cores := s.drain.cores, dies := s.drain.dies } := by
  unfold State.drain
  dsimp only
  split
  · rfl
  · split <;> rfl

@[simp] theorem drain_cur (s : State) : s.drain.cur = s.cur.drain := by rw [drain_frame]

@[simp] theorem drain_mem (s : State) : s.drain.mem = s.mem := by rw [drain_frame]

/-- A trap without a convoy, outside a restart, writes no save block. -/
theorem trapEntry_plain {s : State} {x : Trap} {a : Bool} (h : x.start = none) (hr : s.cur.reissue = none) :
    s.trapEntry x a = ({ s.drain with cur := s.cur.drain.trapRegs x a }, true) := by
  have hc : (s.cur.drain.trapRegs x a).convoy = s.cur.convoy := by
    unfold Thread.trapRegs
    simp only [h, Thread.drain_reissue, hr, Option.map_none, Option.orElse_none]
    split <;> rfl
  simp [State.trapEntry, hc]

end Sys2Proof.Machine
end

