-- ==== Sys2Proof/Laws/PerInstr.lean ====
section
/-!
SUPPORT. The family Encoding: the fields of every instruction fit into its 32-bit word (R60).
-/

namespace Sys2Proof.Laws.Encoding

open Sys2Proof Sys2Proof.Machine

/-- The fields of an instruction make a number below 2^32. -/
def Statement (i : Instr) : Prop := encodeNat i < 2 ^ 32

theorem toNat_encode {i : Instr} (h : Statement i) : (encode i).toNat = encodeNat i := by
  exact Nat.mod_eq_of_lt h

theorem pfx (d : BitVec 5) (e k : BitVec 1) (n : BitVec 3) (i z : BitVec 1) : Statement (.pfx d e k n i z) := by
  show 0x04000000 + d.toNat * 0x200000 + e.toNat * 0x100000 + k.toNat * 0x80000 + n.toNat * 0x10000 + i.toNat * 0x8000 + z.toNat * 0x4000 < 4294967296
  omega
theorem add (d a b : BitVec 5) : Statement (.add d a b) := by
  show 0x08000000 + d.toNat * 0x200000 + a.toNat * 0x10000 + b.toNat * 0x800 < 4294967296
  omega
theorem sub (d a b : BitVec 5) : Statement (.sub d a b) := by
  show 0x08000001 + d.toNat * 0x200000 + a.toNat * 0x10000 + b.toNat * 0x800 < 4294967296
  omega
theorem and (d a b : BitVec 5) : Statement (.and d a b) := by
  show 0x08000002 + d.toNat * 0x200000 + a.toNat * 0x10000 + b.toNat * 0x800 < 4294967296
  omega
theorem or (d a b : BitVec 5) : Statement (.or d a b) := by
  show 0x08000003 + d.toNat * 0x200000 + a.toNat * 0x10000 + b.toNat * 0x800 < 4294967296
  omega
theorem xor (d a b : BitVec 5) : Statement (.xor d a b) := by
  show 0x08000004 + d.toNat * 0x200000 + a.toNat * 0x10000 + b.toNat * 0x800 < 4294967296
  omega
theorem andcm (d a b : BitVec 5) : Statement (.andcm d a b) := by
  show 0x08000005 + d.toNat * 0x200000 + a.toNat * 0x10000 + b.toNat * 0x800 < 4294967296
  omega
theorem orcm (d a b : BitVec 5) : Statement (.orcm d a b) := by
  show 0x08000006 + d.toNat * 0x200000 + a.toNat * 0x10000 + b.toNat * 0x800 < 4294967296
  omega
theorem eqv (d a b : BitVec 5) : Statement (.eqv d a b) := by
  show 0x08000007 + d.toNat * 0x200000 + a.toNat * 0x10000 + b.toNat * 0x800 < 4294967296
  omega
theorem sll (d a b : BitVec 5) : Statement (.sll d a b) := by
  show 0x08000008 + d.toNat * 0x200000 + a.toNat * 0x10000 + b.toNat * 0x800 < 4294967296
  omega
theorem srl (d a b : BitVec 5) : Statement (.srl d a b) := by
  show 0x08000009 + d.toNat * 0x200000 + a.toNat * 0x10000 + b.toNat * 0x800 < 4294967296
  omega
theorem sra (d a b : BitVec 5) : Statement (.sra d a b) := by
  show 0x0800000A + d.toNat * 0x200000 + a.toNat * 0x10000 + b.toNat * 0x800 < 4294967296
  omega
theorem rol (d a b : BitVec 5) : Statement (.rol d a b) := by
  show 0x0800000B + d.toNat * 0x200000 + a.toNat * 0x10000 + b.toNat * 0x800 < 4294967296
  omega
theorem ror (d a b : BitVec 5) : Statement (.ror d a b) := by
  show 0x0800000C + d.toNat * 0x200000 + a.toNat * 0x10000 + b.toNat * 0x800 < 4294967296
  omega
theorem min (d a b : BitVec 5) : Statement (.min d a b) := by
  show 0x0800000D + d.toNat * 0x200000 + a.toNat * 0x10000 + b.toNat * 0x800 < 4294967296
  omega
theorem max (d a b : BitVec 5) : Statement (.max d a b) := by
  show 0x0800000E + d.toNat * 0x200000 + a.toNat * 0x10000 + b.toNat * 0x800 < 4294967296
  omega
theorem minn (d a b : BitVec 5) : Statement (.minn d a b) := by
  show 0x0800000F + d.toNat * 0x200000 + a.toNat * 0x10000 + b.toNat * 0x800 < 4294967296
  omega
theorem maxn (d a b : BitVec 5) : Statement (.maxn d a b) := by
  show 0x08000010 + d.toNat * 0x200000 + a.toNat * 0x10000 + b.toNat * 0x800 < 4294967296
  omega
theorem ixadd1 (d a b : BitVec 5) : Statement (.ixadd1 d a b) := by
  show 0x08000011 + d.toNat * 0x200000 + a.toNat * 0x10000 + b.toNat * 0x800 < 4294967296
  omega
theorem ixadd2 (d a b : BitVec 5) : Statement (.ixadd2 d a b) := by
  show 0x08000012 + d.toNat * 0x200000 + a.toNat * 0x10000 + b.toNat * 0x800 < 4294967296
  omega
theorem ixadd3 (d a b : BitVec 5) : Statement (.ixadd3 d a b) := by
  show 0x08000013 + d.toNat * 0x200000 + a.toNat * 0x10000 + b.toNat * 0x800 < 4294967296
  omega
theorem clz (d a : BitVec 5) : Statement (.clz d a) := by
  show 0x08000014 + d.toNat * 0x200000 + a.toNat * 0x10000 < 4294967296
  omega
theorem ctz (d a : BitVec 5) : Statement (.ctz d a) := by
  show 0x08000015 + d.toNat * 0x200000 + a.toNat * 0x10000 < 4294967296
  omega
theorem popc (d a : BitVec 5) : Statement (.popc d a) := by
  show 0x08000016 + d.toNat * 0x200000 + a.toNat * 0x10000 < 4294967296
  omega
theorem byterev (d a : BitVec 5) : Statement (.byterev d a) := by
  show 0x08000017 + d.toNat * 0x200000 + a.toNat * 0x10000 < 4294967296
  omega
theorem addi (d a : BitVec 5) (i : BitVec 16) : Statement (.addi d a i) := by
  show 0x0C000000 + d.toNat * 0x200000 + a.toNat * 0x10000 + i.toNat < 4294967296
  omega
theorem andi (d a : BitVec 5) (i : BitVec 16) : Statement (.andi d a i) := by
  show 0x10000000 + d.toNat * 0x200000 + a.toNat * 0x10000 + i.toNat < 4294967296
  omega
theorem ori (d a : BitVec 5) (i : BitVec 16) : Statement (.ori d a i) := by
  show 0x14000000 + d.toNat * 0x200000 + a.toNat * 0x10000 + i.toNat < 4294967296
  omega
theorem xori (d a : BitVec 5) (i : BitVec 16) : Statement (.xori d a i) := by
  show 0x18000000 + d.toNat * 0x200000 + a.toNat * 0x10000 + i.toNat < 4294967296
  omega
theorem slli (d a : BitVec 5) (p : BitVec 6) : Statement (.slli d a p) := by
  show 0x1C000000 + d.toNat * 0x200000 + a.toNat * 0x10000 + p.toNat * 0x400 < 4294967296
  omega
theorem srli (d a : BitVec 5) (p : BitVec 6) : Statement (.srli d a p) := by
  show 0x1C000001 + d.toNat * 0x200000 + a.toNat * 0x10000 + p.toNat * 0x400 < 4294967296
  omega
theorem srai (d a : BitVec 5) (p : BitVec 6) : Statement (.srai d a p) := by
  show 0x1C000002 + d.toNat * 0x200000 + a.toNat * 0x10000 + p.toNat * 0x400 < 4294967296
  omega
theorem rori (d a : BitVec 5) (p : BitVec 6) : Statement (.rori d a p) := by
  show 0x1C000003 + d.toNat * 0x200000 + a.toNat * 0x10000 + p.toNat * 0x400 < 4294967296
  omega
theorem bext (d a : BitVec 5) (p l : BitVec 6) : Statement (.bext d a p l) := by
  show 0x1C000004 + d.toNat * 0x200000 + a.toNat * 0x10000 + p.toNat * 0x400 + l.toNat * 0x10 < 4294967296
  omega
theorem bexts (d a : BitVec 5) (p l : BitVec 6) : Statement (.bexts d a p l) := by
  show 0x1C000005 + d.toNat * 0x200000 + a.toNat * 0x10000 + p.toNat * 0x400 + l.toNat * 0x10 < 4294967296
  omega
theorem bins (d a : BitVec 5) (p l : BitVec 6) : Statement (.bins d a p l) := by
  show 0x1C000006 + d.toNat * 0x200000 + a.toNat * 0x10000 + p.toNat * 0x400 + l.toNat * 0x10 < 4294967296
  omega
theorem bclrf (d a : BitVec 5) (p l : BitVec 6) : Statement (.bclrf d a p l) := by
  show 0x1C000007 + d.toNat * 0x200000 + a.toNat * 0x10000 + p.toNat * 0x400 + l.toNat * 0x10 < 4294967296
  omega
theorem bsetf (d a : BitVec 5) (p l : BitVec 6) : Statement (.bsetf d a p l) := by
  show 0x1C000008 + d.toNat * 0x200000 + a.toNat * 0x10000 + p.toNat * 0x400 + l.toNat * 0x10 < 4294967296
  omega
theorem mullo (d a b : BitVec 5) : Statement (.mullo d a b) := by
  show 0x20000000 + d.toNat * 0x200000 + a.toNat * 0x10000 + b.toNat * 0x800 < 4294967296
  omega
theorem mulhnn (d a b : BitVec 5) : Statement (.mulhnn d a b) := by
  show 0x20000001 + d.toNat * 0x200000 + a.toNat * 0x10000 + b.toNat * 0x800 < 4294967296
  omega
theorem mulhii (d a b : BitVec 5) : Statement (.mulhii d a b) := by
  show 0x20000002 + d.toNat * 0x200000 + a.toNat * 0x10000 + b.toNat * 0x800 < 4294967296
  omega
theorem mulhin (d a b : BitVec 5) : Statement (.mulhin d a b) := by
  show 0x20000003 + d.toNat * 0x200000 + a.toNat * 0x10000 + b.toNat * 0x800 < 4294967296
  omega
theorem quon (d a b : BitVec 5) : Statement (.quon d a b) := by
  show 0x20000004 + d.toNat * 0x200000 + a.toNat * 0x10000 + b.toNat * 0x800 < 4294967296
  omega
theorem quoi (d a b : BitVec 5) : Statement (.quoi d a b) := by
  show 0x20000005 + d.toNat * 0x200000 + a.toNat * 0x10000 + b.toNat * 0x800 < 4294967296
  omega
theorem remn (d a b : BitVec 5) : Statement (.remn d a b) := by
  show 0x20000006 + d.toNat * 0x200000 + a.toNat * 0x10000 + b.toNat * 0x800 < 4294967296
  omega
theorem remi (d a b : BitVec 5) : Statement (.remi d a b) := by
  show 0x20000007 + d.toNat * 0x200000 + a.toNat * 0x10000 + b.toNat * 0x800 < 4294967296
  omega
theorem ldhi (d : BitVec 5) (i : BitVec 21) : Statement (.ldhi d i) := by
  show 0x24000000 + d.toNat * 0x200000 + i.toNat < 4294967296
  omega
theorem addpc (d : BitVec 5) (i : BitVec 21) : Statement (.addpc d i) := by
  show 0x28000000 + d.toNat * 0x200000 + i.toNat < 4294967296
  omega
theorem cmpeq (p : BitVec 3) (c : BitVec 2) (a b : BitVec 5) : Statement (.cmpeq p c a b) := by
  show 0x2C000000 + p.toNat * 0x800000 + c.toNat * 0x200000 + a.toNat * 0x10000 + b.toNat * 0x800 < 4294967296
  omega
theorem cmpne (p : BitVec 3) (c : BitVec 2) (a b : BitVec 5) : Statement (.cmpne p c a b) := by
  show 0x2C000001 + p.toNat * 0x800000 + c.toNat * 0x200000 + a.toNat * 0x10000 + b.toNat * 0x800 < 4294967296
  omega
theorem cmplt (p : BitVec 3) (c : BitVec 2) (a b : BitVec 5) : Statement (.cmplt p c a b) := by
  show 0x2C000002 + p.toNat * 0x800000 + c.toNat * 0x200000 + a.toNat * 0x10000 + b.toNat * 0x800 < 4294967296
  omega
theorem cmpge (p : BitVec 3) (c : BitVec 2) (a b : BitVec 5) : Statement (.cmpge p c a b) := by
  show 0x2C000003 + p.toNat * 0x800000 + c.toNat * 0x200000 + a.toNat * 0x10000 + b.toNat * 0x800 < 4294967296
  omega
theorem cmpltu (p : BitVec 3) (c : BitVec 2) (a b : BitVec 5) : Statement (.cmpltu p c a b) := by
  show 0x2C000004 + p.toNat * 0x800000 + c.toNat * 0x200000 + a.toNat * 0x10000 + b.toNat * 0x800 < 4294967296
  omega
theorem cmpgeu (p : BitVec 3) (c : BitVec 2) (a b : BitVec 5) : Statement (.cmpgeu p c a b) := by
  show 0x2C000005 + p.toNat * 0x800000 + c.toNat * 0x200000 + a.toNat * 0x10000 + b.toNat * 0x800 < 4294967296
  omega
theorem fcmpeq (p : BitVec 3) (c : BitVec 2) (a b : BitVec 5) (f : BitVec 2) : Statement (.fcmpeq p c a b f) := by
  show 0x2C000010 + p.toNat * 0x800000 + c.toNat * 0x200000 + a.toNat * 0x10000 + b.toNat * 0x800 + f.toNat * 0x4 < 4294967296
  omega
theorem fcmplt (p : BitVec 3) (c : BitVec 2) (a b : BitVec 5) (f : BitVec 2) : Statement (.fcmplt p c a b f) := by
  show 0x2C000011 + p.toNat * 0x800000 + c.toNat * 0x200000 + a.toNat * 0x10000 + b.toNat * 0x800 + f.toNat * 0x4 < 4294967296
  omega
theorem fcmple (p : BitVec 3) (c : BitVec 2) (a b : BitVec 5) (f : BitVec 2) : Statement (.fcmple p c a b f) := by
  show 0x2C000012 + p.toNat * 0x800000 + c.toNat * 0x200000 + a.toNat * 0x10000 + b.toNat * 0x800 + f.toNat * 0x4 < 4294967296
  omega
theorem fcmpun (p : BitVec 3) (c : BitVec 2) (a b : BitVec 5) (f : BitVec 2) : Statement (.fcmpun p c a b f) := by
  show 0x2C000013 + p.toNat * 0x800000 + c.toNat * 0x200000 + a.toNat * 0x10000 + b.toNat * 0x800 + f.toNat * 0x4 < 4294967296
  omega
theorem cmpeqi (p : BitVec 3) (c : BitVec 2) (a : BitVec 5) (i : BitVec 11) : Statement (.cmpeqi p c a i) := by
  show 0x30000000 + p.toNat * 0x800000 + c.toNat * 0x200000 + a.toNat * 0x10000 + i.toNat < 4294967296
  omega
theorem cmpnei (p : BitVec 3) (c : BitVec 2) (a : BitVec 5) (i : BitVec 11) : Statement (.cmpnei p c a i) := by
  show 0x30000800 + p.toNat * 0x800000 + c.toNat * 0x200000 + a.toNat * 0x10000 + i.toNat < 4294967296
  omega
theorem cmplti (p : BitVec 3) (c : BitVec 2) (a : BitVec 5) (i : BitVec 11) : Statement (.cmplti p c a i) := by
  show 0x30001000 + p.toNat * 0x800000 + c.toNat * 0x200000 + a.toNat * 0x10000 + i.toNat < 4294967296
  omega
theorem cmpgei (p : BitVec 3) (c : BitVec 2) (a : BitVec 5) (i : BitVec 11) : Statement (.cmpgei p c a i) := by
  show 0x30001800 + p.toNat * 0x800000 + c.toNat * 0x200000 + a.toNat * 0x10000 + i.toNat < 4294967296
  omega
theorem cmpltui (p : BitVec 3) (c : BitVec 2) (a : BitVec 5) (i : BitVec 11) : Statement (.cmpltui p c a i) := by
  show 0x30002000 + p.toNat * 0x800000 + c.toNat * 0x200000 + a.toNat * 0x10000 + i.toNat < 4294967296
  omega
theorem cmpgeui (p : BitVec 3) (c : BitVec 2) (a : BitVec 5) (i : BitVec 11) : Statement (.cmpgeui p c a i) := by
  show 0x30002800 + p.toNat * 0x800000 + c.toNat * 0x200000 + a.toNat * 0x10000 + i.toNat < 4294967296
  omega
theorem plog (p : BitVec 3) (c : BitVec 2) (a b : BitVec 3) (t : BitVec 4) : Statement (.plog p c a b t) := by
  show 0x34000000 + p.toNat * 0x800000 + c.toNat * 0x200000 + a.toNat * 0x10000 + b.toNat * 0x800 + t.toNat < 4294967296
  omega
theorem sel (d a b : BitVec 5) (c : BitVec 3) : Statement (.sel d a b c) := by
  show 0x38000000 + d.toNat * 0x200000 + a.toNat * 0x10000 + b.toNat * 0x800 + c.toNat * 0x40 < 4294967296
  omega
theorem fadd (d a b : BitVec 5) (r : BitVec 3) (f : BitVec 2) : Statement (.fadd d a b r f) := by
  show 0x3C000000 + d.toNat * 0x200000 + a.toNat * 0x10000 + b.toNat * 0x800 + r.toNat * 0x100 + f.toNat * 0x40 < 4294967296
  omega
theorem fsub (d a b : BitVec 5) (r : BitVec 3) (f : BitVec 2) : Statement (.fsub d a b r f) := by
  show 0x3C000001 + d.toNat * 0x200000 + a.toNat * 0x10000 + b.toNat * 0x800 + r.toNat * 0x100 + f.toNat * 0x40 < 4294967296
  omega
theorem fmul (d a b : BitVec 5) (r : BitVec 3) (f : BitVec 2) : Statement (.fmul d a b r f) := by
  show 0x3C000002 + d.toNat * 0x200000 + a.toNat * 0x10000 + b.toNat * 0x800 + r.toNat * 0x100 + f.toNat * 0x40 < 4294967296
  omega
theorem fdiv (d a b : BitVec 5) (r : BitVec 3) (f : BitVec 2) : Statement (.fdiv d a b r f) := by
  show 0x3C000003 + d.toNat * 0x200000 + a.toNat * 0x10000 + b.toNat * 0x800 + r.toNat * 0x100 + f.toNat * 0x40 < 4294967296
  omega
theorem fsqrt (d a : BitVec 5) (r : BitVec 3) (f : BitVec 2) : Statement (.fsqrt d a r f) := by
  show 0x3C000004 + d.toNat * 0x200000 + a.toNat * 0x10000 + r.toNat * 0x100 + f.toNat * 0x40 < 4294967296
  omega
theorem fmin (d a b : BitVec 5) (f : BitVec 2) : Statement (.fmin d a b f) := by
  show 0x3C000005 + d.toNat * 0x200000 + a.toNat * 0x10000 + b.toNat * 0x800 + f.toNat * 0x40 < 4294967296
  omega
theorem fmax (d a b : BitVec 5) (f : BitVec 2) : Statement (.fmax d a b f) := by
  show 0x3C000006 + d.toNat * 0x200000 + a.toNat * 0x10000 + b.toNat * 0x800 + f.toNat * 0x40 < 4294967296
  omega
theorem fneg (d a : BitVec 5) (f : BitVec 2) : Statement (.fneg d a f) := by
  show 0x3C000007 + d.toNat * 0x200000 + a.toNat * 0x10000 + f.toNat * 0x40 < 4294967296
  omega
theorem fabs (d a : BitVec 5) (f : BitVec 2) : Statement (.fabs d a f) := by
  show 0x3C000008 + d.toNat * 0x200000 + a.toNat * 0x10000 + f.toNat * 0x40 < 4294967296
  omega
theorem fcpys (d a b : BitVec 5) (f : BitVec 2) : Statement (.fcpys d a b f) := by
  show 0x3C000009 + d.toNat * 0x200000 + a.toNat * 0x10000 + b.toNat * 0x800 + f.toNat * 0x40 < 4294967296
  omega
theorem fkind (d a : BitVec 5) (f : BitVec 2) : Statement (.fkind d a f) := by
  show 0x3C00000A + d.toNat * 0x200000 + a.toNat * 0x10000 + f.toNat * 0x40 < 4294967296
  omega
theorem fcvt (d a : BitVec 5) (g : BitVec 2) (r : BitVec 3) (f : BitVec 2) : Statement (.fcvt d a g r f) := by
  show 0x3C00000B + d.toNat * 0x200000 + a.toNat * 0x10000 + g.toNat * 0x800 + r.toNat * 0x100 + f.toNat * 0x40 < 4294967296
  omega
theorem fcvti (d a t : BitVec 5) (r : BitVec 3) (f : BitVec 2) : Statement (.fcvti d a t r f) := by
  show 0x3C00000C + d.toNat * 0x200000 + a.toNat * 0x10000 + t.toNat * 0x800 + r.toNat * 0x100 + f.toNat * 0x40 < 4294967296
  omega
theorem fcvtf (d a t : BitVec 5) (r : BitVec 3) (f : BitVec 2) : Statement (.fcvtf d a t r f) := by
  show 0x3C00000D + d.toNat * 0x200000 + a.toNat * 0x10000 + t.toNat * 0x800 + r.toNat * 0x100 + f.toNat * 0x40 < 4294967296
  omega
theorem fmadd (d a b c : BitVec 5) (f : BitVec 2) (r : BitVec 3) : Statement (.fmadd d a b c f r) := by
  show 0x40000000 + d.toNat * 0x200000 + a.toNat * 0x10000 + b.toNat * 0x800 + c.toNat * 0x40 + f.toNat * 0x8 + r.toNat < 4294967296
  omega
theorem fnmadd (d a b c : BitVec 5) (f : BitVec 2) (r : BitVec 3) : Statement (.fnmadd d a b c f r) := by
  show 0x40000020 + d.toNat * 0x200000 + a.toNat * 0x10000 + b.toNat * 0x800 + c.toNat * 0x40 + f.toNat * 0x8 + r.toNat < 4294967296
  omega
theorem br (p : BitVec 3) (n : BitVec 1) (o : BitVec 22) : Statement (.br p n o) := by
  show 0x44000000 + p.toNat * 0x800000 + n.toNat * 0x400000 + o.toNat < 4294967296
  omega
theorem call (d : BitVec 5) (i : BitVec 21) : Statement (.call d i) := by
  show 0x48000000 + d.toNat * 0x200000 + i.toNat < 4294967296
  omega
theorem callr (d a : BitVec 5) : Statement (.callr d a) := by
  show 0x4C000000 + d.toNat * 0x200000 + a.toNat * 0x10000 < 4294967296
  omega
theorem rdcsr (d : BitVec 5) (c : BitVec 12) : Statement (.rdcsr d c) := by
  show 0x50000000 + d.toNat * 0x200000 + c.toNat * 0x10 < 4294967296
  omega
theorem wrcsr (a : BitVec 5) (c : BitVec 12) : Statement (.wrcsr a c) := by
  show 0x50000008 + a.toNat * 0x10000 + c.toNat * 0x10 < 4294967296
  omega
theorem xchcsr (d a : BitVec 5) (c : BitVec 12) : Statement (.xchcsr d a c) := by
  show 0x50000009 + d.toNat * 0x200000 + a.toNat * 0x10000 + c.toNat * 0x10 < 4294967296
  omega
theorem setcsr (a : BitVec 5) (c : BitVec 12) : Statement (.setcsr a c) := by
  show 0x5000000A + a.toNat * 0x10000 + c.toNat * 0x10 < 4294967296
  omega
theorem clrcsr (a : BitVec 5) (c : BitVec 12) : Statement (.clrcsr a c) := by
  show 0x5000000B + a.toNat * 0x10000 + c.toNat * 0x10 < 4294967296
  omega
theorem setvl (d a t : BitVec 5) : Statement (.setvl d a t) := by
  show 0x58000000 + d.toNat * 0x200000 + a.toNat * 0x10000 + t.toNat * 0x800 < 4294967296
  omega
theorem vcfg (v t : BitVec 5) : Statement (.vcfg v t) := by
  show 0x58000001 + v.toNat * 0x200000 + t.toNat * 0x10000 < 4294967296
  omega
theorem vkill (a b : BitVec 5) : Statement (.vkill a b) := by
  show 0x58000002 + a.toNat * 0x10000 + b.toNat * 0x800 < 4294967296
  omega
theorem vadd (d a b : BitVec 5) (k : BitVec 2) (r : BitVec 3) : Statement (.vadd d a b k r) := by
  show 0x5C000000 + d.toNat * 0x200000 + a.toNat * 0x10000 + b.toNat * 0x800 + k.toNat * 0x200 + r.toNat * 0x40 < 4294967296
  omega
theorem vsub (d a b : BitVec 5) (k : BitVec 2) (r : BitVec 3) : Statement (.vsub d a b k r) := by
  show 0x5C000001 + d.toNat * 0x200000 + a.toNat * 0x10000 + b.toNat * 0x800 + k.toNat * 0x200 + r.toNat * 0x40 < 4294967296
  omega
theorem vrsub (d a b : BitVec 5) (k : BitVec 2) (r : BitVec 3) : Statement (.vrsub d a b k r) := by
  show 0x5C000002 + d.toNat * 0x200000 + a.toNat * 0x10000 + b.toNat * 0x800 + k.toNat * 0x200 + r.toNat * 0x40 < 4294967296
  omega
theorem vmul (d a b : BitVec 5) (k : BitVec 2) (r : BitVec 3) : Statement (.vmul d a b k r) := by
  show 0x5C000003 + d.toNat * 0x200000 + a.toNat * 0x10000 + b.toNat * 0x800 + k.toNat * 0x200 + r.toNat * 0x40 < 4294967296
  omega
theorem vmulh (d a b : BitVec 5) (k : BitVec 2) : Statement (.vmulh d a b k) := by
  show 0x5C000004 + d.toNat * 0x200000 + a.toNat * 0x10000 + b.toNat * 0x800 + k.toNat * 0x200 < 4294967296
  omega
theorem vmin (d a b : BitVec 5) (k : BitVec 2) : Statement (.vmin d a b k) := by
  show 0x5C000005 + d.toNat * 0x200000 + a.toNat * 0x10000 + b.toNat * 0x800 + k.toNat * 0x200 < 4294967296
  omega
theorem vmax (d a b : BitVec 5) (k : BitVec 2) : Statement (.vmax d a b k) := by
  show 0x5C000006 + d.toNat * 0x200000 + a.toNat * 0x10000 + b.toNat * 0x800 + k.toNat * 0x200 < 4294967296
  omega
theorem vadds (d a b : BitVec 5) (k : BitVec 2) (r : BitVec 3) : Statement (.vadds d a b k r) := by
  show 0x5C000007 + d.toNat * 0x200000 + a.toNat * 0x10000 + b.toNat * 0x800 + k.toNat * 0x200 + r.toNat * 0x40 < 4294967296
  omega
theorem vsubs (d a b : BitVec 5) (k : BitVec 2) (r : BitVec 3) : Statement (.vsubs d a b k r) := by
  show 0x5C000008 + d.toNat * 0x200000 + a.toNat * 0x10000 + b.toNat * 0x800 + k.toNat * 0x200 + r.toNat * 0x40 < 4294967296
  omega
theorem vand (d a b : BitVec 5) (k : BitVec 2) : Statement (.vand d a b k) := by
  show 0x5C000009 + d.toNat * 0x200000 + a.toNat * 0x10000 + b.toNat * 0x800 + k.toNat * 0x200 < 4294967296
  omega
theorem vor (d a b : BitVec 5) (k : BitVec 2) : Statement (.vor d a b k) := by
  show 0x5C00000A + d.toNat * 0x200000 + a.toNat * 0x10000 + b.toNat * 0x800 + k.toNat * 0x200 < 4294967296
  omega
theorem vxor (d a b : BitVec 5) (k : BitVec 2) : Statement (.vxor d a b k) := by
  show 0x5C00000B + d.toNat * 0x200000 + a.toNat * 0x10000 + b.toNat * 0x800 + k.toNat * 0x200 < 4294967296
  omega
theorem vsll (d a b : BitVec 5) (k : BitVec 2) : Statement (.vsll d a b k) := by
  show 0x5C00000C + d.toNat * 0x200000 + a.toNat * 0x10000 + b.toNat * 0x800 + k.toNat * 0x200 < 4294967296
  omega
theorem vsrl (d a b : BitVec 5) (k : BitVec 2) : Statement (.vsrl d a b k) := by
  show 0x5C00000D + d.toNat * 0x200000 + a.toNat * 0x10000 + b.toNat * 0x800 + k.toNat * 0x200 < 4294967296
  omega
theorem vsra (d a b : BitVec 5) (k : BitVec 2) : Statement (.vsra d a b k) := by
  show 0x5C00000E + d.toNat * 0x200000 + a.toNat * 0x10000 + b.toNat * 0x800 + k.toNat * 0x200 < 4294967296
  omega
theorem vmovVv (d a : BitVec 5) : Statement (.vmovVv d a) := by
  show 0x5C00000F + d.toNat * 0x200000 + a.toNat * 0x10000 < 4294967296
  omega
theorem vmovVs (d t b : BitVec 5) : Statement (.vmovVs d t b) := by
  show 0x5C00020F + d.toNat * 0x200000 + t.toNat * 0x10000 + b.toNat * 0x800 < 4294967296
  omega
theorem vmovVi (d t i : BitVec 5) : Statement (.vmovVi d t i) := by
  show 0x5C00040F + d.toNat * 0x200000 + t.toNat * 0x10000 + i.toNat * 0x800 < 4294967296
  omega
theorem vfadd (d a b : BitVec 5) (k : BitVec 2) (r : BitVec 3) : Statement (.vfadd d a b k r) := by
  show 0x60000000 + d.toNat * 0x200000 + a.toNat * 0x10000 + b.toNat * 0x800 + k.toNat * 0x200 + r.toNat * 0x40 < 4294967296
  omega
theorem vfsub (d a b : BitVec 5) (k : BitVec 2) (r : BitVec 3) : Statement (.vfsub d a b k r) := by
  show 0x60000001 + d.toNat * 0x200000 + a.toNat * 0x10000 + b.toNat * 0x800 + k.toNat * 0x200 + r.toNat * 0x40 < 4294967296
  omega
theorem vfmul (d a b : BitVec 5) (k : BitVec 2) (r : BitVec 3) : Statement (.vfmul d a b k r) := by
  show 0x60000002 + d.toNat * 0x200000 + a.toNat * 0x10000 + b.toNat * 0x800 + k.toNat * 0x200 + r.toNat * 0x40 < 4294967296
  omega
theorem vfdiv (d a b : BitVec 5) (k : BitVec 2) (r : BitVec 3) : Statement (.vfdiv d a b k r) := by
  show 0x60000003 + d.toNat * 0x200000 + a.toNat * 0x10000 + b.toNat * 0x800 + k.toNat * 0x200 + r.toNat * 0x40 < 4294967296
  omega
theorem vfsqrt (d a : BitVec 5) (r : BitVec 3) : Statement (.vfsqrt d a r) := by
  show 0x60000004 + d.toNat * 0x200000 + a.toNat * 0x10000 + r.toNat * 0x40 < 4294967296
  omega
theorem vfmin (d a b : BitVec 5) (k : BitVec 2) : Statement (.vfmin d a b k) := by
  show 0x60000005 + d.toNat * 0x200000 + a.toNat * 0x10000 + b.toNat * 0x800 + k.toNat * 0x200 < 4294967296
  omega
theorem vfmax (d a b : BitVec 5) (k : BitVec 2) : Statement (.vfmax d a b k) := by
  show 0x60000006 + d.toNat * 0x200000 + a.toNat * 0x10000 + b.toNat * 0x800 + k.toNat * 0x200 < 4294967296
  omega
theorem vfneg (d a : BitVec 5) : Statement (.vfneg d a) := by
  show 0x60000007 + d.toNat * 0x200000 + a.toNat * 0x10000 < 4294967296
  omega
theorem vfabs (d a : BitVec 5) : Statement (.vfabs d a) := by
  show 0x60000008 + d.toNat * 0x200000 + a.toNat * 0x10000 < 4294967296
  omega
theorem vfcpys (d a b : BitVec 5) (k : BitVec 2) : Statement (.vfcpys d a b k) := by
  show 0x60000009 + d.toNat * 0x200000 + a.toNat * 0x10000 + b.toNat * 0x800 + k.toNat * 0x200 < 4294967296
  omega
theorem vfkind (d a : BitVec 5) : Statement (.vfkind d a) := by
  show 0x6000000A + d.toNat * 0x200000 + a.toNat * 0x10000 < 4294967296
  omega
theorem vmadd (d a b c : BitVec 5) (k : BitVec 2) : Statement (.vmadd d a b c k) := by
  show 0x64000000 + d.toNat * 0x200000 + a.toNat * 0x10000 + b.toNat * 0x800 + c.toNat * 0x40 + k.toNat * 0x10 < 4294967296
  omega
theorem vmsub (d a b c : BitVec 5) (k : BitVec 2) : Statement (.vmsub d a b c k) := by
  show 0x64000001 + d.toNat * 0x200000 + a.toNat * 0x10000 + b.toNat * 0x800 + c.toNat * 0x40 + k.toNat * 0x10 < 4294967296
  omega
theorem vnmadd (d a b c : BitVec 5) (k : BitVec 2) : Statement (.vnmadd d a b c k) := by
  show 0x64000002 + d.toNat * 0x200000 + a.toNat * 0x10000 + b.toNat * 0x800 + c.toNat * 0x40 + k.toNat * 0x10 < 4294967296
  omega
theorem vcmpeq (m : BitVec 3) (a b : BitVec 5) (k : BitVec 2) : Statement (.vcmpeq m a b k) := by
  show 0x68000000 + m.toNat * 0x200000 + a.toNat * 0x10000 + b.toNat * 0x800 + k.toNat * 0x200 < 4294967296
  omega
theorem vcmpne (m : BitVec 3) (a b : BitVec 5) (k : BitVec 2) : Statement (.vcmpne m a b k) := by
  show 0x68000001 + m.toNat * 0x200000 + a.toNat * 0x10000 + b.toNat * 0x800 + k.toNat * 0x200 < 4294967296
  omega
theorem vcmplt (m : BitVec 3) (a b : BitVec 5) (k : BitVec 2) : Statement (.vcmplt m a b k) := by
  show 0x68000002 + m.toNat * 0x200000 + a.toNat * 0x10000 + b.toNat * 0x800 + k.toNat * 0x200 < 4294967296
  omega
theorem vcmple (m : BitVec 3) (a b : BitVec 5) (k : BitVec 2) : Statement (.vcmple m a b k) := by
  show 0x68000003 + m.toNat * 0x200000 + a.toNat * 0x10000 + b.toNat * 0x800 + k.toNat * 0x200 < 4294967296
  omega
theorem vcmpgt (m : BitVec 3) (a b : BitVec 5) (k : BitVec 2) : Statement (.vcmpgt m a b k) := by
  show 0x68000004 + m.toNat * 0x200000 + a.toNat * 0x10000 + b.toNat * 0x800 + k.toNat * 0x200 < 4294967296
  omega
theorem vcmpge (m : BitVec 3) (a b : BitVec 5) (k : BitVec 2) : Statement (.vcmpge m a b k) := by
  show 0x68000005 + m.toNat * 0x200000 + a.toNat * 0x10000 + b.toNat * 0x800 + k.toNat * 0x200 < 4294967296
  omega
theorem vcmpun (m : BitVec 3) (a b : BitVec 5) (k : BitVec 2) : Statement (.vcmpun m a b k) := by
  show 0x68000006 + m.toNat * 0x200000 + a.toNat * 0x10000 + b.toNat * 0x800 + k.toNat * 0x200 < 4294967296
  omega
theorem vcvt (d a : BitVec 5) (r : BitVec 3) (t : BitVec 5) : Statement (.vcvt d a r t) := by
  show 0x6C000000 + d.toNat * 0x200000 + a.toNat * 0x10000 + r.toNat * 0x40 + t.toNat < 4294967296
  omega
theorem vcvts (d a : BitVec 5) (r : BitVec 3) (t : BitVec 5) : Statement (.vcvts d a r t) := by
  show 0x6C000020 + d.toNat * 0x200000 + a.toNat * 0x10000 + r.toNat * 0x40 + t.toNat < 4294967296
  omega
theorem vquant (d a : BitVec 5) (r : BitVec 3) (t : BitVec 2) : Statement (.vquant d a r t) := by
  show 0x6C000030 + d.toNat * 0x200000 + a.toNat * 0x10000 + r.toNat * 0x40 + t.toNat < 4294967296
  omega
theorem vrcp (d a : BitVec 5) : Statement (.vrcp d a) := by
  show 0x70000000 + d.toNat * 0x200000 + a.toNat * 0x10000 < 4294967296
  omega
theorem vrsqrt (d a : BitVec 5) : Statement (.vrsqrt d a) := by
  show 0x70000001 + d.toNat * 0x200000 + a.toNat * 0x10000 < 4294967296
  omega
theorem vexp2 (d a : BitVec 5) : Statement (.vexp2 d a) := by
  show 0x70000002 + d.toNat * 0x200000 + a.toNat * 0x10000 < 4294967296
  omega
theorem vidx (d : BitVec 5) (s t : BitVec 8) (g : BitVec 2) : Statement (.vidx d s t g) := by
  show 0x7400001C + d.toNat * 0x200000 + s.toNat * 0x2000 + t.toNat * 0x20 + g.toNat < 4294967296
  omega
theorem vgather (d a b : BitVec 5) (k : BitVec 2) : Statement (.vgather d a b k) := by
  show 0x74000000 + d.toNat * 0x200000 + a.toNat * 0x10000 + b.toNat * 0x800 + k.toNat * 0x200 < 4294967296
  omega
theorem vslideup (d a b : BitVec 5) (k : BitVec 2) : Statement (.vslideup d a b k) := by
  show 0x74000001 + d.toNat * 0x200000 + a.toNat * 0x10000 + b.toNat * 0x800 + k.toNat * 0x200 < 4294967296
  omega
theorem vslidedn (d a b : BitVec 5) (k : BitVec 2) : Statement (.vslidedn d a b k) := by
  show 0x74000002 + d.toNat * 0x200000 + a.toNat * 0x10000 + b.toNat * 0x800 + k.toNat * 0x200 < 4294967296
  omega
theorem vslide1up (d a b : BitVec 5) : Statement (.vslide1up d a b) := by
  show 0x74000203 + d.toNat * 0x200000 + a.toNat * 0x10000 + b.toNat * 0x800 < 4294967296
  omega
theorem vslide1dn (d a b : BitVec 5) : Statement (.vslide1dn d a b) := by
  show 0x74000204 + d.toNat * 0x200000 + a.toNat * 0x10000 + b.toNat * 0x800 < 4294967296
  omega
theorem vcompress (d a : BitVec 5) (m : BitVec 3) : Statement (.vcompress d a m) := by
  show 0x74000005 + d.toNat * 0x200000 + a.toNat * 0x10000 + m.toNat * 0x800 < 4294967296
  omega
theorem vexpand (d a : BitVec 5) (m : BitVec 3) : Statement (.vexpand d a m) := by
  show 0x74000006 + d.toNat * 0x200000 + a.toNat * 0x10000 + m.toNat * 0x800 < 4294967296
  omega
theorem vredsum (d a b : BitVec 5) (r : BitVec 3) : Statement (.vredsum d a b r) := by
  show 0x78000200 + d.toNat * 0x200000 + a.toNat * 0x10000 + b.toNat * 0x800 + r.toNat * 0x40 < 4294967296
  omega
theorem vredmax (d a b : BitVec 5) : Statement (.vredmax d a b) := by
  show 0x78000201 + d.toNat * 0x200000 + a.toNat * 0x10000 + b.toNat * 0x800 < 4294967296
  omega
theorem vredmin (d a b : BitVec 5) : Statement (.vredmin d a b) := by
  show 0x78000202 + d.toNat * 0x200000 + a.toNat * 0x10000 + b.toNat * 0x800 < 4294967296
  omega
theorem vredand (d a b : BitVec 5) : Statement (.vredand d a b) := by
  show 0x78000203 + d.toNat * 0x200000 + a.toNat * 0x10000 + b.toNat * 0x800 < 4294967296
  omega
theorem vredor (d a b : BitVec 5) : Statement (.vredor d a b) := by
  show 0x78000204 + d.toNat * 0x200000 + a.toNat * 0x10000 + b.toNat * 0x800 < 4294967296
  omega
theorem vscansum (d a b : BitVec 5) (r : BitVec 3) : Statement (.vscansum d a b r) := by
  show 0x78000208 + d.toNat * 0x200000 + a.toNat * 0x10000 + b.toNat * 0x800 + r.toNat * 0x40 < 4294967296
  omega
theorem vscanmax (d a b : BitVec 5) : Statement (.vscanmax d a b) := by
  show 0x78000209 + d.toNat * 0x200000 + a.toNat * 0x10000 + b.toNat * 0x800 < 4294967296
  omega
theorem vscanmin (d a b : BitVec 5) : Statement (.vscanmin d a b) := by
  show 0x7800020A + d.toNat * 0x200000 + a.toNat * 0x10000 + b.toNat * 0x800 < 4294967296
  omega
theorem vxscansum (d a b : BitVec 5) (r : BitVec 3) : Statement (.vxscansum d a b r) := by
  show 0x7800020C + d.toNat * 0x200000 + a.toNat * 0x10000 + b.toNat * 0x800 + r.toNat * 0x40 < 4294967296
  omega
theorem vxscanmax (d a b : BitVec 5) : Statement (.vxscanmax d a b) := by
  show 0x7800020D + d.toNat * 0x200000 + a.toNat * 0x10000 + b.toNat * 0x800 < 4294967296
  omega
theorem vxscanmin (d a b : BitVec 5) : Statement (.vxscanmin d a b) := by
  show 0x7800020E + d.toNat * 0x200000 + a.toNat * 0x10000 + b.toNat * 0x800 < 4294967296
  omega
theorem vconf (d a : BitVec 5) : Statement (.vconf d a) := by
  show 0x78000010 + d.toNat * 0x200000 + a.toNat * 0x10000 < 4294967296
  omega
theorem mpopc (d : BitVec 5) (m : BitVec 3) : Statement (.mpopc d m) := by
  show 0x78000018 + d.toNat * 0x200000 + m.toNat * 0x10000 < 4294967296
  omega
theorem mfirst (d : BitVec 5) (m : BitVec 3) : Statement (.mfirst d m) := by
  show 0x78000019 + d.toNat * 0x200000 + m.toNat * 0x10000 < 4294967296
  omega
theorem mlog (d a b : BitVec 3) (t : BitVec 4) : Statement (.mlog d a b t) := by
  show 0x7C000000 + d.toNat * 0x200000 + a.toNat * 0x10000 + b.toNat * 0x800 + t.toNat < 4294967296
  omega
theorem msbf (d a : BitVec 3) : Statement (.msbf d a) := by
  show 0x7C000010 + d.toNat * 0x200000 + a.toNat * 0x10000 < 4294967296
  omega
theorem msif (d a : BitVec 3) : Statement (.msif d a) := by
  show 0x7C000020 + d.toNat * 0x200000 + a.toNat * 0x10000 < 4294967296
  omega
theorem msof (d a : BitVec 3) : Statement (.msof d a) := by
  show 0x7C000030 + d.toNat * 0x200000 + a.toNat * 0x10000 < 4294967296
  omega
theorem tshape (d a : BitVec 5) : Statement (.tshape d a) := by
  show 0x80000000 + d.toNat * 0x200000 + a.toNat * 0x10000 < 4294967296
  omega
theorem tldb (a b : BitVec 5) (s o : BitVec 1) (f : BitVec 3) : Statement (.tldb a b s o f) := by
  show 0x80000003 + a.toNat * 0x10000 + b.toNat * 0x800 + s.toNat * 0x100 + o.toNat * 0x80 + f.toNat * 0x10 < 4294967296
  omega
theorem tmma (j : BitVec 2) (a b : BitVec 5) (o : BitVec 1) (f : BitVec 3) : Statement (.tmma j a b o f) := by
  show 0x80000004 + j.toNat * 0x200000 + a.toNat * 0x10000 + b.toNat * 0x800 + o.toNat * 0x80 + f.toNat * 0x10 < 4294967296
  omega
theorem tdrain (j : BitVec 2) (a b : BitVec 5) (s : BitVec 1) (r t : BitVec 3) : Statement (.tdrain j a b s r t) := by
  show 0x80000005 + j.toNat * 0x200000 + a.toNat * 0x10000 + b.toNat * 0x800 + s.toNat * 0x400 + r.toNat * 0x80 + t.toNat * 0x10 < 4294967296
  omega
theorem taccld (j : BitVec 2) (a b : BitVec 5) (s : BitVec 1) : Statement (.taccld j a b s) := by
  show 0x80000006 + j.toNat * 0x200000 + a.toNat * 0x10000 + b.toNat * 0x800 + s.toNat * 0x400 < 4294967296
  omega
theorem trdacc (d : BitVec 5) (j : BitVec 2) (b : BitVec 5) : Statement (.trdacc d j b) := by
  show 0x80000007 + d.toNat * 0x200000 + j.toNat * 0x10000 + b.toNat * 0x800 < 4294967296
  omega
theorem ld (d a : BitVec 5) (z : BitVec 3) (p : BitVec 2) (o : BitVec 11) : Statement (.ld d a z p o) := by
  show 0x88000000 + d.toNat * 0x200000 + a.toNat * 0x10000 + z.toNat * 0x2000 + p.toNat * 0x800 + o.toNat < 4294967296
  omega
theorem ldGrp (d a : BitVec 5) (o : BitVec 3) (t : BitVec 5) : Statement (.ldGrp d a o t) := by
  show 0x88007800 + d.toNat * 0x200000 + a.toNat * 0x10000 + o.toNat * 0x20 + t.toNat < 4294967296
  omega
theorem st (d a : BitVec 5) (z p : BitVec 2) (o : BitVec 11) : Statement (.st d a z p o) := by
  show 0x8C000000 + d.toNat * 0x200000 + a.toNat * 0x10000 + z.toNat * 0x2000 + p.toNat * 0x800 + o.toNat < 4294967296
  omega
theorem ldSem (d a : BitVec 5) (c : BitVec 3) (e : BitVec 2) (w p : BitVec 1) : Statement (.ldSem d a c e w p) := by
  show 0x90000000 + d.toNat * 0x200000 + a.toNat * 0x10000 + c.toNat * 0x100 + e.toNat * 0x40 + w.toNat * 0x20 + p.toNat * 0x10 < 4294967296
  omega
theorem ldFe (d a : BitVec 5) (c : BitVec 3) (e : BitVec 2) (w p : BitVec 1) : Statement (.ldFe d a c e w p) := by
  show 0x90000001 + d.toNat * 0x200000 + a.toNat * 0x10000 + c.toNat * 0x100 + e.toNat * 0x40 + w.toNat * 0x20 + p.toNat * 0x10 < 4294967296
  omega
theorem ldFc (d a : BitVec 5) (c : BitVec 3) (e : BitVec 2) (w p : BitVec 1) : Statement (.ldFc d a c e w p) := by
  show 0x90000002 + d.toNat * 0x200000 + a.toNat * 0x10000 + c.toNat * 0x100 + e.toNat * 0x40 + w.toNat * 0x20 + p.toNat * 0x10 < 4294967296
  omega
theorem stSem (d a : BitVec 5) (c : BitVec 3) (e : BitVec 2) (w p : BitVec 1) : Statement (.stSem d a c e w p) := by
  show 0x90000008 + d.toNat * 0x200000 + a.toNat * 0x10000 + c.toNat * 0x100 + e.toNat * 0x40 + w.toNat * 0x20 + p.toNat * 0x10 < 4294967296
  omega
theorem stFe (d a : BitVec 5) (c : BitVec 3) (e : BitVec 2) (w p : BitVec 1) : Statement (.stFe d a c e w p) := by
  show 0x90000009 + d.toNat * 0x200000 + a.toNat * 0x10000 + c.toNat * 0x100 + e.toNat * 0x40 + w.toNat * 0x20 + p.toNat * 0x10 < 4294967296
  omega
theorem atadd (d a b : BitVec 5) (c : BitVec 3) (e : BitVec 2) (w p : BitVec 1) : Statement (.atadd d a b c e w p) := by
  show 0x94000000 + d.toNat * 0x200000 + a.toNat * 0x10000 + b.toNat * 0x800 + c.toNat * 0x100 + e.toNat * 0x40 + w.toNat * 0x20 + p.toNat * 0x10 < 4294967296
  omega
theorem atand (d a b : BitVec 5) (c : BitVec 3) (e : BitVec 2) (w p : BitVec 1) : Statement (.atand d a b c e w p) := by
  show 0x94000001 + d.toNat * 0x200000 + a.toNat * 0x10000 + b.toNat * 0x800 + c.toNat * 0x100 + e.toNat * 0x40 + w.toNat * 0x20 + p.toNat * 0x10 < 4294967296
  omega
theorem ator (d a b : BitVec 5) (c : BitVec 3) (e : BitVec 2) (w p : BitVec 1) : Statement (.ator d a b c e w p) := by
  show 0x94000002 + d.toNat * 0x200000 + a.toNat * 0x10000 + b.toNat * 0x800 + c.toNat * 0x100 + e.toNat * 0x40 + w.toNat * 0x20 + p.toNat * 0x10 < 4294967296
  omega
theorem atxor (d a b : BitVec 5) (c : BitVec 3) (e : BitVec 2) (w p : BitVec 1) : Statement (.atxor d a b c e w p) := by
  show 0x94000003 + d.toNat * 0x200000 + a.toNat * 0x10000 + b.toNat * 0x800 + c.toNat * 0x100 + e.toNat * 0x40 + w.toNat * 0x20 + p.toNat * 0x10 < 4294967296
  omega
theorem atmin (d a b : BitVec 5) (c : BitVec 3) (e : BitVec 2) (w p : BitVec 1) : Statement (.atmin d a b c e w p) := by
  show 0x94000004 + d.toNat * 0x200000 + a.toNat * 0x10000 + b.toNat * 0x800 + c.toNat * 0x100 + e.toNat * 0x40 + w.toNat * 0x20 + p.toNat * 0x10 < 4294967296
  omega
theorem atmax (d a b : BitVec 5) (c : BitVec 3) (e : BitVec 2) (w p : BitVec 1) : Statement (.atmax d a b c e w p) := by
  show 0x94000005 + d.toNat * 0x200000 + a.toNat * 0x10000 + b.toNat * 0x800 + c.toNat * 0x100 + e.toNat * 0x40 + w.toNat * 0x20 + p.toNat * 0x10 < 4294967296
  omega
theorem atminn (d a b : BitVec 5) (c : BitVec 3) (e : BitVec 2) (w p : BitVec 1) : Statement (.atminn d a b c e w p) := by
  show 0x94000006 + d.toNat * 0x200000 + a.toNat * 0x10000 + b.toNat * 0x800 + c.toNat * 0x100 + e.toNat * 0x40 + w.toNat * 0x20 + p.toNat * 0x10 < 4294967296
  omega
theorem atmaxn (d a b : BitVec 5) (c : BitVec 3) (e : BitVec 2) (w p : BitVec 1) : Statement (.atmaxn d a b c e w p) := by
  show 0x94000007 + d.toNat * 0x200000 + a.toNat * 0x10000 + b.toNat * 0x800 + c.toNat * 0x100 + e.toNat * 0x40 + w.toNat * 0x20 + p.toNat * 0x10 < 4294967296
  omega
theorem atxch (d a b : BitVec 5) (c : BitVec 3) (e : BitVec 2) (w p : BitVec 1) : Statement (.atxch d a b c e w p) := by
  show 0x94000008 + d.toNat * 0x200000 + a.toNat * 0x10000 + b.toNat * 0x800 + c.toNat * 0x100 + e.toNat * 0x40 + w.toNat * 0x20 + p.toNat * 0x10 < 4294967296
  omega
theorem atcmpx (d a b : BitVec 5) (c : BitVec 3) (e : BitVec 2) (w p : BitVec 1) : Statement (.atcmpx d a b c e w p) := by
  show 0x94000009 + d.toNat * 0x200000 + a.toNat * 0x10000 + b.toNat * 0x800 + c.toNat * 0x100 + e.toNat * 0x40 + w.toNat * 0x20 + p.toNat * 0x10 < 4294967296
  omega
theorem vld8 (d a b : BitVec 5) (m : BitVec 2) (o : BitVec 1) (e : BitVec 2) (c : BitVec 3) : Statement (.vld8 d a b m o e c) := by
  show 0x98000000 + d.toNat * 0x200000 + a.toNat * 0x10000 + b.toNat * 0x800 + m.toNat * 0x200 + o.toNat * 0x100 + e.toNat * 0x40 + c.toNat * 0x8 < 4294967296
  omega
theorem vld16 (d a b : BitVec 5) (m : BitVec 2) (o : BitVec 1) (e : BitVec 2) (c : BitVec 3) : Statement (.vld16 d a b m o e c) := by
  show 0x98000001 + d.toNat * 0x200000 + a.toNat * 0x10000 + b.toNat * 0x800 + m.toNat * 0x200 + o.toNat * 0x100 + e.toNat * 0x40 + c.toNat * 0x8 < 4294967296
  omega
theorem vld32 (d a b : BitVec 5) (m : BitVec 2) (o : BitVec 1) (e : BitVec 2) (c : BitVec 3) : Statement (.vld32 d a b m o e c) := by
  show 0x98000002 + d.toNat * 0x200000 + a.toNat * 0x10000 + b.toNat * 0x800 + m.toNat * 0x200 + o.toNat * 0x100 + e.toNat * 0x40 + c.toNat * 0x8 < 4294967296
  omega
theorem vld64 (d a b : BitVec 5) (m : BitVec 2) (o : BitVec 1) (e : BitVec 2) (c : BitVec 3) : Statement (.vld64 d a b m o e c) := by
  show 0x98000003 + d.toNat * 0x200000 + a.toNat * 0x10000 + b.toNat * 0x800 + m.toNat * 0x200 + o.toNat * 0x100 + e.toNat * 0x40 + c.toNat * 0x8 < 4294967296
  omega
theorem vld4 (d a : BitVec 5) (b : BitVec 3) (o : BitVec 1) (e : BitVec 2) (c : BitVec 3) : Statement (.vld4 d a b o e c) := by
  show 0x98000004 + d.toNat * 0x200000 + a.toNat * 0x10000 + b.toNat * 0x800 + o.toNat * 0x100 + e.toNat * 0x40 + c.toNat * 0x8 < 4294967296
  omega
theorem vldmx4 (d a : BitVec 5) (b : BitVec 3) (o : BitVec 1) (e : BitVec 2) (c : BitVec 3) : Statement (.vldmx4 d a b o e c) := by
  show 0x98000005 + d.toNat * 0x200000 + a.toNat * 0x10000 + b.toNat * 0x800 + o.toNat * 0x100 + e.toNat * 0x40 + c.toNat * 0x8 < 4294967296
  omega
theorem vldmx8 (d a : BitVec 5) (b : BitVec 3) (o : BitVec 1) (e : BitVec 2) (c : BitVec 3) : Statement (.vldmx8 d a b o e c) := by
  show 0x98000006 + d.toNat * 0x200000 + a.toNat * 0x10000 + b.toNat * 0x800 + o.toNat * 0x100 + e.toNat * 0x40 + c.toNat * 0x8 < 4294967296
  omega
theorem vldmxi8 (d a : BitVec 5) (b : BitVec 3) (o : BitVec 1) (e : BitVec 2) (c : BitVec 3) : Statement (.vldmxi8 d a b o e c) := by
  show 0x98000007 + d.toNat * 0x200000 + a.toNat * 0x10000 + b.toNat * 0x800 + o.toNat * 0x100 + e.toNat * 0x40 + c.toNat * 0x8 < 4294967296
  omega
theorem vst8 (d a b : BitVec 5) (m : BitVec 2) (o : BitVec 1) (e : BitVec 2) (c : BitVec 3) : Statement (.vst8 d a b m o e c) := by
  show 0x9C000000 + d.toNat * 0x200000 + a.toNat * 0x10000 + b.toNat * 0x800 + m.toNat * 0x200 + o.toNat * 0x100 + e.toNat * 0x40 + c.toNat * 0x8 < 4294967296
  omega
theorem vst16 (d a b : BitVec 5) (m : BitVec 2) (o : BitVec 1) (e : BitVec 2) (c : BitVec 3) : Statement (.vst16 d a b m o e c) := by
  show 0x9C000001 + d.toNat * 0x200000 + a.toNat * 0x10000 + b.toNat * 0x800 + m.toNat * 0x200 + o.toNat * 0x100 + e.toNat * 0x40 + c.toNat * 0x8 < 4294967296
  omega
theorem vst32 (d a b : BitVec 5) (m : BitVec 2) (o : BitVec 1) (e : BitVec 2) (c : BitVec 3) : Statement (.vst32 d a b m o e c) := by
  show 0x9C000002 + d.toNat * 0x200000 + a.toNat * 0x10000 + b.toNat * 0x800 + m.toNat * 0x200 + o.toNat * 0x100 + e.toNat * 0x40 + c.toNat * 0x8 < 4294967296
  omega
theorem vst64 (d a b : BitVec 5) (m : BitVec 2) (o : BitVec 1) (e : BitVec 2) (c : BitVec 3) : Statement (.vst64 d a b m o e c) := by
  show 0x9C000003 + d.toNat * 0x200000 + a.toNat * 0x10000 + b.toNat * 0x800 + m.toNat * 0x200 + o.toNat * 0x100 + e.toNat * 0x40 + c.toNat * 0x8 < 4294967296
  omega
theorem vst4 (d a : BitVec 5) (o : BitVec 1) (e : BitVec 2) (c : BitVec 3) : Statement (.vst4 d a o e c) := by
  show 0x9C000004 + d.toNat * 0x200000 + a.toNat * 0x10000 + o.toNat * 0x100 + e.toNat * 0x40 + c.toNat * 0x8 < 4294967296
  omega
theorem vstmx4 (d a : BitVec 5) (o : BitVec 1) (e : BitVec 2) (c : BitVec 3) : Statement (.vstmx4 d a o e c) := by
  show 0x9C000005 + d.toNat * 0x200000 + a.toNat * 0x10000 + o.toNat * 0x100 + e.toNat * 0x40 + c.toNat * 0x8 < 4294967296
  omega
theorem vstmx8 (d a : BitVec 5) (o : BitVec 1) (e : BitVec 2) (c : BitVec 3) : Statement (.vstmx8 d a o e c) := by
  show 0x9C000006 + d.toNat * 0x200000 + a.toNat * 0x10000 + o.toNat * 0x100 + e.toNat * 0x40 + c.toNat * 0x8 < 4294967296
  omega
theorem vstmxi8 (d a : BitVec 5) (o : BitVec 1) (e : BitVec 2) (c : BitVec 3) : Statement (.vstmxi8 d a o e c) := by
  show 0x9C000007 + d.toNat * 0x200000 + a.toNat * 0x10000 + o.toNat * 0x100 + e.toNat * 0x40 + c.toNat * 0x8 < 4294967296
  omega
theorem vatadd (d a b : BitVec 5) (m : BitVec 2) (o : BitVec 1) (e : BitVec 2) (c : BitVec 3) : Statement (.vatadd d a b m o e c) := by
  show 0xA0000000 + d.toNat * 0x200000 + a.toNat * 0x10000 + b.toNat * 0x800 + m.toNat * 0x200 + o.toNat * 0x100 + e.toNat * 0x40 + c.toNat * 0x8 < 4294967296
  omega
theorem vatand (d a b : BitVec 5) (m : BitVec 2) (o : BitVec 1) (e : BitVec 2) (c : BitVec 3) : Statement (.vatand d a b m o e c) := by
  show 0xA0000001 + d.toNat * 0x200000 + a.toNat * 0x10000 + b.toNat * 0x800 + m.toNat * 0x200 + o.toNat * 0x100 + e.toNat * 0x40 + c.toNat * 0x8 < 4294967296
  omega
theorem vator (d a b : BitVec 5) (m : BitVec 2) (o : BitVec 1) (e : BitVec 2) (c : BitVec 3) : Statement (.vator d a b m o e c) := by
  show 0xA0000002 + d.toNat * 0x200000 + a.toNat * 0x10000 + b.toNat * 0x800 + m.toNat * 0x200 + o.toNat * 0x100 + e.toNat * 0x40 + c.toNat * 0x8 < 4294967296
  omega
theorem vatxor (d a b : BitVec 5) (m : BitVec 2) (o : BitVec 1) (e : BitVec 2) (c : BitVec 3) : Statement (.vatxor d a b m o e c) := by
  show 0xA0000003 + d.toNat * 0x200000 + a.toNat * 0x10000 + b.toNat * 0x800 + m.toNat * 0x200 + o.toNat * 0x100 + e.toNat * 0x40 + c.toNat * 0x8 < 4294967296
  omega
theorem vatmin (d a b : BitVec 5) (m : BitVec 2) (o : BitVec 1) (e : BitVec 2) (c : BitVec 3) : Statement (.vatmin d a b m o e c) := by
  show 0xA0000004 + d.toNat * 0x200000 + a.toNat * 0x10000 + b.toNat * 0x800 + m.toNat * 0x200 + o.toNat * 0x100 + e.toNat * 0x40 + c.toNat * 0x8 < 4294967296
  omega
theorem vatmax (d a b : BitVec 5) (m : BitVec 2) (o : BitVec 1) (e : BitVec 2) (c : BitVec 3) : Statement (.vatmax d a b m o e c) := by
  show 0xA0000005 + d.toNat * 0x200000 + a.toNat * 0x10000 + b.toNat * 0x800 + m.toNat * 0x200 + o.toNat * 0x100 + e.toNat * 0x40 + c.toNat * 0x8 < 4294967296
  omega
theorem vatxch (d a b : BitVec 5) (m : BitVec 2) (o : BitVec 1) (e : BitVec 2) (c : BitVec 3) : Statement (.vatxch d a b m o e c) := by
  show 0xA0000006 + d.toNat * 0x200000 + a.toNat * 0x10000 + b.toNat * 0x800 + m.toNat * 0x200 + o.toNat * 0x100 + e.toNat * 0x40 + c.toNat * 0x8 < 4294967296
  omega
theorem fence (c : BitVec 3) (e : BitVec 2) : Statement (.fence c e) := by
  show 0xA4000000 + c.toNat * 0x100 + e.toNat * 0x40 < 4294967296
  omega
theorem waita (d a b : BitVec 5) (c : BitVec 3) (e w p : BitVec 1) : Statement (.waita d a b c e w p) := by
  show 0xA4000001 + d.toNat * 0x200000 + a.toNat * 0x10000 + b.toNat * 0x800 + c.toNat * 0x100 + e.toNat * 0x40 + w.toNat * 0x20 + p.toNat * 0x10 < 4294967296
  omega
theorem rwb (a b : BitVec 5) (p : BitVec 1) : Statement (.rwb a b p) := by
  show 0xA4000002 + a.toNat * 0x10000 + b.toNat * 0x800 + p.toNat * 0x10 < 4294967296
  omega
theorem rinv (a b : BitVec 5) (p : BitVec 1) : Statement (.rinv a b p) := by
  show 0xA4000003 + a.toNat * 0x10000 + b.toNat * 0x800 + p.toNat * 0x10 < 4294967296
  omega
theorem stmap (d a b : BitVec 5) : Statement (.stmap d a b) := by
  show 0xA4000004 + d.toNat * 0x200000 + a.toNat * 0x10000 + b.toNat * 0x800 < 4294967296
  omega
theorem stunmap (d b : BitVec 5) : Statement (.stunmap d b) := by
  show 0xA4000005 + d.toNat * 0x200000 + b.toNat * 0x800 < 4294967296
  omega
theorem strm (a : BitVec 5) (j : BitVec 3) (s : BitVec 1) : Statement (.strm a j s) := by
  show 0xA8000000 + a.toNat * 0x10000 + j.toNat * 0x10 + s.toNat * 0x8 < 4294967296
  omega
theorem strmv (d a b : BitVec 5) (p : BitVec 1) (n j : BitVec 3) (s : BitVec 1) : Statement (.strmv d a b p n j s) := by
  show 0xA8000001 + d.toNat * 0x200000 + a.toNat * 0x10000 + b.toNat * 0x800 + p.toNat * 0x400 + n.toNat * 0x80 + j.toNat * 0x10 + s.toNat * 0x8 < 4294967296
  omega
theorem strmw (b : BitVec 5) (j : BitVec 3) : Statement (.strmw b j) := by
  show 0xA8000002 + b.toNat * 0x800 + j.toNat * 0x10 < 4294967296
  omega
theorem send (d a h : BitVec 5) (l : BitVec 7) (s : BitVec 1) : Statement (.send d a h l s) := by
  show 0xAC000000 + d.toNat * 0x200000 + a.toNat * 0x10000 + h.toNat * 0x800 + l.toNat * 0x10 + s.toNat < 4294967296
  omega
theorem recv (d a h : BitVec 5) (l : BitVec 7) (s : BitVec 1) : Statement (.recv d a h l s) := by
  show 0xAC000002 + d.toNat * 0x200000 + a.toNat * 0x10000 + h.toNat * 0x800 + l.toNat * 0x10 + s.toNat < 4294967296
  omega
theorem recvt (d a h : BitVec 5) (l : BitVec 7) (s : BitVec 1) : Statement (.recvt d a h l s) := by
  show 0xAC000004 + d.toNat * 0x200000 + a.toNat * 0x10000 + h.toNat * 0x800 + l.toNat * 0x10 + s.toNat < 4294967296
  omega
theorem tokw (a b : BitVec 5) (s : BitVec 1) : Statement (.tokw a b s) := by
  show 0xAC000006 + a.toNat * 0x10000 + b.toNat * 0x800 + s.toNat < 4294967296
  omega
theorem launch (d a : BitVec 5) (s : BitVec 1) : Statement (.launch d a s) := by
  show 0xB0000000 + d.toNat * 0x200000 + a.toNat * 0x10000 + s.toNat * 0x400 < 4294967296
  omega
theorem dleave (m : BitVec 4) : Statement (.dleave m) := by
  show 0xB0000003 + m.toNat * 0x10 < 4294967296
  omega
theorem coll (a : BitVec 5) (s : BitVec 1) (j : BitVec 3) : Statement (.coll a s j) := by
  show 0xB0000004 + a.toNat * 0x10000 + s.toNat * 0x400 + j.toNat * 0x10 < 4294967296
  omega
theorem migrate (a : BitVec 5) : Statement (.migrate a) := by
  show 0xB4000002 + a.toNat * 0x10000 < 4294967296
  omega
theorem sysc (a : BitVec 5) : Statement (.sysc a) := by
  show 0xB4000004 + a.toNat * 0x10000 < 4294967296
  omega
theorem ctxsave (d a b : BitVec 5) : Statement (.ctxsave d a b) := by
  show 0xB4000005 + d.toNat * 0x200000 + a.toNat * 0x10000 + b.toNat * 0x800 < 4294967296
  omega
theorem ctxload (d a b : BitVec 5) : Statement (.ctxload d a b) := by
  show 0xB4000006 + d.toNat * 0x200000 + a.toNat * 0x10000 + b.toNat * 0x800 < 4294967296
  omega
theorem tblw (d a b : BitVec 5) : Statement (.tblw d a b) := by
  show 0xB8000000 + d.toNat * 0x200000 + a.toNat * 0x10000 + b.toNat * 0x800 < 4294967296
  omega
theorem tblr (d a b : BitVec 5) : Statement (.tblr d a b) := by
  show 0xB8000001 + d.toNat * 0x200000 + a.toNat * 0x10000 + b.toNat * 0x800 < 4294967296
  omega
theorem tinv (d a b : BitVec 5) : Statement (.tinv d a b) := by
  show 0xB8000002 + d.toNat * 0x200000 + a.toNat * 0x10000 + b.toNat * 0x800 < 4294967296
  omega
theorem agrd (d a : BitVec 5) : Statement (.agrd d a) := by
  show 0xBC000000 + d.toNat * 0x200000 + a.toNat * 0x10000 < 4294967296
  omega
theorem agrdx (d a b : BitVec 5) : Statement (.agrdx d a b) := by
  show 0xBC000001 + d.toNat * 0x200000 + a.toNat * 0x10000 + b.toNat * 0x800 < 4294967296
  omega
theorem mgnreq (d a b : BitVec 5) : Statement (.mgnreq d a b) := by
  show 0xBC000002 + d.toNat * 0x200000 + a.toNat * 0x10000 + b.toNat * 0x800 < 4294967296
  omega
theorem ctrdx (d a b : BitVec 5) : Statement (.ctrdx d a b) := by
  show 0xBC000010 + d.toNat * 0x200000 + a.toNat * 0x10000 + b.toNat * 0x800 < 4294967296
  omega
theorem ctzero (d b : BitVec 5) : Statement (.ctzero d b) := by
  show 0xBC000011 + d.toNat * 0x200000 + b.toNat * 0x800 < 4294967296
  omega
theorem pfL2r (a : BitVec 5) (i : BitVec 16) : Statement (.pfL2r a i) := by
  show 0xF0010000 + a.toNat * 0x200000 + i.toNat < 4294967296
  omega
theorem pfL2w (a : BitVec 5) (i : BitVec 16) : Statement (.pfL2w a i) := by
  show 0xF0020000 + a.toNat * 0x200000 + i.toNat < 4294967296
  omega
theorem pfL1 (a : BitVec 5) (i : BitVec 16) : Statement (.pfL1 a i) := by
  show 0xF0030000 + a.toNat * 0x200000 + i.toNat < 4294967296
  omega
theorem pri (n : BitVec 4) : Statement (.pri n) := by
  show 0xF0100000 + n.toNat * 0x10000 < 4294967296
  omega
theorem hint (h : BitVec 1) (a k : BitVec 5) (i : BitVec 16) : Statement (.hint h a k i) := by
  show 0xF0000000 + h.toNat * 0x4000000 + a.toNat * 0x200000 + k.toNat * 0x10000 + i.toNat < 4294967296
  omega
theorem trel : Statement .trel := (by decide : 0x80000001 < 4294967296)
theorem tzero0 : Statement .tzero0 := (by decide : 0x80000002 < 4294967296)
theorem tzero1 : Statement .tzero1 := (by decide : 0x80200002 < 4294967296)
theorem tzero2 : Statement .tzero2 := (by decide : 0x80400002 < 4294967296)
theorem tzero3 : Statement .tzero3 := (by decide : 0x80600002 < 4294967296)
theorem uiret : Statement .uiret := (by decide : 0xA8000003 < 4294967296)
theorem endT : Statement .endT := (by decide : 0xB0000001 < 4294967296)
theorem bar0 : Statement .bar0 := (by decide : 0xB0000002 < 4294967296)
theorem bar1 : Statement .bar1 := (by decide : 0xB0000012 < 4294967296)
theorem bar2 : Statement .bar2 := (by decide : 0xB0000022 < 4294967296)
theorem bar3 : Statement .bar3 := (by decide : 0xB0000032 < 4294967296)
theorem tret : Statement .tret := (by decide : 0xB4000000 < 4294967296)
theorem vresume : Statement .vresume := (by decide : 0xB4000001 < 4294967296)
theorem brk : Statement .brk := (by decide : 0xB4000003 < 4294967296)
theorem migrationInject (c t : Nat) : Statement (.migrationInject c t) := show 0 < 4294967296 by decide
theorem migrationArrival (c t : Nat) : Statement (.migrationArrival c t) := show 0 < 4294967296 by decide
theorem arrivalBufferAdmit (core : Nat) : Statement (.arrivalBufferAdmit core) := show 0 < 4294967296 by decide
theorem vectorLazyLoad (c t : Nat) (v : BitVec 5) : Statement (.vectorLazyLoad c t v) := show 0 < 4294967296 by decide
theorem threadBind (core : Nat) : Statement (.threadBind core) := show 0 < 4294967296 by decide
theorem waitbToWaitu (c t : Nat) : Statement (.waitbToWaitu c t) := show 0 < 4294967296 by decide
theorem yieldMark (c t : Nat) : Statement (.yieldMark c t) := show 0 < 4294967296 by decide
theorem preemptionDeadline (c t : Nat) : Statement (.preemptionDeadline c t) := show 0 < 4294967296 by decide
theorem schedulerWindowEnd (c t : Nat) : Statement (.schedulerWindowEnd c t) := show 0 < 4294967296 by decide
theorem elementGroupGrant (core : Nat) : Statement (.elementGroupGrant core) := show 0 < 4294967296 by decide
theorem vectorComplete (c t : Nat) : Statement (.vectorComplete c t) := show 0 < 4294967296 by decide
theorem storeErrorAck (c t : Nat) (addr : BitVec 64) : Statement (.storeErrorAck c t addr) := show 0 < 4294967296 by decide
theorem commandProcessorLaunch (u ctx : Nat) (block : BitVec 512) : Statement (.commandProcessorLaunch u ctx block) := show 0 < 4294967296 by decide
theorem commandProcessorPreempt (ctx deadline : Nat) (pa : Nat) : Statement (.commandProcessorPreempt ctx deadline pa) := show 0 < 4294967296 by decide
theorem commandProcessorRestore (ctx pa : Nat) : Statement (.commandProcessorRestore ctx pa) := show 0 < 4294967296 by decide
theorem contextImageComplete (ctx : Nat) : Statement (.contextImageComplete ctx) := show 0 < 4294967296 by decide
theorem workToken (u : Nat) (src : BitVec 16) (whole : Bool) (tok : BitVec 512) : Statement (.workToken u src whole tok) := show 0 < 4294967296 by decide
theorem tokenDispatch (u : Nat) : Statement (.tokenDispatch u) := show 0 < 4294967296 by decide
theorem launchPerform (u : Nat) : Statement (.launchPerform u) := show 0 < 4294967296 by decide
theorem launchQueueInsert (u : Nat) : Statement (.launchQueueInsert u) := show 0 < 4294967296 by decide
theorem deadTokenRecordRead (u : Nat) : Statement (.deadTokenRecordRead u) := show 0 < 4294967296 by decide
theorem streamTransferStart (core : Nat) : Statement (.streamTransferStart core) := show 0 < 4294967296 by decide
theorem streamElementLanding (core e : Nat) : Statement (.streamElementLanding core e) := show 0 < 4294967296 by decide
theorem userInterruptEntry (c t : Nat) : Statement (.userInterruptEntry c t) := show 0 < 4294967296 by decide
theorem countersReturn (c t : Nat) : Statement (.countersReturn c t) := show 0 < 4294967296 by decide
theorem collReadyPoll (core q : Nat) : Statement (.collReadyPoll core q) := show 0 < 4294967296 by decide
theorem collShardCopy (core q : Nat) : Statement (.collShardCopy core q) := show 0 < 4294967296 by decide
theorem messageDelivery (core cls k : Nat) : Statement (.messageDelivery core cls k) := show 0 < 4294967296 by decide
theorem retryOffer (core cls : Nat) : Statement (.retryOffer core cls) := show 0 < 4294967296 by decide
theorem groupMemberRequest (c t j : Nat) : Statement (.groupMemberRequest c t j) := show 0 < 4294967296 by decide
theorem pageWalkComplete (die ctx page : Nat) : Statement (.pageWalkComplete die ctx page) := show 0 < 4294967296 by decide
theorem cacheEviction (die line : Nat) : Statement (.cacheEviction die line) := show 0 < 4294967296 by decide
theorem lateTransitionReplay (hits : Nat × Nat) : Statement (.lateTransitionReplay hits) := show 0 < 4294967296 by decide
theorem replayWindowStart (core : Nat) : Statement (.replayWindowStart core) := show 0 < 4294967296 by decide
theorem guardWindowExpire (core : Nat) : Statement (.guardWindowExpire core) := show 0 < 4294967296 by decide
theorem ageingMeasure (core : Nat) (rodly : BitVec 32) (flashOk : Bool) : Statement (.ageingMeasure core rodly flashOk) := show 0 < 4294967296 by decide
theorem ageingWriteback (core : Nat) : Statement (.ageingWriteback core) := show 0 < 4294967296 by decide
theorem coreReset (core : Nat) : Statement (.coreReset core) := show 0 < 4294967296 by decide
theorem packagePowerUp : Statement .packagePowerUp := show 0 < 4294967296 by decide
theorem warmReset : Statement .warmReset := show 0 < 4294967296 by decide
theorem powerControlInterval (die cluster thermal activity level : Nat) : Statement (.powerControlInterval die cluster thermal activity level) := show 0 < 4294967296 by decide
theorem loanRequest (lender borrower units interval : Nat) (sustained : Bool) : Statement (.loanRequest lender borrower units interval sustained) := show 0 < 4294967296 by decide
theorem loanGrant (loan : Nat) : Statement (.loanGrant loan) := show 0 < 4294967296 by decide
theorem loanRenewal (loan : Nat) (accept : Bool) : Statement (.loanRenewal loan accept) := show 0 < 4294967296 by decide
theorem loanStopCount (loan : Nat) : Statement (.loanStopCount loan) := show 0 < 4294967296 by decide
theorem loanExpiry (loan : Nat) : Statement (.loanExpiry loan) := show 0 < 4294967296 by decide
theorem fastThrottleAlarm (src : BitVec 2) : Statement (.fastThrottleAlarm src) := show 0 < 4294967296 by decide
theorem fastThrottleRelease : Statement .fastThrottleRelease := show 0 < 4294967296 by decide
theorem throttleSettleEnd : Statement .throttleSettleEnd := show 0 < 4294967296 by decide
theorem laneGroupPowerDown (core lg : Nat) : Statement (.laneGroupPowerDown core lg) := show 0 < 4294967296 by decide
theorem breakEvenHoldEnd (core lg : Nat) : Statement (.breakEvenHoldEnd core lg) := show 0 < 4294967296 by decide
theorem laneGroupWake (core lg : Nat) : Statement (.laneGroupWake core lg) := show 0 < 4294967296 by decide
theorem inrushService (die : Nat) : Statement (.inrushService die) := show 0 < 4294967296 by decide
theorem linkFrameReceive (link : Nat) (chan : BitVec 2) (seq : Nat) (crcOk room : Bool) (msg : BitVec 2304) : Statement (.linkFrameReceive link chan seq crcOk room msg) := show 0 < 4294967296 by decide
theorem linkNak (link : Nat) (chan : BitVec 2) (seq : Nat) : Statement (.linkNak link chan seq) := show 0 < 4294967296 by decide
theorem linkFailure (link : Nat) : Statement (.linkFailure link) := show 0 < 4294967296 by decide
theorem linkAckTimeout (link : Nat) : Statement (.linkAckTimeout link) := show 0 < 4294967296 by decide
theorem fabricGiveUp (kind c t : Nat) (addr : BitVec 64) : Statement (.fabricGiveUp kind c t addr) := show 0 < 4294967296 by decide
theorem hostAccess (u : Nat) (bar2 : Bool) (off len : Nat) (data : Option (BitVec 512)) : Statement (.hostAccess u bar2 off len data) := show 0 < 4294967296 by decide
theorem cxlCompletionTimeout (c t : Nat) (addr : BitVec 64) : Statement (.cxlCompletionTimeout c t addr) := show 0 < 4294967296 by decide
theorem cxlBackInvalidate (line : Nat) : Statement (.cxlBackInvalidate line) := show 0 < 4294967296 by decide
theorem svcRaiseAlarm (u : Nat) : Statement (.svcRaiseAlarm u) := show 0 < 4294967296 by decide
theorem svcClearAlarm (u : Nat) : Statement (.svcClearAlarm u) := show 0 < 4294967296 by decide
theorem svcFirmwareUpdate (u len : Nat) : Statement (.svcFirmwareUpdate u len) := show 0 < 4294967296 by decide
theorem svcAttest (u : Nat) : Statement (.svcAttest u) := show 0 < 4294967296 by decide
theorem svcBlackboxDump (u : Nat) : Statement (.svcBlackboxDump u) := show 0 < 4294967296 by decide
theorem svcManifestCopy (u : Nat) : Statement (.svcManifestCopy u) := show 0 < 4294967296 by decide
theorem svcInvalidCmd (u : Nat) : Statement (.svcInvalidCmd u) := show 0 < 4294967296 by decide
theorem blackboxDumpComplete (die : Nat) : Statement (.blackboxDumpComplete die) := show 0 < 4294967296 by decide
theorem registerWrite (pa : Nat) (v : BitVec 64) : Statement (.registerWrite pa v) := show 0 < 4294967296 by decide
theorem unassignedEncoding (w : BitVec 32) : Statement (.unassignedEncoding w) := by
  show w.toNat < 4294967296
  omega
theorem arenaFault : Statement .arenaFault := show 0 < 4294967296 by decide
theorem powerLoss : Statement .powerLoss := show 0 < 4294967296 by decide
theorem fastThrottleAlarmClear (src : BitVec 2) : Statement (.fastThrottleAlarmClear src) := show 0 < 4294967296 by decide
theorem ultraEthernetReceive (port pa len : Nat) (data : Option (BitVec 512)) : Statement (.ultraEthernetReceive port pa len data) := show 0 < 4294967296 by decide
theorem cxlPoolHostWrite (pa : Nat) (data : BitVec 8) : Statement (.cxlPoolHostWrite pa data) := show 0 < 4294967296 by decide
theorem firmwareFault (die : Nat) : Statement (.firmwareFault die) := show 0 < 4294967296 by decide

end Sys2Proof.Laws.Encoding
end

