-- ==== Sys2Proof/Machine/Accesses.lean ====
section
/-!
DEFINITION. The accesses of one step (R305, R306, R321, R326, R327): what an instruction reads and writes, in memory and
beside it, and the events of a moment in which a thread executes one.
-/

namespace Sys2Proof.Machine

/-! ### What an instruction reads and writes beside memory (R314) -/

/-- A register that carries a value from one instruction of a thread to another: a mask is a vector register from 33 on,
as in `vectorUse`; the tiles and their grant are one. -/
inductive Reg where
  | s (n : Nat)
  | p (n : Nat)
  | v (n : Nat)
  | csr (n : Nat)
  | vl
  | tile
  deriving DecidableEq, Repr

/-- The scalar registers and predicates of some fields; s0 and p0 are constants. -/
def ss (l : List (BitVec 5)) : List Reg := (l.filter (· != 0)).map fun r => .s r.toNat
def ps (l : List (BitVec 3)) : List Reg := (l.filter (· != 0)).map fun r => .p r.toNat

/-- What a CSR number names: `pw`, `vl` and `tshape` are the predicates, `vl` and the tiles. -/
def csrRegs (c : BitVec 12) : List Reg :=
  if c = 0 then (List.range 7).map fun k => .p (k + 1)
  else if c = 0x010 then [.vl]
  else if c = 0x014 then [.tile]
  else [.csr c.toNat]

/-- The registers beside the vector file that an instruction reads, and those that it writes, by its fields. -/
def scalarUse (i : Instr) : List Reg × List Reg :=
  let of (b : BitVec 5) (k : BitVec 2) : List Reg := if k = 1 then ss [b] else []
  let old (p : BitVec 3) (c : BitVec 2) : List Reg := if c = 0 then [] else ps [p]
  match i with
  | .add d a b | .sub d a b | .and d a b | .or d a b | .xor d a b | .andcm d a b | .orcm d a b | .eqv d a b
  | .sll d a b | .srl d a b | .sra d a b | .rol d a b | .ror d a b | .min d a b | .max d a b | .minn d a b
  | .maxn d a b | .ixadd1 d a b | .ixadd2 d a b | .ixadd3 d a b | .mullo d a b | .mulhnn d a b | .mulhii d a b
  | .mulhin d a b | .quon d a b | .quoi d a b | .remn d a b | .remi d a b | .fadd d a b _ _ | .fsub d a b _ _
  | .fmul d a b _ _ | .fdiv d a b _ _ | .fmin d a b _ | .fmax d a b _ | .fcpys d a b _ => (ss [a, b], ss [d])
  | .clz d a | .ctz d a | .popc d a | .byterev d a | .addi d a _ | .andi d a _ | .ori d a _ | .xori d a _
  | .slli d a _ | .srli d a _ | .srai d a _ | .rori d a _ | .bext d a _ _ | .bexts d a _ _ | .bclrf d a _ _
  | .bsetf d a _ _ | .fsqrt d a _ _ | .fneg d a _ | .fabs d a _ | .fkind d a _ | .fcvt d a _ _ _ | .fcvti d a _ _ _
  | .fcvtf d a _ _ _ => (ss [a], ss [d])
  | .bins d a _ _ => (ss [d, a], ss [d])
  | .ldhi d _ | .addpc d _ => ([], ss [d])
  | .cmpeq p c a b | .cmpne p c a b | .cmplt p c a b | .cmpge p c a b | .cmpltu p c a b | .cmpgeu p c a b
  | .fcmpeq p c a b _ | .fcmplt p c a b _ | .fcmple p c a b _ | .fcmpun p c a b _ => (ss [a, b] ++ old p c, ps [p])
  | .cmpeqi p c a _ | .cmpnei p c a _ | .cmplti p c a _ | .cmpgei p c a _ | .cmpltui p c a _ | .cmpgeui p c a _ =>
    (ss [a] ++ old p c, ps [p])
  | .plog p c a b _ => (ps [a, b] ++ old p c, ps [p])
  | .sel d a b c => (ss [a, b] ++ ps [c], ss [d])
  | .fmadd d a b c _ _ | .fnmadd d a b c _ _ => (ss [a, b, c], ss [d])
  | .br p _ _ => (ps [p], [])
  | .call d _ => ([], ss [d])
  | .callr d a => (ss [a], ss [d])
  | .rdcsr d c => (csrRegs c, ss [d])
  | .wrcsr a c => (ss [a], csrRegs c)
  | .xchcsr d a c => (ss [a] ++ csrRegs c, ss [d] ++ csrRegs c)
  | .setcsr a c | .clrcsr a c => (ss [a] ++ csrRegs c, csrRegs c)
  | .setvl d a _ => (ss [a], ss [d] ++ [.vl])
  | .vadd _ _ b k _ | .vsub _ _ b k _ | .vrsub _ _ b k _ | .vmul _ _ b k _ | .vmulh _ _ b k | .vmin _ _ b k
  | .vmax _ _ b k | .vadds _ _ b k _ | .vsubs _ _ b k _ | .vand _ _ b k | .vor _ _ b k | .vxor _ _ b k
  | .vsll _ _ b k | .vsrl _ _ b k | .vsra _ _ b k | .vfadd _ _ b k _ | .vfsub _ _ b k _ | .vfmul _ _ b k _
  | .vfdiv _ _ b k _ | .vfmin _ _ b k | .vfmax _ _ b k | .vfcpys _ _ b k | .vgather _ _ b k | .vslideup _ _ b k
  | .vslidedn _ _ b k | .vcmpeq _ _ b k | .vcmpne _ _ b k | .vcmplt _ _ b k | .vcmple _ _ b k | .vcmpgt _ _ b k
  | .vcmpge _ _ b k | .vcmpun _ _ b k => (of b k, [])
  | .vmadd _ _ _ c k | .vmsub _ _ _ c k | .vnmadd _ _ _ c k => (of c k, [])
  | .vmovVs _ _ b | .vslide1up _ _ b | .vslide1dn _ _ b => (ss [b], [])
  | .vscansum _ _ b _ | .vscanmax _ _ b | .vscanmin _ _ b | .vxscansum _ _ b _ | .vxscanmax _ _ b | .vxscanmin _ _ b =>
    (ss [b], [])
  | .vredsum d _ b _ | .vredmax d _ b | .vredmin d _ b | .vredand d _ b | .vredor d _ b => (ss [b], ss [d])
  | .mpopc d _ | .mfirst d _ => ([], ss [d])
  | .tshape d a => (ss [a], ss [d] ++ [.tile])
  | .tzero0 | .tzero1 | .tzero2 | .tzero3 => ([.tile], [.tile])
  | .tldb a b _ _ _ => (ss [a, b] ++ [.tile], [.tile])
  | .taccld _ a b _ => (ss [a, b] ++ [.tile], [.tile])
  | .tmma _ a b _ _ => (ss [a, b] ++ [.tile], [.tile])
  | .tdrain _ a b _ _ _ => (ss [a, b] ++ [.tile], [])
  | .trdacc d _ b => (ss [b] ++ [.tile], ss [d])
  | .ld d a _ _ _ | .ldGrp d a _ _ | .ldSem d a _ _ _ _ | .ldFe d a _ _ _ _ | .ldFc d a _ _ _ _ => (ss [a], ss [d])
  | .st d a _ _ _ | .stSem d a _ _ _ _ | .stFe d a _ _ _ _ => (ss [d, a], [])
  | .atadd d a b _ _ _ _ | .atand d a b _ _ _ _ | .ator d a b _ _ _ _ | .atxor d a b _ _ _ _ | .atmin d a b _ _ _ _
  | .atmax d a b _ _ _ _ | .atminn d a b _ _ _ _ | .atmaxn d a b _ _ _ _ | .atxch d a b _ _ _ _ => (ss [a, b], ss [d])
  | .atcmpx d a b _ _ _ _ => (ss [d, a, b], ss [d])
  | .vld8 _ a b m _ _ _ | .vld16 _ a b m _ _ _ | .vld32 _ a b m _ _ _ | .vld64 _ a b m _ _ _ | .vst8 _ a b m _ _ _
  | .vst16 _ a b m _ _ _ | .vst32 _ a b m _ _ _ | .vst64 _ a b m _ _ _ | .vatadd _ a b m _ _ _
  | .vatand _ a b m _ _ _ | .vator _ a b m _ _ _ | .vatxor _ a b m _ _ _ | .vatmin _ a b m _ _ _
  | .vatmax _ a b m _ _ _ | .vatxch _ a b m _ _ _ => (ss [a] ++ of b m, [])
  | .vld4 _ a _ _ _ _ | .vldmx4 _ a _ _ _ _ | .vldmx8 _ a _ _ _ _ | .vldmxi8 _ a _ _ _ _ | .vst4 _ a _ _ _
  | .vstmx4 _ a _ _ _ | .vstmx8 _ a _ _ _ | .vstmxi8 _ a _ _ _ => (ss [a], [])
  | .waita d a b _ _ _ _ => (ss [a, b], ss [d])
  | .rwb a b _ | .rinv a b _ | .tokw a b _ => (ss [a, b], [])
  | .stmap d a b | .tinv d a b | .tblw d a b | .tblr d a b | .agrdx d a b | .mgnreq d a b | .ctrdx d a b
  | .ctxsave d a b | .ctxload d a b => (ss [a, b], ss [d])
  | .stunmap d b | .ctzero d b => (ss [b], ss [d])
  | .strm a _ _ | .coll a _ _ | .migrate a | .sysc a => (ss [a], [])
  | .strmv _ a b p _ _ _ => (ss [a] ++ (if p = 1 then [] else ss [b]), [])
  | .strmw b _ => (ss [b], [])
  | .send d a _ _ _ => (ss [d, a], [])
  | .recv d a _ _ _ | .recvt d a _ _ _ | .launch d a _ | .agrd d a => (ss [a], ss [d])
  | _ => ([], [])

/-- Whether what an instruction reads decides which instructions follow (R314): a branch or a jump through a register. -/
def branches (i : Instr) : Bool :=
  match i with
  | .br _ _ _ | .callr _ _ => true
  | _ => false

/-- Whether an instruction adds to the sticky flags of `tstat`: floating point, vector and matrix instructions and group
loads. -/
def flagging (i : Instr) : Bool :=
  let major := bits (encode i).toNat 26 6
  (decide (0x0E ≤ major) && decide (major ≤ 0x13)) || (decide (0x17 ≤ major) && decide (major ≤ 0x20)) ||
    (match i with
      | .ldGrp .. => true
      | _ => false)

/-- All that an instruction reads and writes with a prefix: the predicate or mask that enables it, and its second
destination. An instruction whose prefix may disable it, or some of its elements, also keeps what it writes, and so does one
that does not write its vector destinations whole. -/
def useOf (l : Option (BitVec 12)) (i : Instr) (whole : Bool) : List Reg × List Reg :=
  let su := scalarUse i
  let vu := vectorUse i
  let length : List Reg := if vu.1.isEmpty && vu.2.isEmpty then [] else [.vl]
  let flags : List Reg := if flagging i then [.csr 1] else []
  let kept : List Reg := if whole then [] else vu.2.map Reg.v
  let writes := su.2 ++ vu.2.map Reg.v ++ flags
  let reads := su.1 ++ vu.1.map Reg.v ++ length ++ flags ++ kept
  match l with
  | none => (reads, writes)
  | some x =>
    let second : List Reg := if lDE x then (if vu.2.isEmpty then ss [lD2 x] else [.v (lD2 x).toNat]) else []
    let guard : List Reg := if lPK x then (mr (lPN x)).map Reg.v else ps [lPN x]
    let old : List Reg := if guard.isEmpty then (if whole then [] else second) else writes ++ second
    (reads ++ guard ++ old, writes ++ second)

/-- Whether the current thread has written the vector destinations of an instruction whole: `vl` is VLMAX for their tags
(R179); v0 to v31 are 0 to 31, masks follow. -/
def State.wroteWhole (s : State) (i : Instr) : Bool :=
  (vectorUse i).2.all fun r => s.coversAll (if r < 32 then (s.cur.getV (BitVec.ofNat 5 r)).tag else 0x0F)

/-! ### The accesses of an instruction (R305) -/

/-- What an instruction does to memory: its space, whether it reads and writes, its accesses in ascending order, whether a
fault leaves part of them performed (R256), and which nibble of its byte a 4-bit code is (R306). -/
structure Doing where
  space : Nat
  reads : Bool
  writes : Bool
  accs : List Acc
  split : Bool := false
  half : Acc → Option Nat := fun _ => none

def Doing.none : Doing := { space := 0, reads := false, writes := false, accs := [] }

/-- Bytes from an address as accesses: 8 bytes each where they divide, else one byte each (R306). -/
def bytesFrom (addr : Word) (n : Nat) : List Acc :=
  let z := if n % 8 = 0 then 8 else 1
  (List.range (n / z)).map fun k => { elem := 0, scale := false, addr := addr + BitVec.ofNat 64 (z * k), size := z }

/-- The loads of a TLDB word with its operands, for the current thread's shape (R234). -/
def State.tileLoads (s : State) (w : BitVec 32) (a b : Word) : Doing :=
  let x := bOpd s.cur.tshape w a b
  let n := max 1 (shapeN s.cur.tshape)
  { space := bits w.toNat 8 1, reads := true, writes := false, accs := bAccs s.cur.tshape x b
    half := fun y => if x.z = 4 ∧ y.scale = false then some (x.index (y.elem % n) (y.elem / n) % 2) else none }

/-- What an instruction of the current thread does to memory, where it runs to its end. -/
def State.doing (s : State) (i : Instr) : Doing :=
  let t := s.cur
  let one (p : Nat) (addr : Word) (n : Nat) (r w : Bool) : Doing :=
    { space := p, reads := r, writes := w, accs := [{ elem := 0, scale := false, addr := addr, size := n }] }
  let many (p : Nat) (r w : Bool) (l : List Acc) : Doing := { space := p, reads := r, writes := w, accs := l }
  let vec (x : Addressing) (r w : Bool) : Doing :=
    { many t.vspace.toNat r w (x.accs t (t.enabled t.latch) t.start) with
      split := r != w, half := fun y => if x.z = 4 ∧ y.scale = false then some (y.elem % 2) else Option.none }
  let codes (x : MatOpd) (line k : Acc → Nat) (y : Acc) : Option Nat :=
    if x.z = 4 ∧ y.scale = false then some (x.index (line y) (k y) % 2) else Option.none
  let plain (a b : BitVec 5) (m : BitVec 2) (z : Nat) : Addressing := { mode := m.toNat, a := a, b := b, z := z, block := false }
  let unit (a : BitVec 5) (z : Nat) (block : Bool) : Addressing := { mode := 0, a := a, b := 0, z := z, block := block }
  let atom (d a b : BitVec 5) (m : BitVec 2) : Doing :=
    match atomicWidth (t.getV d).tag with
    | some (w, _) => vec (plain a b m w) true true
    | none => .none
  match i with
  | .ld _ a z p o =>
    let n := sizeBytes z.toNat
    one p.toNat (t.getS a + sext o * BitVec.ofNat 64 n) n true false
  | .st _ a z p o =>
    let n := sizeBytes z.toNat
    one p.toNat (t.getS a + sext o * BitVec.ofNat 64 n) n false true
  | .ldGrp _ a _ g => one 3 (t.getS a) (tagWidth g / 8) true false
  | .ldSem _ a _ _ w p | .ldFe _ a _ _ w p | .ldFc _ a _ _ w p | .waita _ a _ _ _ w p =>
    one p.toNat (t.getS a) (wordBytes w) true false
  | .stSem _ a _ _ w p | .stFe _ a _ _ w p => one p.toNat (t.getS a) (wordBytes w) false true
  | .atadd _ a _ _ _ w p | .atand _ a _ _ _ w p | .ator _ a _ _ _ w p | .atxor _ a _ _ _ w p | .atmin _ a _ _ _ w p
  | .atmax _ a _ _ _ w p | .atminn _ a _ _ _ w p | .atmaxn _ a _ _ _ w p | .atxch _ a _ _ _ w p
  | .atcmpx _ a _ _ _ w p => one p.toNat (t.getS a) (wordBytes w) true true
  | .vld8 _ a b m _ _ _ => vec (plain a b m 8) true false
  | .vld16 _ a b m _ _ _ => vec (plain a b m 16) true false
  | .vld32 _ a b m _ _ _ => vec (plain a b m 32) true false
  | .vld64 _ a b m _ _ _ => vec (plain a b m 64) true false
  | .vld4 _ a _ _ _ _ => vec (unit a 4 false) true false
  | .vldmx4 _ a _ _ _ _ => vec (unit a 4 true) true false
  | .vldmx8 _ a _ _ _ _ | .vldmxi8 _ a _ _ _ _ => vec (unit a 8 true) true false
  | .vst8 _ a b m _ _ _ => vec (plain a b m 8) false true
  | .vst16 _ a b m _ _ _ => vec (plain a b m 16) false true
  | .vst32 _ a b m _ _ _ => vec (plain a b m 32) false true
  | .vst64 _ a b m _ _ _ => vec (plain a b m 64) false true
  | .vst4 _ a _ _ _ => vec (unit a 4 false) false true
  | .vstmx4 _ a _ _ _ => vec (unit a 4 true) false true
  | .vstmx8 _ a _ _ _ | .vstmxi8 _ a _ _ _ => vec (unit a 8 true) false true
  | .vatadd d a b m _ _ _ | .vatand d a b m _ _ _ | .vator d a b m _ _ _ | .vatxor d a b m _ _ _
  | .vatmin d a b m _ _ _ | .vatmax d a b m _ _ _ | .vatxch d a b m _ _ _ => atom d a b m
  | .tldb a b _ _ _ => s.tileLoads (encode i) (t.getS a) (t.getS b)
  | .tmma _ a b o f =>
    let x := aOpd t.tshape f o (t.getS a) (t.getS b).toNat
    { many 1 true false (aAccs t.tshape f o (t.getS a) (t.getS b).toNat) with
      half := codes x (fun y => y.elem / x.kDim) fun y => y.elem % x.kDim }
  | .taccld _ a _ p => { many p.toNat true false (drainAccs t (t.getS a) 4 t.start fun _ => true) with split := true }
  | .tdrain _ a _ p _ f =>
    { many p.toNat false true (drainAccs t (t.getS a) (drainFmt f).2 t.start (t.enabled t.latch)) with split := true }
  | .send d a _ _ p => many p.toNat true false (bytesFrom (t.getS a) (min (t.getS d).toNat 256))
  | .recv _ a h l p | .recvt _ a h l p =>
    let r := s.ring t.ctx (chanOf h l)
    let n := match s.channel t.ctx (chanOf h l) with
      | some e => if r.held = 0 then 0 else min 256 (bits (readNat s.mem (slotBase t.core e r.first) 32) 64 16)
      | none => 0
    many p.toNat false true (bytesFrom (t.getS a) n)
  | .tokw a _ p | .launch _ a p => many p.toNat true false (bytesFrom (t.getS a) 64)
  | .strm a _ p | .strmv _ a _ _ _ _ p | .coll a p _ => many p.toNat true false (bytesFrom (t.getS a) 64)
  | .tblw _ a _ => many 0 true false (bytesFrom (t.getS a) 32)
  | .tblr _ a _ => many 0 false true (bytesFrom (t.getS a) 32)
  | _ => .none

/-! ### Moments -/

/-- One step of a history. `cause`: what the outside or another unit brought about; none where the thread whose turn it is
goes on. `views`: the state as each access of its instruction sees it, in their order, where memory is not that of `before`
(R317); all other agents act between the moments. -/
structure Moment where
  cause : Option Input
  before : State
  views : List State
  after : State

/-- The state that follows, if one does. -/
def nextState : Host.Outcome State Fault Refusal → Option State
  | .next s => some s
  | _ => none

/-- The current thread, in RUN, goes on. -/
def State.goOn (s : State) : Option State :=
  if s.cur.run = .run ∧ s.cur.dying = false then nextState { s with inputs := [], held := false, streak := 0 }.turn else none

/-- The instruction that the current thread executes when it goes on. -/
def State.fetched (s : State) : Option Instr :=
  if (s.all.find? s.dueSave).isSome || s.overfull.isSome || s.boundary.isSome || decide (s.arena.2 ≤ s.cur.pc.toNat) ||
      s.badRange s.fetchAddr 4 then none
  else match decodeBytes (bytesOfWord s.fetch.2) with
    | .ok i => some i
    | .error _ => none

def Moment.instr (m : Moment) : Option Instr := if m.cause = none then m.before.fetched else none

/-- A thread of the moment before, and the same one after it, if it has not ended. -/
def Moment.was (m : Moment) (r : TRef) : Thread := (m.before.find r).getD m.before.cur
def Moment.is (m : Moment) (r : TRef) : Option Thread := m.after.find r

/-- R45: an instruction of a thread has completed in this moment: the count of its window shows it. -/
def Moment.completed (m : Moment) (r : TRef) : Bool := (m.is r).any (·.winInstr == (m.was r).winInstr + 1)

/-- What access k of the instruction sees. -/
def Moment.view (m : Moment) (k : Nat) : State := (m.views[k]?).getD m.before

/-- R316: element e of a vector atomic by itself. -/
def State.alone (s : State) (i : Instr) (e : Nat) : Option State :=
  nextState (exec i { s with cur := { s.cur with vesr := BitVec.ofNat 64 e, vl := BitVec.ofNat 64 (e + 1) } })

/-- The current thread where a matrix save is restored first: with the shape that it gets (R246). -/
def Moment.shaped (m : Moment) : State :=
  let s := m.before
  if s.cur.st stMSM then { s with cur := { s.cur with tshape := ((m.is s.cur.ref).getD s.cur).tshape } } else s

/-- The destination register and the element width of a vector load or atomic. -/
def elementDest (t : Thread) (i : Instr) : Option (BitVec 5 × Nat) :=
  match i with
  | .vld8 d _ _ _ _ _ _ | .vldmx8 d _ _ _ _ _ | .vldmxi8 d _ _ _ _ _ => some (d, 8)
  | .vld16 d _ _ _ _ _ _ => some (d, 16)
  | .vld32 d _ _ _ _ _ _ => some (d, 32)
  | .vld64 d _ _ _ _ _ _ => some (d, 64)
  | .vld4 d _ _ _ _ _ | .vldmx4 d _ _ _ _ _ => some (d, 4)
  | .vatadd d _ _ _ _ _ _ | .vatand d _ _ _ _ _ _ | .vator d _ _ _ _ _ _ | .vatxor d _ _ _ _ _ _ | .vatmin d _ _ _ _ _ _
  | .vatmax d _ _ _ _ _ _ | .vatxch d _ _ _ _ _ _ => (atomicWidth (t.getV d).tag).map fun w => (d, w.1)
  | _ => none

/-- The results of a load, or of a vector atomic, whose accesses see different memories: each element is what its own view
gives. -/
def Moment.blend (m : Moment) (i : Instr) (u : State) : State :=
  if m.views = [] then u
  else
    let x := m.shaped.doing i
    let run (k : Nat) (e : Nat) : State :=
      (if x.writes then (m.view k).alone i e else (m.view k).goOn).getD u
    let core := u.cur.core
    let tile (f : Tile → Tile) : State := u.setCore core { u.core core with tile := f (u.core core).tile }
    let tileOf (k : Nat) (y : Acc) : Tile := ((run k y.elem).core core).tile
    match i with
    | .tldb .. => tile fun c => x.accs.zipIdx.foldl (fun c y =>
        if y.1.scale then { c with scales := putField c.scales 8 y.1.elem (getField (tileOf y.2 y.1).scales 8 y.1.elem) }
        else { c with codes := putField c.codes 16 y.1.elem (getField (tileOf y.2 y.1).codes 16 y.1.elem) }) c
    | .taccld j _ b _ => match position u.cur.tshape j.toNat (u.cur.getS b) u.cur.vl.toNat with
      | some first => tile fun c => x.accs.zipIdx.foldl (fun c y =>
          { c with acc := putField c.acc 32 (first + y.1.elem) (getField (tileOf y.2 y.1).acc 32 (first + y.1.elem)) }) c
      | none => u
    | _ => match elementDest m.before.cur i with
      | none => u
      | some (d, w) =>
        { u with cur := x.accs.zipIdx.foldl (fun t y =>
            let r := if y.1.scale then companion d else d
            let (w, e) := if y.1.scale then (8, y.1.elem / 32) else (w, y.1.elem)
            let v := t.getV r
            t.setV r { v with bits := setElem v.bits w e (elemOf ((run y.2 y.1.elem).cur.getV r).bits w e) }) u.cur }

/-- What the machine itself makes of a moment. -/
def Moment.result (m : Moment) : Option State :=
  match m.cause with
  | none => m.before.goOn.map fun u => match m.instr with
    | some i => m.blend i u
    | none => u
  | some x => nextState (step { m.before with inputs := [x] })

/-! ### The events of an instruction (R305, R306, R326) -/

/-- Where the bytes of a place lie for a die. -/
def locOf (die : Nat) (p : Place) (k : Nat) : Loc := { die := if p.attr = 1 then some die else none, nibble := 2 * p.pa + k }

/-- What nibbles of a place hold for a die, or would hold with a value there. -/
def State.cells (s : State) (die : Nat) (p : Place) (first n : Nat) : List (Loc × Nat) :=
  (List.range n).map fun k =>
    (locOf die p (first + k), s.peekAt die { p with pa := p.pa + (first + k) / 2 } / 16 ^ ((first + k) % 2) % 16)
def valueCells (die : Nat) (p : Place) (first n v : Nat) : List (Loc × Nat) :=
  (List.range n).map fun k => (locOf die p (first + k), v / 16 ^ k % 16)

/-- An event of a thread with nothing read or written. Its instances are filled in by `History.execution`. -/
def blankEvent (a : Party) (po : Option Nat) (x : Semantics) : Event :=
  { kind := .access, who := a, po := po, elem := 0, sem := x, inst := [], elemInst := [], device := false, early := false
    reads := [], writes := [], deps := [] }

/-- What a store of the current thread writes for an access: its element's own value (R317); none where what stands in
memory after it says so. `t` is the thread after, whose registers are loaded. -/
def State.storedValue (s : State) (t : Thread) (i : Instr) (y : Acc) : Option Nat :=
  match i with
  | .vst8 d _ _ _ _ _ _ | .vstmx8 d _ _ _ _ | .vstmxi8 d _ _ _ _ => some (storeValue t d 8 y)
  | .vst16 d _ _ _ _ _ _ => some (storeValue t d 16 y)
  | .vst32 d _ _ _ _ _ _ => some (storeValue t d 32 y)
  | .vst64 d _ _ _ _ _ _ => some (storeValue t d 64 y)
  | .vst4 d _ _ _ _ | .vstmx4 d _ _ _ _ => some (storeValue t d 4 y)
  | .tdrain j _ b _ r f => (position t.tshape j.toNat (t.getS b) t.vl.toNat).map fun first =>
      (drainConvert f (rmodeOf r.toNat t.rmode) (s.getAcc s.cur.core (first + y.elem))).1
  | _ => none

/-- R338: whether an atomic writes: ATCMPX only where the old value is S[d]. -/
def atomicWrites (t : Thread) (i : Instr) (old : Nat) : Bool :=
  match i with
  | .atcmpx d _ _ _ _ w _ => old == (t.getS d).toNat % 2 ^ (8 * wordBytes w)
  | _ => true

/-- The event of access k of the instruction, made at a place. -/
def Moment.accessEvent (m : Moment) (i : Instr) (po : Nat) (x : Doing) (y : Acc × Place) (k : Nat) : Event :=
  let s := m.before
  let die := dieOf s.cur.core
  let u := (m.is s.cur.ref).getD s.cur
  let first := (x.half y.1).getD 0
  let n := if (x.half y.1).isSome then 1 else 2 * y.1.size
  let own := if x.split then none else (m.view k).alone i y.1.elem
  let vector := x.reads && x.writes && (elementDest s.cur i).isSome
  let old := (m.view k).cells die y.2 first n
  let oldValue := old.foldr (fun c v => c.2 + 16 * v) 0
  let new := match m.after.storedValue u i y.1 with
    | some v => valueCells die y.2 first n v
    | none => ((if vector then own else none).getD m.after).cells die y.2 first n
  { blankEvent (.thread s.cur.ref) (some po) (semanticsOf i) with
    elem := y.1.elem, device := s.isDevice y.2, register := s.region y.2.pa == .device
    reads := if x.reads then old else []
    writes := if x.writes ∧ (x.reads = false ∨ atomicWrites s.cur i oldValue = true) then new else []
    atomic := x.reads && x.writes
    start := if s.cur.reissue.isSome ∨ s.cur.vesr ≠ 0 then some s.cur.start else none }

/-- R326: the contributions of the members that a group load reaches, as its requests see them. -/
def State.contributions (s : State) (e : Event) (off size : Nat) (l : List (Option (Nat × Nat))) : List Event :=
  l.filterMap fun m => m.bind fun q =>
    if (s.available s.cur.ctx q.1).isNone then none
    else some { e with kind := .contribution
                       reads := s.cells (dieOf q.2) { pa := windowBase q.2 + off, attr := 0 } 0 (2 * size) }

/-- The contributions of a scalar group load of a thread that are made in this moment (R345). -/
def Moment.groupEvents (m : Moment) (r : TRef) (po : Nat) : List Event :=
  match (m.was r).stall with
  | some (.group _ _ tag off members) =>
    let now := match (m.is r).bind (·.stall) with
      | some (.group _ _ _ _ l) => l.map (·.2)
      | _ => if m.completed r then members.map fun _ => .absent else members.map (·.2)
    let asked := (members.zip now).filterMap fun q =>
      if q.1.2 = .pending ∧ q.2 ≠ .pending then some q.1.1 else none
    (m.before.focus r).contributions (blankEvent (.thread r) (some po) (.ofFields 0 0 0)) off (tagWidth tag / 8) asked
  | _ => []

/-- R352: the die-private bytes of a virtual range of the current thread. -/
def State.privateBytes (s : State) (va n : Nat) : List Nat :=
  (List.range n).filterMap fun k => match (s.translate s.cur.core s.cur.ctx ((va + k) % 2 ^ 64) true false).2 with
    | .ok e => if e.attr = 1 then some (s.canon (e.pbase + ((va + k) % 2 ^ 64 - e.vbase))) else none
    | .error _ => none

/-- R321, R352: RINV ends the die's copy of every byte of its range. -/
def State.dropEvents (s : State) (a b : BitVec 5) (po : Nat) : List Event :=
  (s.privateBytes (s.cur.getS a).toNat (s.cur.getS b).toNat).map fun pa =>
    { blankEvent (.thread s.cur.ref) (some po) (.ofFields 0 0 0) with
      kind := .drop, writes := valueCells (dieOf s.cur.core) { pa := pa, attr := 1 } 0 2 0 }

/-- The accesses of some loads, to the end, with the places that they reach. -/
def Moment.accesses (m : Moment) (i : Instr) (po : Nat) (x : Doing) : List Event :=
  ((m.shaped.placeAll x.space false { wantLoad with r := x.reads, w := x.writes } x.accs).2.1.zipIdx).map fun y =>
    m.accessEvent i po x y.1 y.2

/-- R246, R327: the TLDB that a matrix restore performs again. -/
def Moment.restored (m : Moment) (i : Instr) (po : Nat) : List Event :=
  let s := m.before
  let u := (m.is s.cur.ref).getD s.cur
  if s.cur.st stMSM ∧ u.st stMSM = false then
    match (m.after.core s.cur.core).tile.loaded, i with
    | _, .tshape _ _ | _, .trel | none, _ => []
    | some (a, b, w), _ => m.accesses .trel po (m.shaped.tileLoads w a b)
  else []

/-- R256: the elements at or above START that a faulting store has performed, as memory shows. -/
def Moment.beyond (m : Moment) (i : Instr) (po : Nat) (x : Doing) (start : Nat) : List Event :=
  x.accs.flatMap fun y => match (m.shaped.placeAll x.space false wantStore [y]).2.1 with
    | [q] =>
      let e := m.accessEvent i po x q 0
      let die := dieOf m.before.cur.core
      let now (s : State) := s.cells die q.2 ((x.half y).getD 0) e.writes.length
      if start ≤ y.elem ∧ now m.before ≠ e.writes ∧ now m.after = e.writes then [{ e with early := true, start := some start }]
      else []
    | _ => []

/-- The events of the instruction that the current thread executes: of all its accesses where it completes; where a fault
ends it, of those below START and of those that a store has performed beyond (R256). -/
def Moment.ownEvents (m : Moment) (i : Instr) (po : Nat) : List Event :=
  let s := m.before
  let t := s.cur
  let u := (m.is t.ref).getD t
  let off : Bool := match t.latch with
    | some l => !lPK l && !(t.getP (lPN l) != lPI l)
    | none => false
  let done := m.completed t.ref
  let x := m.shaped.doing i
  let beyond := if done = false ∧ x.split ∧ x.writes then m.beyond i po x u.vesr.toNat else []
  let x := { x with accs := if done then x.accs else x.accs.filter fun y => x.split && decide (y.elem < u.vesr.toNat) }
  if off then []
  else m.restored i po ++ beyond ++ (match i with
    | .fence _ _ => if done then [{ blankEvent (.thread t.ref) (some po) (semanticsOf i) with kind := .fence }] else []
    | .rinv a b p => if done ∧ p = 0 then s.dropEvents a b po else []
    | .ldGrp .. => m.groupEvents t.ref po
    | _ =>
      if x.space = 3 then x.accs.zipIdx.flatMap fun y =>
        (m.view y.2).contributions { blankEvent (.thread t.ref) (some po) (semanticsOf i) with elem := y.1.elem }
          (y.1.addr.toNat % 2 ^ 20) y.1.size ((s.groupPlace y.1.addr y.1.size).getD [])
      else m.accesses i po x)

/-! ### The events of a die's copies (R293, R321) -/

/-- What the copy of a line says of its byte k: whether it is held, and whether it is dirty. -/
def holdsByte (p : Option PrivLine) (k : Nat) : Bool := p.any (·.holds k)
def dirtyByte (p : Option PrivLine) (k : Nat) : Bool := p.any (·.dirty.getLsbD k)

/-- The events of byte k of a die's copy of a line: its write-back, its end, its fill. `made`: what the instruction itself
wrote; `cause`: an RWB or RINV whose write-backs are the thread's stores. -/
def Moment.byteEvents (m : Moment) (die line k : Nat) (made : List Event) (cause : Option Event) : List Event :=
  let p := m.before.priv die line
  let q := m.after.priv die line
  let at' : Place := { pa := 256 * line + k, attr := 1 }
  let toMemory (c : List (Loc × Nat)) : List (Loc × Nat) := c.map fun e => ({ e.1 with die := none }, e.2)
  let old := m.before.cells die at' 0 2
  let memory := m.before.cells die { at' with attr := 0 } 0 2
  let base := blankEvent (.thread m.before.cur.ref) none (.ofFields 0 0 0)
  let mine (c : Loc × Nat) : Bool := made.any fun e => e.writes.any (·.1 == c.1)
  let valid : Bool := q.any (·.valid.getLsbD (k / 32))
  let toCopy := (memory.map fun c => ({ c.1 with die := some die }, c.2)).filter fun c => valid || !mine c
  let cleaned : Bool := dirtyByte p k && !dirtyByte q k
  let filled : Bool := !holdsByte p k && holdsByte q k
  (if cleaned then
    match cause with
    | some e => [{ e with kind := .writeBack, reads := old, writes := toMemory old }]
    | none => [{ base with who := .cache die, kind := .evict, reads := old, writes := toMemory old }]
  else []) ++
  (if holdsByte p k && q.isNone && cause.isNone then
    [{ base with who := .cache die, kind := .drop, writes := old }] else []) ++
  (if filled && !toCopy.isEmpty then
    [{ base with unit := 16, kind := .fill, reads := toCopy.map fun c => ({ c.1 with die := none }, c.2), writes := toCopy }]
  else [])

/-- The events of all dies' copies in a moment. -/
def Moment.cacheEvents (m : Moment) (po : Nat) (made : List Event) : List Event :=
  let cause : Option Event := match m.instr with
    | some (.rwb ..) | some (.rinv ..) => some (blankEvent (.thread m.before.cur.ref) (some po) (.ofFields 0 0 0))
    | _ => none
  let changed (d : Nat) : List Nat :=
    ((((m.before.die d).lines ++ (m.after.die d).lines).map (·.line)).eraseDups).filter fun n =>
      m.before.priv d n != m.after.priv d n
  (List.range 12).flatMap fun d => (changed d).flatMap fun n => (List.range 256).flatMap fun k =>
    m.byteEvents d n k made cause

end Sys2Proof.Machine
end

