-- ==== Sys2Proof/Machine/Assembly.lean ====
section
/-!
DEFINITION. The assembly language, from characters to operands (R91-R98): lines, names, numbers, expressions
with their values, and the forms of operands.
-/

namespace Sys2Proof.Asm

/-- Why `oba` rejects a line or an image. -/
inductive AsmError where
  /-- R91: not a line of the language, or one longer than 1,024 characters. -/
  | badLine
  /-- R94: no number, or one above 2^64 − 1. -/
  | badNumber
  /-- R95: a division or remainder by zero, or a shift count outside 0 to 63. -/
  | badArithmetic
  /-- R92: a symbol that nothing defines. -/
  | undefinedSymbol
  /-- R92: a symbol defined twice, or longer than 255 characters. -/
  | badSymbol
  /-- R93: a reserved word as a symbol. -/
  | reservedWord
  /-- R97: an operand of the wrong form for its position, or too many or too few operands. -/
  | badOperand
  /-- R96: an operand outside its range. -/
  | outOfRange
  /-- R96: a scaled operand that is no multiple of its scale. -/
  | notMultiple
  /-- R96: a PC-relative operand that is no label of the section. -/
  | notLabel
  /-- R98: a suffix that the entry does not allow, or two of one kind. -/
  | badSuffix
  /-- R99: a semantics suffix or a fence without a scope, or a scalar access without a size. -/
  | missingSuffix
  /-- No entry has this mnemonic. -/
  | noMnemonic
  /-- The word would be an unassigned encoding. -/
  | unassigned
  /-- R104: a reference to a .data symbol that is not the pair's. -/
  | dataReference
  /-- R100: a directive outside its context, or an operand of it outside its limits. -/
  | badDirective
  /-- R102: a kernel opened inside another, not closed, or without 1 to 16 placements. -/
  | badKernel
  /-- R82: a PFX that its successor does not take. -/
  | badPair
  /-- R104: half of the pair that builds an address, without the other. -/
  | lonePair
  /-- R107: a vector register or mask read after SETVL before it is written. -/
  | liveRead
  /-- R257: a store that a restarted load may read. -/
  | restartHazard
  deriving DecidableEq, Repr

abbrev Result (α : Type) := Except AsmError α

/-! ### Characters and tokens (R91-R94) -/

/-- A token: a word (a name with its full stops, or a number), or a mark. -/
inductive Tok where
  | word (w : List Char)
  | mark (c : Char)
  | shl
  | shr
  deriving DecidableEq, Repr

def isDigit (c : Char) : Bool := decide (0x30 ≤ c.toNat) && decide (c.toNat ≤ 0x39)

def isLetter (c : Char) : Bool :=
  (decide (0x41 ≤ c.toNat) && decide (c.toNat ≤ 0x5A)) || (decide (0x61 ≤ c.toNat) && decide (c.toNat ≤ 0x7A))

def isWordChar (c : Char) : Bool := isLetter c || isDigit c || c == '_' || c == '.'

/-- R92: the lower-case form of a case-insensitive word. -/
def lower (w : List Char) : List Char :=
  w.map fun c => if 0x41 ≤ c.toNat ∧ c.toNat ≤ 0x5A then Char.ofNat (c.toNat + 0x20) else c

/-- R91: the tokens of a line up to its comment; one step for each character at most. White space is the space and the
tab, and any other control character makes the line an error (DESIGN CHOICE, log entry 37). -/
def lexFrom : Nat → List Char → Result (List Tok)
  | _, [] => .ok []
  | 0, _ => .error .badLine
  | n + 1, c :: r =>
    if c = ' ' ∨ c = '\t' then lexFrom n r
    else if c = ';' ∨ (c = '/' ∧ r.head? = some '/') then .ok []
    else if c = '<' ∧ r.head? = some '<' then (lexFrom n r.tail).map (.shl :: ·)
    else if c = '>' ∧ r.head? = some '>' then (lexFrom n r.tail).map (.shr :: ·)
    else if isWordChar c then
      (lexFrom n (r.dropWhile isWordChar)).map (.word (c :: r.takeWhile isWordChar) :: ·)
    else if [',', ':', '(', ')', '!', '-', '~', '*', '/', '%', '+', '&', '^', '|'].contains c then
      (lexFrom n r).map (.mark c :: ·)
    else .error .badLine

def lexLine (l : List Char) : Result (List Tok) :=
  if 1024 < l.length then .error .badLine else lexFrom l.length l

/-- The value of a digit in a base of at most 16. -/
def digitOf (base : Nat) (c : Char) : Option Nat :=
  let c := c.toNat
  let v := if 0x30 ≤ c ∧ c ≤ 0x39 then c - 0x30
    else if 0x61 ≤ c ∧ c ≤ 0x66 then c - 0x57
    else if 0x41 ≤ c ∧ c ≤ 0x46 then c - 0x37 else 16
  if v < base then some v else none

/-- R94: the digits of a number; an underscore stands between two digits. `digit` says whether the character
before was a digit. -/
def digitsFrom (base : Nat) : Bool → Nat → List Char → Option Nat
  | digit, v, [] => if digit then some v else none
  | digit, v, c :: r =>
    if c = '_' then (if digit then digitsFrom base false v r else none)
    else match digitOf base c with
      | some d => digitsFrom base true (v * base + d) r
      | none => none

/-- R94: a number; 0X and 0B stand for 0x and 0b (DESIGN CHOICE, log entry 37). -/
def numberOf (w : List Char) : Result (BitVec 64) :=
  let v : Option Nat := match lower w with
    | '0' :: 'x' :: r => digitsFrom 16 false 0 r
    | '0' :: 'b' :: r => digitsFrom 2 false 0 r
    | r => digitsFrom 10 false 0 r
  match v with
  | some n => if n < 2 ^ 64 then .ok (BitVec.ofNat 64 n) else .error .badNumber
  | none => .error .badNumber

/-- R91: a numeric label, 0 to 99, in digits alone (an underscore among them: DESIGN CHOICE, log entry 37). -/
def labelNumber (w : List Char) : Option Nat :=
  if w.all isDigit && !w.isEmpty then
    match digitsFrom 10 false 0 w with
    | some n => if n ≤ 99 then some n else none
    | none => none
  else none

/-- R92: the operand Nb or Nf, its letter in either case (DESIGN CHOICE, log entry 37). -/
def localRef (w : List Char) : Option (Nat × Bool) :=
  match w.reverse with
  | 'b' :: r => (labelNumber r.reverse).map (·, false)
  | 'f' :: r => (labelNumber r.reverse).map (·, true)
  | 'B' :: r => (labelNumber r.reverse).map (·, false)
  | 'F' :: r => (labelNumber r.reverse).map (·, true)
  | _ => none

/-! ### Reserved words (R93) -/

/-- A register file with its size. -/
inductive File where
  | s | p | v | m | a
  deriving DecidableEq, Repr

/-- A register name. -/
def regOf (w : List Char) : Option (File × Nat) :=
  let named (f : File) (size : Nat) (r : List Char) : Option (File × Nat) :=
    match labelNumber r with
    | some n => if n < size ∧ (r.length = 1 ∨ r.head? ≠ some '0') then some (f, n) else none
    | none => none
  match lower w with
  | 's' :: r => named .s 32 r
  | 'p' :: r => named .p 8 r
  | 'v' :: r => named .v 32 r
  | 'm' :: r => named .m 8 r
  | 'a' :: r => named .a 4 r
  | _ => none

/-- The code of a word in a table of names, in either case; of the words that R92 does not name (z, the channel classes,
the roundings, group operators, formats and orders) DESIGN CHOICE, log entry 37. -/
def named (t : List (String × Nat)) (w : List Char) : Option Nat :=
  let s := String.ofList (lower w)
  (t.find? fun e => e.1 == s).map (·.2)

/-- Names with consecutive codes. -/
def codes (base : Nat) (l : List String) : List (String × Nat) := l.zipIdx.map fun e => (e.1, base + e.2)

/-- R112: the tag names. -/
def tagNames : List (String × Nat) :=
  codes 0 ["dead", "i8", "i16", "i32", "i64", "n8", "n16", "n32", "n64", "f64", "f32", "bf16", "f16", "e4m3", "e5m2",
    "int4", "mx4", "mx8", "mxi8"]

/-- R126: the registers of the inventory by number. -/
def csrNames : List (String × Nat) :=
  codes 0x000 ["pw", "tstat"] ++ codes 0x010 ["vl", "vspace", "vfill", "vesr", "tshape"] ++
  codes 0x020 ["trpc", "trcause", "trval", "trelem", "trvec"] ++ codes 0x030 ["xferid", "ulipc"] ++
  codes 0x040 ["dom0", "dom1", "dom2", "dom3"] ++
  codes 0x050 ["sc0", "sc1", "sc2", "sc3", "sc4", "sc5", "sc6", "sc7"] ++ codes 0x060 ["mgnctl", "rplcnt"]

/-- R252, R451, R453: the registers that other chapters number, the event counters by their events. -/
def otherCsrNames : List (String × Nat) :=
  codes 0x100 ["dtime", "ccyc", "clkst", "pbud", "sbud"] ++
  codes 0x200 ["instr", "stallq", "contn", "migout", "migfwd", "arrwait", "egslot", "portw", "ageovr", "tlbmiss", "walks",
    "lgdown", "lgwake", "gated", "trepl", "msgdisc", "curcap", "yield"] ++
  codes 0x800 ["systvec", "devfeat", "devrev", "pdefault"]

/-- R93: the words that are no symbols. -/
def reserved (w : List Char) : Bool :=
  (regOf w).isSome || (named tagNames w).isSome || (named csrNames w).isSome ||
    (named (codes 0 ["poison", "z", "ordered", "bulk", "control"]) w).isSome

/-- R92: a symbol. -/
def symbolOf (w : List Char) : Result (List Char) :=
  match w with
  | c :: _ =>
    if (isLetter c || c == '_') = false ∨ 255 < w.length then .error .badSymbol
    else if reserved w then .error .reservedWord else .ok w
  | [] => .error .badSymbol

/-! ### Expressions (R95, R96) -/

inductive Op where
  | neg | not | mul | div | rem | add | sub | shl | shr | and | xor | or
  deriving DecidableEq, Repr

inductive Expr where
  | num (w : BitVec 64)
  | sym (w : List Char)
  /-- Nb or Nf. -/
  | near (n : Nat) (forward : Bool)
  | dot
  | un (o : Op) (x : Expr)
  | bin (o : Op) (x y : Expr)
  | hi (x : Expr)
  | lo (x : Expr)
  deriving DecidableEq, Repr

/-- R95: the binary operator that a token is at a rank from 3 to 8. -/
def binOp (rank : Nat) (t : Tok) : Option Op :=
  match rank, t with
  | 3, .mark '*' => some .mul
  | 3, .mark '/' => some .div
  | 3, .mark '%' => some .rem
  | 4, .mark '+' => some .add
  | 4, .mark '-' => some .sub
  | 5, .shl => some .shl
  | 5, .shr => some .shr
  | 6, .mark '&' => some .and
  | 7, .mark '^' => some .xor
  | 8, .mark '|' => some .or
  | _, _ => none

/-- A word as an operand of an expression. -/
def atom (w : List Char) : Result Expr :=
  match w with
  | ['.'] => .ok .dot
  | c :: _ =>
    if isDigit c then
      match localRef w with
      | some (n, f) => .ok (.near n f)
      | none => (numberOf w).map .num
    else .ok (.sym w)
  | [] => .error .badLine

/-- What the parser looks for: an expression of a rank, or more operators of a rank after an operand. -/
inductive Want where
  | rank (r : Nat)
  | more (r : Nat) (x : Expr)

/-- R95: an expression and the tokens behind it, in at most so many steps. -/
def parseFrom : Nat → Want → List Tok → Result (Expr × List Tok)
  | 0, _, _ => .error .badLine
  | n + 1, .rank r, l =>
    if r ≤ 1 then
      match l with
      | .mark '(' :: l => close (parseFrom n (.rank 8) l)
      | .word w :: .mark '(' :: l =>
        if lower w = ['h', 'i'] then wrap .hi (close (parseFrom n (.rank 8) l))
        else if lower w = ['l', 'o'] then wrap .lo (close (parseFrom n (.rank 8) l))
        else (atom w).map (·, .mark '(' :: l)
      | .word w :: l => (atom w).map (·, l)
      | _ => .error .badLine
    else if r = 2 then
      match l with
      | .mark '-' :: l => wrap (.un .neg) (parseFrom n (.rank 2) l)
      | .mark '~' :: l => wrap (.un .not) (parseFrom n (.rank 2) l)
      | l => parseFrom n (.rank 1) l
    else match parseFrom n (.rank (r - 1)) l with
      | .ok (x, l) => parseFrom n (.more r x) l
      | .error e => .error e
  | n + 1, .more r x, l =>
    match l with
    | t :: l' => match binOp r t with
      | some o => match parseFrom n (.rank (r - 1)) l' with
        | .ok (y, l'') => parseFrom n (.more r (.bin o x y)) l''
        | .error e => .error e
      | none => .ok (x, l)
    | [] => .ok (x, l)
where
  wrap (f : Expr → Expr) (r : Result (Expr × List Tok)) : Result (Expr × List Tok) := r.map fun e => (f e.1, e.2)
  close (r : Result (Expr × List Tok)) : Result (Expr × List Tok) :=
    match r with
    | .ok (x, .mark ')' :: l) => .ok (x, l)
    | .ok _ => .error .badLine
    | .error e => .error e

/-- The tokens as one expression. -/
def exprOf (l : List Tok) : Result Expr :=
  match parseFrom (16 * l.length + 16) (.rank 8) l with
  | .ok (x, []) => .ok x
  | .ok _ => .error .badOperand
  | .error e => .error e

/-- The value of an expression: a number, a code label, or, before the data section is placed (R104), an offset
in it, whole or in one half of the pair. -/
inductive Val where
  | abs (w : BitVec 64)
  | code (w : BitVec 64)
  | data (w : BitVec 64)
  | dataHi (w : BitVec 64)
  | dataLo (w : BitVec 64)
  deriving DecidableEq, Repr

/-- A value as a number: code offsets are final (R104). -/
def Val.number : Val → Result (BitVec 64)
  | .abs w | .code w => .ok w
  | _ => .error .dataReference

/-- R95: an operator on numbers. -/
def Op.apply (o : Op) (a b : BitVec 64) : Result (BitVec 64) :=
  let shift (f : BitVec 64) : Result (BitVec 64) := if b.toNat < 64 then .ok f else .error .badArithmetic
  match o with
  | .neg => .ok (-a)
  | .not => .ok (~~~a)
  | .mul => .ok (a * b)
  | .div => if b = 0 then .error .badArithmetic else .ok (a.sdiv b)
  | .rem => if b = 0 then .error .badArithmetic else .ok (a.srem b)
  | .add => .ok (a + b)
  | .sub => .ok (a - b)
  | .shl => shift (a <<< b.toNat)
  | .shr => shift (a.sshiftRight b.toNat)
  | .and => .ok (a &&& b)
  | .xor => .ok (a ^^^ b)
  | .or => .ok (a ||| b)

/-- An operator on values: a .data symbol takes part in sums and differences only (log entry 37). -/
def Op.onVals (o : Op) (x y : Val) : Result Val :=
  match o, x, y with
  | .add, .data a, .abs b | .add, .abs a, .data b => .ok (.data (a + b))
  | .sub, .data a, .abs b => .ok (.data (a - b))
  | .sub, .data a, .data b => .ok (.abs (a - b))
  | o, x, y => do return .abs (← o.apply (← x.number) (← y.number))

/-- What a symbol stands for: a place, a channel (R100), or an expression at an offset of its section. -/
inductive Meaning where
  | val (v : Val)
  | expr (x : Expr) (line : Nat) (dot : BitVec 64)
  deriving DecidableEq, Repr

/-- The symbols, and the numeric labels with their lines. -/
structure Symbols where
  names : List (List Char × Meaning)
  near : List (Nat × Nat × Val)
  deriving DecidableEq, Repr

/-- R92: the definition that Nb or Nf at a line refers to. -/
def Symbols.nearest (t : Symbols) (n line : Nat) (forward : Bool) : Option Val :=
  let l := t.near.filter fun e => e.1 == n && (if forward then decide (line < e.2.1) else decide (e.2.1 ≤ line))
  let best := if forward then l.head? else l.getLast?
  best.map (·.2.2)

/-- R95, R96: the value of an expression on a line, at an offset of its section, in at most so many steps. -/
def Symbols.eval (t : Symbols) : Nat → Nat → BitVec 64 → Expr → Result Val
  | 0, _, _, _ => .error .undefinedSymbol
  | n + 1, line, dot, x =>
    match x with
    | .num w => .ok (.abs w)
    | .dot => .ok (.abs dot)
    | .near k f => match t.nearest k line f with
      | some v => .ok v
      | none => .error .undefinedSymbol
    | .sym w => match t.names.find? (·.1 == w) with
      | some (_, .val v) => .ok v
      | some (_, .expr y l d) => t.eval n l d y
      | none => .error .undefinedSymbol
    | .un o y => do return .abs (← o.apply (← (← t.eval n line dot y).number) 0)
    | .bin o y z => do o.onVals (← t.eval n line dot y) (← t.eval n line dot z)
    | .hi y => match t.eval n line dot y with
      | .ok (.data w) => .ok (.dataHi w)
      | .ok v => do return .abs ((← v.number).sshiftRight 16)
      | .error e => .error e
    | .lo y => match t.eval n line dot y with
      | .ok (.data w) => .ok (.dataLo w)
      | .ok v => do return .abs ((← v.number) &&& 0xFFFF)
      | .error e => .error e

/-- Steps enough for every value: an expression of a line is at most 1,024 deep (R91), and a value that goes twice through
one symbol has no end. -/
def Symbols.evalSteps (t : Symbols) : Nat := 1026 * (t.names.length + 1)

/-! ### Operands (R97) -/

inductive Operand where
  | reg (f : File) (n : Nat)
  /-- !pN or !mN. -/
  | inv (f : File) (n : Nat)
  /-- disp(sA); the displacement may be omitted. -/
  | mem (disp : Option Expr) (a : Nat)
  | expr (x : Expr)
  deriving DecidableEq, Repr

/-- The operand that some tokens are. -/
def operandOf (l : List Tok) : Result Operand :=
  match l with
  | [.word w] => match regOf w with
    | some (f, n) => .ok (.reg f n)
    | none => (exprOf l).map .expr
  | [.mark '!', .word w] => match regOf w with
    | some (.p, n) => .ok (.inv .p n)
    | some (.m, n) => .ok (.inv .m n)
    | _ => .error .badOperand
  | l => match l.reverse with
    | .mark ')' :: .word w :: .mark '(' :: r => match regOf w with
      | some (.s, n) =>
        if r.isEmpty then .ok (.mem none n) else (exprOf r.reverse).map fun x => .mem (some x) n
      | _ => (exprOf l).map .expr
    | _ => (exprOf l).map .expr

/-- The operands of a statement, between commas. -/
def splitAtCommas : List Tok → List (List Tok)
  | [] => [[]]
  | .mark ',' :: r => [] :: splitAtCommas r
  | t :: r => match splitAtCommas r with
    | a :: l => (t :: a) :: l
    | [] => [[t]]

def operandsOf (l : List Tok) : Result (List Operand) :=
  if l.isEmpty then .ok [] else (splitAtCommas l).mapM operandOf

/-! ### Lines (R91) -/

/-- The parts of a word between its full stops. -/
def splitAtStops : List Char → List (List Char)
  | [] => [[]]
  | '.' :: r => [] :: splitAtStops r
  | c :: r => match splitAtStops r with
    | a :: l => (c :: a) :: l
    | [] => [[c]]

inductive Label where
  | name (w : List Char)
  | number (n : Nat)
  deriving DecidableEq, Repr

inductive Statement where
  /-- A mnemonic with its qualifier suffixes. -/
  | op (head : List Char) (sfx : List (List Char)) (args : List Operand)
  | directive (head : List Char) (args : List Operand)
  deriving DecidableEq, Repr

structure Line where
  label : Option Label
  stmt : Option Statement
  deriving DecidableEq, Repr

def statementOf (l : List Tok) : Result (Option Statement) :=
  match l with
  | [] => .ok none
  | .word w :: r => do
    let args ← operandsOf r
    match splitAtStops (lower w) with
    | [[], d] => return some (.directive d args)
    | head :: sfx => if head.isEmpty ∨ sfx.any (·.isEmpty) then .error .badLine else return some (.op head sfx args)
    | [] => .error .badLine
  | _ => .error .badLine

/-- R91: a label, a statement and a comment, each optional. -/
def lineOf (l : List Char) : Result Line := do
  match ← lexLine l with
  | .word w :: .mark ':' :: r =>
    let label : Label ← match w with
      | c :: _ =>
        if isDigit c then
          match labelNumber w with
          | some n => pure (Label.number n)
          | none => throw AsmError.badLine
        else (symbolOf w).map .name
      | [] => throw AsmError.badLine
    return { label := some label, stmt := ← statementOf r }
  | r => return { label := none, stmt := ← statementOf r }

/-- The lines of a text. -/
def splitLines : List Char → List (List Char)
  | [] => [[]]
  | '\n' :: r => [] :: splitLines r
  | c :: r => match splitLines r with
    | a :: l => (c :: a) :: l
    | [] => [[c]]

end Sys2Proof.Asm
end

