-- ==== Sys2Proof/Machine/Histories.lean ====
section
/-!
DEFINITION. The outcomes of programs (R315): the histories of the machine, the execution that a history makes with the
accesses of its threads and units and the edges that synchronisation adds (R305, R314, R322-R328), and the outcomes that
the memory model allows. Memory may change between the steps of a history, wherever it writes at all; the memory model says
which of the values so read are allowed.
-/

namespace Sys2Proof.Machine

/-! ### What waiting threads and units do (R305) -/

/-- What an event of a history is to the rules of R322 to R328. -/
inductive Tag where
  | plain
  /-- An element of a transfer of a thread on a counter: of the n-th that it issued there, once the history has been gone
  through. -/
  | element (r : TRef) (j : BitVec 3) (serial : Nat)
  /-- A poll of a READY word by the engine of a collective, and the write of a flag, with the elements of their shard: the
  first, and the one behind the last (R402). -/
  | poll (r : TRef) (j : BitVec 3) (serial first stop : Nat)
  | flag (r : TRef) (j : BitVec 3) (serial first stop : Nat)
  /-- The payload write of a message, by what names the message. -/
  | payload (key : Nat × Nat × Nat × Word)
  /-- The write of a work token. -/
  | token (tok : BitVec 512)
  /-- A load that a granule's bit served. -/
  | served (granule : Nat)
  /-- An END's update of the completion word of a launch. -/
  | update (ctx : Nat) (num : BitVec 32)
  deriving DecidableEq, Repr

/-- An event with its tag. -/
abbrev Deed := Event × Tag

/-- The instruction at PC of a thread. -/
def State.instrAt (s : State) (t : Thread) : Option Instr :=
  match decodeBytes (bytesOfWord (BitVec.ofNat 32 (readNat s.mem (s.focus t.ref).fetchAddr 4))) with
  | .ok i => some i
  | .error _ => none

/-- The semantics of the instruction in which a thread waits. -/
def State.waitSemantics (s : State) (t : Thread) : Semantics := ((s.instrAt t).map semanticsOf).getD (.ofFields 0 0 0)

/-- Bytes of 16-byte places as 8-byte writes where they divide, else one byte each (R306). -/
def State.bufferWrites (s : State) (die : Nat) (e : Event) (buf : List Place) (n : Nat) : List Event :=
  let z := if n % 8 = 0 then 8 else 1
  (List.range (n / z)).filterMap fun k => (buf[z * k / 16]?).map fun p =>
    { e with writes := s.cells die { p with pa := p.pa + z * k % 16 } 0 (2 * z) }

/-- The places of a message's slot in the ring of a channel: that at the head, or the first free one. -/
def State.slotOf (s : State) (ctx chan : Nat) (free : Bool) : Option Nat :=
  (s.channel ctx chan).bind fun e => (s.corePhys ctx e.dlcore).map fun core =>
    let r := s.ring ctx chan
    slotBase core e (if free then (r.first + r.held) % e.slots else r.first)

/-- What names the message of a slot (R480), and its length. -/
def State.slotKey (s : State) (base : Nat) : (Nat × Nat × Nat × Word) × Nat :=
  let h := readNat s.mem base 32
  ((bits h 96 14 * 65536 + bits h 80 16, bits h 0 16, bits h 60 2, BitVec.ofNat 64 (bits h 128 64)), min 256 (bits h 64 16))

/-- A wait that is over in this moment: a full-empty load that a bit has served (R288), a WAITA (R349), and what a RECV
stores into its buffer (R392). -/
def Moment.servedEvents (m : Moment) (r : TRef) (po : Nat) : List Deed :=
  let t := m.was r
  let die := dieOf t.core
  let base := blankEvent (.thread r) (some po) (m.before.waitSemantics t)
  let load (p : Place) (n : Nat) : Event := { base with reads := m.after.cells die p 0 (2 * n), device := m.after.isDevice p }
  if m.completed r = false ∨ (m.is r).any (·.wait.isSome) then []
  else match t.wait with
    | some (.fullEmpty _ pa _ wide dev _ _) =>
      [(load { pa := pa, attr := if dev then 2 else 0 } (if wide then 8 else 4), .served (pa / 16))]
    | some (.waita _ pa priv wide _ _ _) => [(load { pa := pa, attr := if priv then 1 else 0 } (if wide then 8 else 4), .plain)]
    | some (.recv chan buf _ _) => match m.before.slotOf t.ctx chan true with
      | some b => (m.after.bufferWrites die base buf (m.after.slotKey b).2).map (·, .plain)
      | none => []
    | _ => []

/-- The threads that end in this moment, not those that a save takes away. -/
def Moment.ending (m : Moment) : List Thread :=
  m.before.all.filter fun t => (m.is t.ref).isNone && t.run != .saved && (m.before.launchOf t).isSome

/-- R56, R59, R325: the update of the completion word, a release at fabric scope, by each thread that ends. -/
def Moment.endEvents (m : Moment) (po : TRef → Nat) : List Thread → (Nat → Nat) → List Deed
  | [], _ => []
  | t :: rest, word => match m.before.launchOf t with
    | none => m.endEvents po rest word
    | some l =>
      let old := word l.comp
      let flags := t.drain.tstat.toNat % 64
      let fatal : Bool := t.ref != m.before.cur.ref || m.instr != some .endT
      let new := completion old l.n flags fatal
      let p : Place := { pa := l.comp, attr := 0 }
      ({ blankEvent (.thread t.ref) (some (po t.ref)) (semanticsOf .endT) with
          reads := valueCells 0 p 0 16 old, writes := valueCells 0 p 0 16 new, atomic := true }, .update t.ctx t.launch) ::
        m.endEvents po rest fun a => if a = l.comp then new else word a

/-- The elements of the transfer in progress on a core that land in this moment. -/
def Moment.landedOn (m : Moment) (core : Nat) : Option (Xfer × List Nat) :=
  match (m.before.core core).xfer with
  | none => none
  | some x => match m.cause with
    | some (.event (.streamElementLanding c _)) | some (.event (.collShardCopy c _)) =>
      if c ≠ core then none
      else match (m.after.core core).xfer with
        | some y => some (x, y.landed.filter fun e => !x.landed.contains e)
        | none =>
          if ((m.is x.ref).map (·.storeErrors.length)) = some (m.was x.ref).storeErrors.length then
            some (x, (List.range x.count).filter fun e => !x.landed.contains e)
          else none
    | _ => none

/-- The accesses of a transfer's elements and of a collective's words (R322, R402). -/
def Moment.transferEvents (m : Moment) (core : Nat) : List Deed :=
  let die := dieOf core
  let made (x : Xfer) (e n : Nat) (w : Bool) (p : Place) : List Deed :=
    let c (s : State) (k : Nat) := s.cells die { p with pa := p.pa + 8 * k } 0 (2 * min 8 n)
    (List.range ((n + 7) / 8)).map fun k => ({ blankEvent (.thread x.ref) none (.ofFields 0 0 0) with
        unit := 1 + x.ctr.toNat, elem := e, device := m.before.isDevice p, register := m.before.region p.pa == .device
        reads := if w then [] else c m.before k, writes := if w then c m.after k else [] }, .element x.ref x.ctr 0)
  let element (x : Xfer) (e : Nat) : List Deed := match x.kind with
    | .copy src dst => (src[e]?).toList.flatMap (made x e x.bytes false) ++ (dst[e]?).toList.flatMap (made x e x.bytes true)
    | .gather _ _ rows => ((rows[e]?).getD []).flatMap (made x e x.bytes false)
    | .coll op _ _ n p _ send _ recv _ _ _ _ =>
      ((collSources op n p e).filterMap (send[·]?)).flatMap (made x e x.bytes false) ++
        (recv[e]?).toList.flatMap (made x e x.bytes true)
  let word (x : Xfer) (p : Option Place) (w : Bool) (tag : Tag) : List Deed :=
    (p.toList.flatMap (made x x.count 8 w)).map fun d => (d.1, tag)
  let elements := match m.landedOn core with
    | some (x, l) => l.flatMap (element x)
    | none => []
  let words : List Deed := match m.cause, (m.before.core core).xfer, (m.after.core core).xfer with
    | some (.event (.streamTransferStart _)), none, some x => match x.kind with
      | .coll _ _ _ _ _ r _ ready _ _ _ _ _ => word x ready[r]? true (.element x.ref x.ctr 0)
      | _ => []
    | some (.event (.collReadyPoll c q)), some x, _ => match x.kind with
      | .coll op _ _ n _ _ _ ready _ _ _ _ _ =>
        if c = core then
          word x ready[q]? false (if op = 0 then .poll x.ref x.ctr 0 (q * n) (q * n + n) else .poll x.ref x.ctr 0 0 x.count)
        else []
      | _ => []
    | some (.event (.collShardCopy c q)), some x, _ => match x.kind with
      | .coll _ _ _ n _ _ _ _ _ flags _ _ _ =>
        if c = core ∧ (m.landedOn core).any (fun y => y.2.length = n) then
          word x flags[q]? true (.flag x.ref x.ctr 0 (q * n) (q * n + n))
        else []
      | _ => []
    | _, _, _ => []
  elements ++ words

/-- The threads whose RECV on a channel is served in this moment while they wait. -/
def Moment.receivers (m : Moment) (ctx chan : Nat) : List TRef :=
  (m.before.all.filter fun t => t.ctx == ctx && m.completed t.ref && (match t.wait with
    | some (.recv c _ _ _) => c == chan
    | _ => false)).map (·.ref)

/-- The channels whose ring takes a message in this moment. -/
def Moment.deliveries (m : Moment) : List (Nat × Nat) :=
  (((m.before.rings ++ m.after.rings).map fun r => (r.ctx, r.chan)) ++ m.before.all.filterMap fun t => match t.wait with
    | some (.recv c _ _ _) => some (t.ctx, c)
    | _ => none).eraseDups.filter fun q =>
      let r := m.before.ring q.1 q.2
      let u := m.after.ring q.1 q.2
      decide (r.held < u.held) || !(m.receivers q.1 q.2).isEmpty

/-- The payload writes of the messages that arrive (R324). `po`: the place of a message's SEND in its sender's program
order. -/
def Moment.payloadEvents (m : Moment) (po : Nat × Nat × Nat × Word → Option (TRef × Nat)) : List Deed :=
  m.deliveries.flatMap fun q => match m.before.slotOf q.1 q.2 true with
    | none => []
    | some base =>
      let key := (m.after.slotKey base).1
      let e : Event := match po key with
        | some (r, k) => blankEvent (.thread r) (some k) (.ofFields 0 0 0)
        | none => blankEvent (.package (key.1 / 65536)) none (.ofFields 0 0 0)
      (List.range 36).map fun k => ({ e with unit := 9, writes := m.after.cells 0 { pa := base + 8 * k, attr := 0 } 0 16 }, .payload key)

/-- The table entries that the walkers of the dies read (R297): for each translation that a cache gains, and for one that
ends in a page fault. -/
def Moment.walkEvents (m : Moment) : List Deed :=
  let s := m.before
  let walk (die ctx va : Nat) : List Deed := (s.walkPath ctx va).map fun pa =>
    ({ blankEvent (.walker die) none (.ofFields 0 0 0) with reads := s.cells die { pa := pa, attr := 0 } 0 16 }, .plain)
  let u := m.is s.cur.ref
  let fault := u.any fun u => !s.cur.st stINTRAP && u.st stINTRAP && u.trcause.toNat % 256 == 0x0A
  (List.range 12).flatMap (fun d => ((m.after.die d).tcache.filter fun e => !(s.die d).tcache.contains e).flatMap fun e =>
    walk d e.ctx e.vbase) ++
  (if fault then u.toList.flatMap fun u => walk (dieOf s.cur.core) s.cur.ctx u.trval.toNat else [])

/-- The zero write of a launch's completion word (R33), by its launch unit. -/
def Moment.launchEvents (m : Moment) : List Deed :=
  match m.cause with
  | some (.event (.launchPerform u)) =>
    match (m.before.unit u).queue with
    | r :: _ =>
      let comp := match r.source with
        | .token _ _ _ => m.before.completionPlace r.launch.ctx r.launch.compVa
        | _ => some r.launch.comp
      if m.after.unit u = m.before.unit u then []
      else comp.toList.map fun pa =>
        ({ blankEvent (.unit u) none (.ofFields 0 0 0) with writes := valueCells 0 { pa := pa, attr := 0 } 0 16 0 }, .plain)
    | [] => []
  | _ => []

/-- The bytes of memory that differ between two states. -/
def State.changedBytes (s t : State) : List Nat :=
  ((s.mem ++ t.mem).map (·.1)).eraseDups.filter fun a => readByte s.mem a != readByte t.mem a

/-- What hosts, pools, peers and other packages write. -/
def Moment.outsideEvents (m : Moment) : List Deed :=
  let by' (a : Party) : List Deed := (m.before.changedBytes m.after).map fun pa =>
    ({ blankEvent a none (.ofFields 0 0 0) with writes := m.after.cells 0 { pa := pa, attr := 0 } 0 2 }, .plain)
  match m.cause with
  | some (.event (.hostAccess ..)) | some (.event (.ultraEthernetReceive ..)) | some (.event (.cxlPoolHostWrite ..)) => by' .outside
  | some (.event (.linkFrameReceive _ chan _ _ _ msg)) => if chan = 0 then by' (.package (bits msg.toNat 96 14)) else []
  | some (.peerWrite pa _ _) => by' (.package (bits pa 42 14))
  | _ => []

/-! ### What a history has shown (R314, R322-R328) -/

/-- What a moment shows of the rules of R322 to R328. `n`: how many events the history has by then. -/
inductive Fact where
  /-- A thread issues a transfer on a counter. -/
  | issued (r : TRef) (j : BitVec 3) (po : Nat)
  /-- A thread sees what has landed on a counter: by a stream wait, a read of it, or an interrupt. -/
  | observed (r : TRef) (j : BitVec 3) (po n : Nat)
  /-- The write of an operation that sets a granule's bit, with its data writes there. -/
  | filled (granule : Nat) (data : List Nat) (bit : Nat)
  | sent (key : Nat × Nat × Nat × Word) (r : TRef) (po : Nat)
  | received (key : Nat × Nat × Nat × Word) (r : TRef) (po : Nat)
  /-- A token starts a launch. -/
  | dispatched (tok : BitVec 512) (ctx : Nat) (num : BitVec 32)
  | launched (r : TRef) (po : Nat) (ctx : Nat) (num : BitVec 32)
  /-- A thread arrives at a domain: level, number and phase. -/
  | arrived (ctx : Nat) (launch : BitVec 32) (level num : Nat) (phase : BitVec 32) (r : TRef) (po : Nat)
  | ended (ctx : Nat) (num : BitVec 32) (r : TRef) (po : Nat)
  /-- A load with acquire meets the completion word of a launch with DONE set. -/
  | sawDone (ctx : Nat) (num : BitVec 32) (load : Nat)
  /-- A participant starts a collective: what names it, and its buffers. -/
  | collective (ready : List Place) (seq : Word) (r : TRef) (j : BitVec 3) (po : Nat) (named : List Place) (bytes : Nat)
  deriving DecidableEq, Repr

/-- The loads on which registers, and the instructions that follow, depend. -/
structure Dependence where
  regs : List (Reg × List Nat)
  control : List Nat

def Dependence.of (x : Dependence) (l : List Reg) : List Nat :=
  l.flatMap fun r => ((x.regs.find? (·.1 == r)).map (·.2)).getD []

/-- What has been gathered from the moments of a history so far: its events with the state that each was made in, its facts,
how many instructions each thread has begun, and its dependences. -/
structure Tally where
  deeds : List (Deed × State)
  facts : List Fact
  begun : List (TRef × Nat)
  deps : List (TRef × Dependence)

def Tally.empty : Tally := { deeds := [], facts := [], begun := [], deps := [] }

/-- The place of a thread's latest instruction in its program order. -/
def Tally.po (y : Tally) (r : TRef) : Nat := (lookup y.begun r).getD 0

def Tally.dep (y : Tally) (r : TRef) : Dependence := (lookup y.deps r).getD { regs := [], control := [] }

def Tally.sender (y : Tally) (key : Nat × Nat × Nat × Word) : Option (TRef × Nat) :=
  y.facts.findSome? fun f => match f with
    | .sent k r po => if k = key then some (r, po) else none
    | _ => none

/-- How many transfers a thread has issued on a counter. -/
def Tally.issues (y : Tally) (r : TRef) (j : BitVec 3) : Nat :=
  (y.facts.filter fun f => match f with
    | .issued q k _ => q == r && k == j
    | _ => false).length

/-- Events join the history; the elements of a transfer get its number. -/
def Tally.add (y : Tally) (s : State) (l : List Deed) : Tally :=
  let named (d : Deed) : Deed := match d.2 with
    | .element r j _ => (d.1, .element r j (y.issues r j))
    | .poll r j _ lo hi => (d.1, .poll r j (y.issues r j) lo hi)
    | .flag r j _ lo hi => (d.1, .flag r j (y.issues r j) lo hi)
    | _ => d
  { y with deeds := y.deeds ++ l.map fun d => (named d, s) }

/-- The numbers of the events of which something holds. -/
def numbers (l : List Deed) (f : Event → Tag → Bool) : List Nat :=
  (l.zipIdx.filter fun d => f d.1.1 d.1.2).map (·.2)

def Tally.numbered (y : Tally) (f : Event → Tag → Bool) : List Nat := numbers (y.deeds.map (·.1)) f

/-- R314: an instruction of a thread completes: what it writes depends on its loads and on what it read. -/
def Tally.complete (y : Tally) (r : TRef) (po : Nat) (i : Instr) (use : List Reg × List Reg) : Tally :=
  let x := y.dep r
  let data := (x.of use.1).eraseDups
  let own := y.numbered fun e _ => e.who == .thread r && e.po == some po && e.unit == 0 && e.loads
  let regs := use.2.map (fun q => (q, own ++ data)) ++ x.regs.filter fun e => !use.2.contains e.1
  let control := if branches i then (data ++ x.control).eraseDups else x.control
  { y with deps := assign y.deps r { regs := regs, control := control } }

/-- R314: the events of an instruction depend on the loads that gave what it reads, and on those that a branch before it
read. -/
def Tally.depend (y : Tally) (r : TRef) (use : List Reg × List Reg) (l : List Deed) : List Deed :=
  let x := y.dep r
  l.map fun d => if d.1.free then d else ({ d.1 with deps := (x.of use.1).eraseDups ++ x.control }, d.2)

/-- R381: what a record lands in a register is a load on which the register depends. -/
def Tally.landDeps (y : Tally) (m : Moment) (core : Nat) : Tally :=
  match m.landedOn core with
  | some (x, _) => match x.kind with
    | .gather d nf _ =>
      let own := y.numbered fun _ t => match t with
        | .element r j n => r == x.ref && j == x.ctr && n == y.issues x.ref x.ctr
        | _ => false
      let old := y.dep x.ref
      let rs := (List.range nf).map fun k => Reg.v (d + BitVec.ofNat 5 k).toNat
      let regs := rs.map (fun q => (q, own ++ old.of [q])) ++ old.regs.filter fun e => !rs.contains e.1
      { y with deps := assign y.deps x.ref { old with regs := regs } }
    | _ => y
  | none => y

/-- The counters that the completion of an instruction observes (R322). -/
def observedBy (i : Instr) : Option (BitVec 3) :=
  match i with
  | .strmw _ j => some j
  | .rdcsr _ c | .xchcsr _ _ c | .setcsr _ c | .clrcsr _ c =>
    if 0x050 ≤ c.toNat ∧ c.toNat ≤ 0x057 then some (BitVec.ofNat 3 (c.toNat - 0x050)) else none
  | _ => none

/-- The launch whose number a moment takes. -/
def Moment.numbered (m : Moment) (ctx : Nat) : Option (BitVec 32) :=
  let n := (m.before.ctxSt ctx).nextLaunch
  if (m.after.ctxSt ctx).nextLaunch = n then none else some n

/-- The facts of the instruction that a thread completes. -/
def Moment.instrFacts (m : Moment) (r : TRef) (po n : Nat) (i : Instr) : List Fact :=
  let t := m.was r
  let q := (m.after.core t.core).streamQ.getLast?
  let issued (j : BitVec 3) : List Fact :=
    if (m.before.core t.core).streamQ.length < (m.after.core t.core).streamQ.length then .issued r j po :: (match q with
      | some x => match x.kind with
        | .coll _ _ _ _ _ _ send ready recv flags seq _ _ =>
          [.collective ready seq r j po (send ++ recv ++ ready ++ flags) x.bytes]
        | _ => []
      | none => []) else []
  let sent : List Fact := match (m.after.core t.core).retry.getLast? with
    | some q => if (m.before.core t.core).retry.length < (m.after.core t.core).retry.length then [.sent q.once r po] else []
    | none => []
  match i with
  | .strm _ j _ | .strmv _ _ _ _ _ j _ | .coll _ _ j => issued j
  | .send .. | .tokw .. => sent
  | .recv _ _ h l _ | .recvt _ _ h l _ => match m.before.slotOf t.ctx (chanOf h l) t.wait.isSome with
    | some b =>
      if t.wait.isSome then [.received (m.after.slotKey b).1 r po]
      else if 0 < (m.before.ring t.ctx (chanOf h l)).held then [.received (m.before.slotKey b).1 r po] else []
    | none => []
  | .launch .. => ((m.numbered t.ctx).map fun k => Fact.launched r po t.ctx k).toList
  | _ => ((observedBy i).map fun j => Fact.observed r j po n).toList

/-- R38: the current thread arrives at the domain of a BAR. -/
def Moment.arrival (m : Moment) (i : Instr) (po : Nat) : List Fact :=
  let t := m.before.cur
  let level : Option Nat := match i with
    | .bar0 => some 0
    | .bar1 => some 1
    | .bar2 => some 2
    | .bar3 => some 3
    | _ => none
  match level with
  | none => []
  | some k => match t.domAt k with
    | none => []
    | some num =>
      let phase (s : State) : BitVec 32 := ((s.domains.find? (·.is t.ctx t.launch k num)).map (·.phase)).getD 0
      let arrivals (s : State) : Nat := ((s.domains.find? (·.is t.ctx t.launch k num)).map (·.arrivals)).getD 0
      if phase m.after ≠ phase m.before ∨ arrivals m.before < arrivals m.after then
        [.arrived t.ctx t.launch k num (phase m.before) t.ref po]
      else []

/-- The facts of a moment beside its instructions: interrupts, tokens. -/
def Moment.unitFacts (m : Moment) (po : TRef → Nat) (n : Nat) : List Fact :=
  let interrupts := m.before.all.filterMap fun t => match t.pending, m.is t.ref with
    | p :: rest, some u => if u.pending = rest ∧ u.st stINUI then some (Fact.observed t.ref p.ctr (po t.ref) n) else none
    | _, _ => none
  let tokens : List Fact := match m.cause with
    | some (.event (.tokenDispatch u)) => match (m.before.unit u).tokens with
      | t :: _ => ((m.numbered (bits t.tok.toNat 12 12)).map fun k => Fact.dispatched t.tok (bits t.tok.toNat 12 12) k).toList
      | [] => []
    | _ => []
  interrupts ++ tokens

/-- The bits that a moment sets (R288): by ST.fe, by an element that completes a granule, by a message. -/
def Tally.bitsSet (y : Tally) (m : Moment) (first : Nat) : List Fact :=
  let all : List (Deed × Nat) := (y.deeds.map (·.1)).zipIdx
  let touches (g : Nat) (e : Event) : Bool := e.writes.any fun w => w.1.nibble / 32 == g
  let granules (e : Event) : List Nat := (e.writes.map (·.1.nibble / 32)).eraseDups
  let fact (g : Nat) (data : List Nat) : List Fact := (data.getLast?).toList.map fun b => .filled g data b
  let stores : List (Deed × Nat) := match m.instr with
    | some (.stFe ..) => (all.drop first).filter fun d => d.1.2 == Tag.plain && d.1.1.unit == 0
    | _ => []
  (stores.flatMap fun d => (granules d.1.1).flatMap fun g => fact g [d.2]) ++
  (all.drop first).flatMap fun d => (granules d.1.1).flatMap fun g => match d.1.2 with
    | .payload k => fact g ((all.filter fun c => decide (first ≤ c.2) && c.1.2 == .payload k && touches g c.1.1).map (·.2))
    | .element r j n =>
      let whole := m.before.cores.any fun c => match m.landedOn c.1 with
        | some (x, l) => x.ref == r && x.ctr == j && (match x.kind with
          | .copy _ dst | .coll _ _ _ _ _ _ _ _ dst _ _ _ _ =>
            dst.zipIdx.all fun q => q.1.pa / 16 != g || x.landed.contains q.2 || l.contains q.2
          | _ => false)
        | none => false
      if whole then fact g ((all.filter fun c => c.1.2 == .element r j n && touches g c.1.1).map (·.2)) else []
    | _ => []

/-- R58: the loads with acquire of this moment that meet a completion word with DONE set. -/
def Tally.doneSeen (y : Tally) (m : Moment) (first : Nat) : List Fact :=
  ((y.deeds.map (·.1)).zipIdx.drop first).flatMap fun d =>
    if d.1.1.sem.acq && d.1.1.loads then
      (m.before.launches.filter fun l => d.1.1.reads.any fun r =>
        r.1.die.isNone && r.1.nibble == 2 * l.comp + 15 && decide (8 ≤ r.2)).map fun l => .sawDone l.ctx l.num d.2
    else []

/-- The threads that wait, or whose stall ends, beside the one that executes. -/
def Moment.others (m : Moment) : List TRef :=
  ((m.before.all.filter fun t => t.wait.isSome || t.stall.isSome).map (·.ref)).filter fun r =>
    m.instr.isNone || r != m.before.cur.ref

/-- A waiting thread in a moment: its accesses, and what follows where its instruction completes. -/
def Tally.serve (y : Tally) (m : Moment) (r : TRef) : Tally :=
  let po := y.po r
  match m.before.instrAt (m.was r) with
  | none => y
  | some i =>
    let use := useOf (m.was r).waitLatch i true
    let y := y.add m.before (y.depend r use (m.servedEvents r po ++ (m.groupEvents r po).map (·, .plain)))
    if m.completed r ∧ (m.is r).all (·.wait.isNone) then
      { y with facts := y.facts ++ m.instrFacts r po y.deeds.length i }.complete r po i use
    else y

/-- The current thread in a moment in which it executes an instruction. -/
def Tally.execute (y : Tally) (m : Moment) (i : Instr) : Tally :=
  let t := m.before.cur
  let r := t.ref
  let po := if t.stall.isSome then y.po r else y.po r + 1
  let y := { y with begun := assign y.begun r po }
  let use := useOf t.latch i (m.after.wroteWhole i)
  let own := (m.ownEvents i po).map fun e => (e, match i with
    | .ldFe .. | .ldFc .. => Tag.served (((e.reads.map (·.1.nibble / 32)).head?).getD 0)
    | _ => .plain)
  let token : List Deed := match i, (m.after.core t.core).retry.getLast? with
    | .tokw .., some q =>
      if m.completed r then
        [({ blankEvent (.thread r) (some po) (.ofFields 0 0 0) with kind := .token, unit := 9 }, .token (q.data.setWidth 512))]
      else []
    | _, _ => []
  let y := y.add m.before (y.depend r use ((m.cacheEvents po (own.map (·.1))).map (·, .plain) ++ own ++ token))
  let y := { y with facts := y.facts ++ m.arrival i po }
  if m.completed r then { y with facts := y.facts ++ m.instrFacts r po y.deeds.length i }.complete r po i use else y

/-- A moment joins a history. -/
def Tally.moment (y : Tally) (m : Moment) : Tally :=
  let first := y.deeds.length
  let cores := m.before.cores.map (·.1)
  let y := match m.instr with
    | some i => y.execute m i
    | none => y.add m.before ((m.cacheEvents 0 []).map (·, .plain))
  let y := y.add m.before (m.walkEvents ++ m.launchEvents ++ m.outsideEvents)
  let y := y.add m.before (cores.flatMap m.transferEvents)
  let y := y.add m.before (m.payloadEvents y.sender)
  let y := cores.foldl (fun y c => y.landDeps m c) y
  let y := m.others.foldl (fun y r => y.serve m r) y
  let ending := m.ending
  let y := y.add m.before (m.endEvents y.po ending fun a => readNat m.before.mem a 8)
  { y with facts := y.facts ++ m.unitFacts y.po y.deeds.length ++ y.bitsSet m first ++ y.doneSeen m first ++
      ending.map fun t => .ended t.ctx t.launch t.ref (y.po t.ref) }

/-! ### The execution of a history (R315) -/

/-- The threads that appear in a history, each as it is seen last. -/
def threadsSeen (h : List Moment) : List Thread :=
  (h.flatMap fun m => m.before.all ++ m.after.all).reverse.foldl
    (fun l t => if l.any (·.ref == t.ref) then l else t :: l) []

/-- The parties that are threads of a launch. -/
def threadsOf (seen : List Thread) (ctx : Nat) (num : BitVec 32) : List Party :=
  (seen.filter fun t => t.ctx == ctx && t.launch == num).map fun t => .thread t.ref

/-- R324: the token that started a launch is the first write of these bytes that started none before. -/
def Tally.tokenWrite (y : Tally) (tok : BitVec 512) (earlier : List Fact) : Option Nat :=
  let used := (earlier.filter fun f => match f with
    | .dispatched t _ _ => t == tok
    | _ => false).length
  (y.numbered fun _ t => t == .token tok)[used]?

/-- The edges that a fact adds; `earlier`: the facts before it. -/
def Tally.sync (y : Tally) (seen : List Thread) (fabric : List Party) (earlier : List Fact) (f : Fact) : List Sync :=
  let elements (r : TRef) (j : BitVec 3) (n : Nat) : List Nat := y.numbered fun _ t => t == .element r j n
  match f with
  | .issued r j po =>
    let k := (earlier.filter fun g => match g with
      | .issued q i _ => q == r && i == j
      | _ => false).length + 1
    let l := elements r j k
    let event (a : Nat) : Option Event := (y.deeds[a]?).map (·.1.1)
    .issue (.thread r) po l :: l.flatMap fun a => (l.filter fun b =>
      (event a).map (·.elem) == (event b).map (·.elem) && (event a).any (!·.reads.isEmpty) && (event b).any (!·.writes.isEmpty)).map
        fun b => .element a b
  | .observed r j po n => [.landing (.thread r) po ((y.numbered fun e t => !e.writes.isEmpty && (match t with
      | .element q i _ => q == r && i == j
      | _ => false)).filter fun a => decide (a < n))]
  | .filled g data bit =>
    let next := y.facts.findSome? fun q => match q with
      | .filled h _ b => if h = g ∧ bit < b then some b else none
      | _ => none
    ((y.numbered fun _ t => t == .served g).filter fun a => decide (bit < a) && next.all (a < ·)).map fun a => .fullEmpty data bit a
  | .received key r po => [.message (y.numbered fun _ t => t == .payload key) (.thread r) po]
  | .dispatched tok ctx num => ((y.tokenWrite tok earlier).map fun w => Sync.token w (threadsOf seen ctx num)).toList
  | .launched r po ctx num => [.launch (.thread r) po (threadsOf seen ctx num)]
  | .arrived ctx l k num ph _ _ => [.barrier (y.facts.filterMap fun g => match g with
      | .arrived c l' k' n' p' r po => if c = ctx ∧ l' = l ∧ k' = k ∧ n' = num ∧ p' = ph then some (.thread r, po) else none
      | _ => none)]
  | .sawDone ctx num load => [.completed (y.facts.filterMap fun g => match g with
      | .ended c k r po => if c = ctx ∧ k = num then some (.thread r, po) else none
      | _ => none) (y.numbered fun _ t => t == .update ctx num) load]
  | .collective ready seq _ _ _ _ _ =>
    let parts : List (TRef × BitVec 3 × Nat × List Place × Nat) := y.facts.filterMap fun g => match g with
      | .collective ready' seq' r j po named z => if ready' = ready ∧ seq' = seq then some (r, j, po, named, z) else none
      | _ => none
    let writes := parts.flatMap fun p => y.numbered fun e t => !e.writes.isEmpty && (match t with
      | .element r j n => r == p.1 && j == p.2.1 && n == (y.facts.filter fun g => match g with
        | .issued q i k => q == r && i == j && decide (k ≤ p.2.2.1)
        | _ => false).length
      | _ => false)
    let lastOf (p : TRef × BitVec 3 × Nat × List Place × Nat) : Nat := (writes.getLast?).getD p.2.2.1
    let observed := parts.flatMap fun p => y.facts.filterMap fun g => match g with
      | .observed r j po n => if r = p.1 ∧ j = p.2.1 ∧ p.2.2.1 < po ∧ lastOf p < n then some (Party.thread r, po) else none
      | _ => none
    let named := parts.flatMap fun p => p.2.2.2.1.flatMap fun q =>
      (List.range (2 * max 8 p.2.2.2.2)).map fun k => locOf (dieOf ((seen.find? (·.ref == p.1)).map (·.core) |>.getD 0)) q k
    [.collective (parts.map fun p => (Party.thread p.1, p.2.2.1)) observed writes named fabric]
  | .sent .. | .ended .. => []

/-- R402: a poll's acquire orders the elements of its shard after it; a flag's write comes after every element of its shard. -/
def Tally.engineSync (y : Tally) (fabric : List Party) : List Sync :=
  let all : List (Deed × Nat) := (y.deeds.map (·.1)).zipIdx
  let shard (r : TRef) (j : BitVec 3) (n lo hi : Nat) : List Nat :=
    y.numbered fun e t => t == .element r j n && decide (lo ≤ e.elem) && decide (e.elem < hi)
  all.flatMap fun d => match d.1.2 with
    | .poll r j n lo hi => ((shard r j n lo hi).filter fun b => decide (d.2 < b)).map fun b => .engine d.2 b fabric
    | .flag r j n lo hi => ((shard r j n lo hi).filter fun a => decide (a < d.2)).map fun a => .engine a d.2 fabric
    | _ => []

/-- What a location holds before a history; a die that holds no copy of a byte has no value for it. -/
def State.initial (s : State) (l : Loc) : Option Nat :=
  let pa := l.nibble / 2
  let value (b : Byte) : Nat := b.toNat / 16 ^ (l.nibble % 2) % 16
  match l.die with
  | none => some (value (readByte s.mem pa))
  | some d => if holdsByte (s.priv d (pa / 256)) (pa % 256) then
      (s.priv d (pa / 256)).map fun p => value (p.byte (pa % 256)) else none

/-- The events of a history, with the instances of their scopes. -/
def Tally.events (y : Tally) (seen : List Thread) (parties : List Party) : List Event :=
  y.deeds.map fun d =>
    let e := d.1.1
    let s := match e.who with
      | .thread r => d.2.focus r
      | _ => d.2
    if e.po.isNone ∨ (e.sem = .ofFields 0 0 0 ∧ e.kind ≠ .fence) then e
    else { e with inst := s.instanceOf seen e.sem.scope parties, elemInst := s.instanceOf seen e.sem.elementScope parties }

/-- The execution of a history with some earlier performances of restarted elements (R319), a choice of the write that each
load reads, and orders of the writes. -/
def execution (first : State) (h : List Moment) (early : List Event) (rf : List ((Nat × Loc) × Option Nat))
    (co : List (Loc × List Nat)) : Execution :=
  let y := h.foldl Tally.moment .empty
  let seen := threadsSeen h
  let parties : List Party := (y.deeds.map (fun d => d.1.1.who) ++ seen.map fun t => Party.thread t.ref).eraseDups
  let fabric := parties.filter (· != .outside)
  let own := y.events seen parties
  let evs := own.map (fun e => if e.early && !own.any e.again then { e with early := false } else e) ++ early
  let locs := (evs.flatMap fun e => (e.reads ++ e.writes).map (·.1)).eraseDups
  { events := evs, init := locs.filterMap fun l => (first.initial l).map fun v => (l, v), rf := rf, co := co
    sync := ((y.facts.zipIdx).flatMap fun f => y.sync seen fabric (y.facts.take f.2) f.1) ++ y.engineSync fabric }

/-- The physical bytes that the events of an execution write. -/
def Execution.written (x : Execution) : List Nat :=
  ((x.events.flatMap fun e => e.writes.map (·.1.nibble / 2))).eraseDups

/-- A line without the bytes of some list. -/
def PrivLine.without (p : PrivLine) (l : List Nat) : PrivLine :=
  (List.range 256).foldl (fun p k => if l.contains (256 * p.line + k) then p.setByte k 0 else p) p

/-- Between two moments memory may change in the bytes that the history writes; nothing else does, but for whose turn it
is and which free values come next. -/
def State.resumes (s t : State) (written : List Nat) : Prop :=
  t = { s with mem := t.mem, dies := t.dies, inputs := t.inputs, held := t.held, streak := t.streak, agenda := t.agenda
               free := t.free } ∧
    Memory.wf t.mem = true ∧ (∀ a, a ∉ written → readByte t.mem a = readByte s.mem a) ∧
    ∀ d, { t.die d with lines := [] } = { s.die d with lines := [] } ∧
      (t.die d).lines.map (·.without written) = (s.die d).lines.map (·.without written)

/-- Whether the accesses of an instruction may see different memories: those of a vector or tile load, or of a vector
atomic. -/
def Moment.mixes (m : Moment) : Prop :=
  m.views = [] ∨ ∃ i, m.instr = some i ∧
    ((elementDest m.before.cur i).isSome = true ∨ (match i with
      | .tldb .. | .taccld .. => True
      | _ => False))

/-- A moment is a step of the machine, its accesses seeing memories that differ only where the history writes. -/
def Moment.holds (m : Moment) (written : List Nat) : Prop :=
  m.result = some m.after ∧ m.mixes ∧ ∀ v ∈ m.views, m.before.resumes v written

/-- A history from one state to another. -/
def History (written : List Nat) : State → List Moment → State → Prop
  | s, [], t => s.resumes t written
  | s, m :: rest, t => s.resumes m.before written ∧ m.holds written ∧ History written m.after rest t

/-- What memory holds in the end is, at each location, what the last write of its order wrote. -/
def Execution.finally (x : Execution) (t : State) : Prop :=
  ∀ l k e v, (x.order l).getLast? = some k → x.event k = some e → (l, v) ∈ e.writes → e.kind ≠ .drop → t.initial l = some v

/-- R315: what a program does from one state may end in another where some history leads there whose execution, with some
choice of the write that each load reads and some order of each location's writes, is allowed. -/
def outcomeAllowed (first last : State) : Prop :=
  ∃ (h : List Moment) (early : List Event) (rf : List ((Nat × Loc) × Option Nat)) (co : List (Loc × List Nat)),
    let x := execution first h early rf co
    early.all (·.early) = true ∧ History x.written first h last ∧ x.allowed = true ∧ x.finally last

end Sys2Proof.Machine
end

