-- ==== Sys2Proof/Machine/Mnemonics.lean ====
section
/-!
DEFINITION. The mnemonics with their operands and suffixes, as their entries give them, and the word that `oba`
makes of a statement (R96-R99, R152-R175, R185-R197, R207-R218, R228-R239, R335-R355, R371-R402, R419, R439,
R454).
-/

namespace Sys2Proof.Asm

/-! ### What fills a word -/

/-- What one position of an operand list fills; numbers are the lowest bit of a field. -/
inductive Slot where
  | reg (f : File) (lo : Nat)
  /-- R335: disp(sA), scaled by the access size. -/
  | mem
  /-- R337: disp(sA), whose displacement is 0. -/
  | base
  /-- R97: (sA) alone. -/
  | bare
  /-- A field operand of a width, signed or not (R64). -/
  | imm (lo width : Nat) (signed : Bool)
  /-- The halves of the pair (R96, R104). -/
  | high
  | low
  /-- A PC-relative label. -/
  | label (width : Nat)
  /-- pN or !pN of BR. -/
  | branch
  /-- R82: the predicate, the second destination and z of a PFX. -/
  | latch
  | second
  | zero
  /-- One of some words. -/
  | word (lo : Nat) (t : List (String × Nat))
  /-- An optional word with its default. -/
  | option (lo : Nat) (t : List (String × Nat)) (default : Nat)
  | csr
  | channel
  /-- R99: the last source of the V-form, and of the V4-form. -/
  | source
  | source3
  /-- R339: what follows the base of a vector access: a group operator where one is allowed. -/
  | tail (op : Bool)
  /-- scJ. -/
  | counter (lo : Nat)
  /-- R381: nf, 1 to 8, and the index register. -/
  | fields
  | index
  /-- R187: one register in both fields. -/
  | both
  /-- R237: the destination type with its rounding. -/
  | drain
  deriving DecidableEq, Repr

/-- A kind of suffix: its codes, its field, and whether it must be written. -/
structure Sfx where
  codes : List (String × Nat)
  lo : Nat
  needed : Bool
  deriving DecidableEq, Repr

/-- One form of a mnemonic. -/
structure Row where
  name : String
  base : Nat
  slots : List Slot
  sfx : List Sfx
  deriving DecidableEq, Repr

/-! ### Suffixes (R98, R99) -/

def sizes : List (String × Nat) := codes 0 ["n8", "n16", "n32", "b64", "i8", "i16", "i32"]
def spaces : List (String × Nat) := codes 0 ["glob", "loc", "stash"]
def semantics : List (String × Nat) := codes 1 ["acq", "rel", "ar"]
def scopes : List (String × Nat) := codes 0 ["h", "c", "dom", "die", "dev", "fab", "sys"]
def kinds : List (String × Nat) := codes 0 ["vv", "vs", "vi"]

/-- A space in one bit. -/
def spaceAt (lo : Nat) : List Sfx := [{ codes := spaces.take 2, lo := lo, needed := false }]

/-- The operand kind; the operand itself fills the field. -/
def kindAt : List Sfx := [{ codes := kinds, lo := 0, needed := false }]

/-- A suffix that must stand, and fills nothing. -/
def fixed (s : String) : Sfx := { codes := [(s, 0)], lo := 0, needed := true }

/-- w, space, semantics and scope of the SQ-form. -/
def sqSuffixes (needed : Bool) : List Sfx :=
  [{ codes := [("n32", 0), ("b64", 1)], lo := 5, needed := true }, { codes := spaces.take 2, lo := 4, needed := false },
    { codes := semantics, lo := 6, needed := needed }, { codes := scopes, lo := 8, needed := needed }]

/-- .o, semantics and scope of the VM-form. -/
def vmSuffixes : List Sfx :=
  [{ codes := [("o", 1)], lo := 8, needed := false }, { codes := semantics, lo := 6, needed := false },
    { codes := scopes, lo := 3, needed := false }]

/-! ### Words in operand positions (R140, R156, R170, R224, R228) -/

def roundings : List (String × Nat) := codes 0 ["rne", "rtz", "rup", "rdn", "rna"] ++ [("dyn", 7)]
def floats : List (String × Nat) := codes 0 ["f64", "f32", "f16", "bf16"]
def integers : List (String × Nat) := codes 3 ["i32", "i64"] ++ codes 7 ["n32", "n64"]
def indexTags : List (String × Nat) := codes 0 ["i8", "i16", "i32", "i64"]
def blocks : List (String × Nat) := codes 0 ["mx4", "mx8", "mxi8"]
def formats : List (String × Nat) := codes 0 ["bf16", "f16", "e4m3", "e5m2", "mx8", "mxi8", "mx4", "int4"]
def drains : List (String × Nat) := codes 0 ["f32", "bf16", "f16", "e4m3", "e5m2"]
def groupOps : List (String × Nat) := codes 0 ["sum", "max", "min", "and", "or"]

def rounds (lo : Nat) : Slot := .option lo roundings 7
def combine : Slot := .option 21 [("and", 1), ("or", 2)] 0

/-! ### The rows -/

def row (name : String) (base : Nat) (slots : List Slot) (sfx : List Sfx) : List Row := [⟨name, base, slots, sfx⟩]

/-- Mnemonics with bases at equal steps. -/
def rows (base step : Nat) (names : List String) (slots : List Slot) (sfx : List Sfx) : List Row :=
  names.zipIdx.map fun e => ⟨e.1, base + e.2 * step, slots, sfx⟩

/-- R155: a mnemonic with each letter. -/
def lettered (name : String) (base lo : Nat) (slots : List Slot) : List Row :=
  ["d", "s", "h", "b"].zipIdx.map fun e => ⟨name ++ e.1, base + e.2 * 2 ^ lo, slots, []⟩

def s3 : List Slot := [.reg .s 21, .reg .s 16, .reg .s 11]
def s2 : List Slot := [.reg .s 21, .reg .s 16]
def v3 : List Slot := [.reg .v 21, .reg .v 16, .source]
def v2 : List Slot := [.reg .v 21, .reg .v 16]
def m2 : List Slot := [.reg .m 21, .reg .m 16]
def m3 : List Slot := [.reg .m 21, .reg .m 16, .reg .m 11]
def p3 : List Slot := [.reg .p 23, .reg .p 16, .reg .p 11]

/-- R82, R161-R165, with their aliases. -/
def integerRows : List Row :=
  row "pfx" 0x04000000 [.latch, .second, .zero] [] ++ row "pfx" 0x04000000 [.latch, .zero] [] ++
  rows 0x08000000 1 ["add", "sub", "and", "or", "xor", "andcm", "orcm", "eqv", "sll", "srl", "sra", "rol", "ror",
    "min", "max", "minn", "maxn", "ixadd1", "ixadd2", "ixadd3"] s3 [] ++
  rows 0x08000014 1 ["clz", "ctz", "popc", "byterev"] s2 [] ++
  row "mov" 0x08000003 s2 [] ++ row "neg" 0x08000001 [.reg .s 21, .reg .s 11] [] ++ row "not" 0x08000007 s2 [] ++
  row "addi" 0x0C000000 [.reg .s 21, .reg .s 16, .imm 0 16 true] [] ++
  rows 0x10000000 0x8000000 ["andi", "xori"] [.reg .s 21, .reg .s 16, .imm 0 16 false] [] ++
  row "ori" 0x14000000 [.reg .s 21, .reg .s 16, .low] [] ++
  row "li" 0x0C000000 [.reg .s 21, .imm 0 16 true] [] ++ row "nop" 0x0C000000 [] [] ++
  row "ldhi" 0x24000000 [.reg .s 21, .high] [] ++ row "addpc" 0x28000000 [.reg .s 21, .label 21] [] ++
  rows 0x1C000000 1 ["slli", "srli", "srai", "rori"] [.reg .s 21, .reg .s 16, .imm 10 6 false] [] ++
  rows 0x1C000004 1 ["bext", "bexts", "bins", "bclrf", "bsetf"]
    [.reg .s 21, .reg .s 16, .imm 10 6 false, .imm 4 6 false] [] ++
  rows 0x1C000085 0x80 ["sextb", "sexth"] s2 [] ++ row "sextw" 0x1C000205 s2 [] ++ row "zextw" 0x1C000204 s2 [] ++
  rows 0x20000000 1 ["mullo", "mulhnn", "mulhii", "mulhin", "quon", "quoi", "remn", "remi"] s3 []

/-- R166-R175. -/
def controlRows : List Row :=
  rows 0x2C000000 1 ["cmpeq", "cmpne", "cmplt", "cmpge", "cmpltu", "cmpgeu"]
    [.reg .p 23, .reg .s 16, .reg .s 11, combine] [] ++
  (["fcmpeq", "fcmplt", "fcmple", "fcmpun"].zipIdx.flatMap fun e =>
    lettered e.1 (0x2C000010 + e.2) 2 [.reg .p 23, .reg .s 16, .reg .s 11, combine]) ++
  rows 0x30000000 0x800 ["cmpeqi", "cmpnei", "cmplti", "cmpgei", "cmpltui", "cmpgeui"]
    [.reg .p 23, .reg .s 16, .imm 0 11 true, combine] [] ++
  row "plog" 0x34000000 (p3 ++ [.imm 0 4 false, combine]) [] ++
  row "pand" 0x34000008 p3 [] ++ row "por" 0x3400000E p3 [] ++ row "pxor" 0x34000006 p3 [] ++
  row "pandn" 0x34000004 p3 [] ++ row "pmov" 0x3400000C [.reg .p 23, .reg .p 16] [] ++
  row "pnot" 0x34000003 [.reg .p 23, .reg .p 16] [] ++ row "pset" 0x3400000F [.reg .p 23] [] ++
  row "pclr" 0x34000000 [.reg .p 23] [] ++
  row "sel" 0x38000000 (s3 ++ [.reg .p 6]) [] ++
  row "br" 0x44000000 [.branch, .label 22] [] ++ row "j" 0x44000000 [.label 22] [] ++
  row "call" 0x48000000 [.reg .s 21, .label 21] [] ++ row "call" 0x4BE00000 [.label 21] [] ++
  row "callr" 0x4C000000 s2 [] ++ row "jmp" 0x4C000000 [.reg .s 16] [] ++ row "ret" 0x4C1F0000 [] [] ++
  row "rdcsr" 0x50000000 [.reg .s 21, .csr] [] ++ row "xchcsr" 0x50000009 [.reg .s 21, .csr, .reg .s 16] [] ++
  row "wrcsr" 0x50000008 [.csr, .reg .s 16] [] ++ rows 0x5000000A 1 ["setcsr", "clrcsr"] [.csr, .reg .s 16] []

/-- R170, R171. -/
def floatRows : List Row :=
  (["fadd", "fsub", "fmul", "fdiv"].zipIdx.flatMap fun e => lettered e.1 (0x3C000000 + e.2) 6 (s3 ++ [rounds 8])) ++
  lettered "fsqrt" 0x3C000004 6 (s2 ++ [rounds 8]) ++ lettered "fmin" 0x3C000005 6 s3 ++
  lettered "fmax" 0x3C000006 6 s3 ++ lettered "fneg" 0x3C000007 6 s2 ++ lettered "fabs" 0x3C000008 6 s2 ++
  lettered "fcpys" 0x3C000009 6 s3 ++ lettered "fkind" 0x3C00000A 6 s2 ++
  row "fcvt" 0x3C00000B (s2 ++ [.word 6 floats, .word 11 floats, rounds 8]) [] ++
  row "fcvti" 0x3C00000C (s2 ++ [.word 11 integers, .word 6 floats, rounds 8]) [] ++
  row "fcvtf" 0x3C00000D (s2 ++ [.word 6 floats, .word 11 integers, rounds 8]) [] ++
  lettered "fmadd" 0x40000000 3 (s3 ++ [.reg .s 6, rounds 0]) ++
  lettered "fnmadd" 0x40000020 3 (s3 ++ [.reg .s 6, rounds 0])

/-- R185-R197. -/
def vectorRows : List Row :=
  row "setvl" 0x58000000 (s2 ++ [.word 11 tagNames]) [] ++ row "vcfg" 0x58000001 [.reg .v 21, .word 16 tagNames] [] ++
  row "vkill" 0x58000002 [.reg .v 16, .reg .v 11] [] ++ row "vkill" 0x58000002 [.both] [] ++
  rows 0x5C000000 1 ["vadd", "vsub", "vrsub", "vmul"] (v3 ++ [rounds 6]) kindAt ++
  rows 0x5C000004 1 ["vmulh", "vmin", "vmax"] v3 kindAt ++
  rows 0x5C000007 1 ["vadds", "vsubs"] (v3 ++ [rounds 6]) kindAt ++
  rows 0x5C000009 1 ["vand", "vor", "vxor", "vsll", "vsrl", "vsra"] v3 kindAt ++
  row "vmov" 0x5C00000F v2 [{ codes := [("vv", 0)], lo := 0, needed := false }] ++
  row "vmov" 0x5C00020F [.reg .v 21, .reg .s 11, .word 16 tagNames] [{ codes := [("vs", 0)], lo := 0, needed := false }] ++
  row "vmov" 0x5C00040F [.reg .v 21, .imm 11 5 true, .word 16 tagNames]
    [{ codes := [("vi", 0)], lo := 0, needed := false }] ++
  rows 0x60000000 1 ["vfadd", "vfsub", "vfmul", "vfdiv"] (v3 ++ [rounds 6]) kindAt ++
  row "vfsqrt" 0x60000004 (v2 ++ [rounds 6]) [] ++ rows 0x60000005 1 ["vfmin", "vfmax"] v3 kindAt ++
  rows 0x60000007 1 ["vfneg", "vfabs"] v2 [] ++ row "vfcpys" 0x60000009 v3 kindAt ++ row "vfkind" 0x6000000A v2 [] ++
  rows 0x64000000 1 ["vmadd", "vmsub", "vnmadd"] (v2 ++ [.reg .v 11, .source3]) kindAt ++
  rows 0x68000000 1 ["vcmpeq", "vcmpne", "vcmplt", "vcmple", "vcmpgt", "vcmpge", "vcmpun"]
    [.reg .m 21, .reg .v 16, .source] kindAt ++
  rows 0x6C000000 0x20 ["vcvt", "vcvts"] (v2 ++ [.word 0 tagNames, rounds 6]) [] ++
  row "vquant" 0x6C000030 (v2 ++ [.word 0 blocks, rounds 6]) [] ++
  rows 0x70000000 1 ["vrcp", "vrsqrt", "vexp2"] v2 []

/-- R207-R218. -/
def permuteRows : List Row :=
  row "vidx" 0x7400001C [.reg .v 21, .imm 13 8 false, .imm 5 8 true, .word 0 indexTags] [] ++
  rows 0x74000000 1 ["vgather", "vslideup", "vslidedn"] v3 kindAt ++
  rows 0x74000203 1 ["vslide1up", "vslide1dn"] (v2 ++ [.reg .s 11]) [] ++
  rows 0x74000005 1 ["vcompress", "vexpand"] (v2 ++ [.reg .m 11]) [] ++
  row "vredsum" 0x78000200 [.reg .s 21, .reg .v 16, .reg .s 11, rounds 6] [] ++
  rows 0x78000201 1 ["vredmax", "vredmin", "vredand", "vredor"] [.reg .s 21, .reg .v 16, .reg .s 11] [] ++
  rows 0x78000208 4 ["vscansum", "vxscansum"] (v2 ++ [.reg .s 11, rounds 6]) [] ++
  rows 0x78000209 1 ["vscanmax", "vscanmin"] (v2 ++ [.reg .s 11]) [] ++
  rows 0x7800020D 1 ["vxscanmax", "vxscanmin"] (v2 ++ [.reg .s 11]) [] ++
  row "vconf" 0x78000010 v2 [] ++ rows 0x78000018 1 ["mpopc", "mfirst"] [.reg .s 21, .reg .m 16] [] ++
  row "mlog" 0x7C000000 (m3 ++ [.imm 0 4 false]) [] ++ rows 0x7C000010 0x10 ["msbf", "msif", "msof"] m2 [] ++
  row "mand" 0x7C000008 m3 [] ++ row "mor" 0x7C00000E m3 [] ++ row "mxor" 0x7C000006 m3 [] ++
  row "mandn" 0x7C000004 m3 [] ++ row "mmov" 0x7C00000C m2 [] ++ row "mnot" 0x7C000003 m2 [] ++
  row "mset" 0x7C00000F [.reg .m 21] [] ++ row "mclr" 0x7C000000 [.reg .m 21] []

/-- R228-R239. -/
def matrixRows : List Row :=
  row "tshape" 0x80000000 s2 [] ++ row "trel" 0x80000001 [] [] ++ row "tzero" 0x80000002 [.reg .a 21] [] ++
  row "tldb" 0x80000003 [.reg .s 16, .reg .s 11, .word 4 formats, .word 7 (codes 0 ["kn", "nk"])] (spaceAt 8) ++
  row "tmma" 0x80000004 [.reg .a 21, .reg .s 16, .reg .s 11, .word 4 formats, .word 7 (codes 0 ["mk", "km"])] [] ++
  row "tdrain" 0x80000005 [.reg .a 21, .reg .s 16, .reg .s 11, .drain] (spaceAt 10) ++
  row "taccld" 0x80000006 [.reg .a 21, .reg .s 16, .reg .s 11] (spaceAt 10) ++
  row "trdacc" 0x80000007 [.reg .s 21, .reg .a 16, .reg .s 11] []

/-- R335-R355. -/
def memoryRows : List Row :=
  row "ld" 0x88000000 [.reg .s 21, .mem]
    [{ codes := sizes, lo := 13, needed := true }, { codes := spaces, lo := 11, needed := false }] ++
  row "ld" 0x88007800 [.reg .s 21, .bare, .word 5 groupOps, .word 0 tagNames] [fixed "b64", fixed "grp"] ++
  row "st" 0x8C000000 [.reg .s 21, .mem]
    [{ codes := sizes.take 4, lo := 13, needed := true }, { codes := spaces, lo := 11, needed := false }] ++
  row "ld" 0x90000000 [.reg .s 21, .base] (sqSuffixes true) ++
  row "ld" 0x90000001 [.reg .s 21, .base] (fixed "fe" :: sqSuffixes false) ++
  row "ld" 0x90000002 [.reg .s 21, .base] (fixed "fc" :: sqSuffixes false) ++
  row "st" 0x90000008 [.reg .s 21, .base] (sqSuffixes true) ++
  row "st" 0x90000009 [.reg .s 21, .base] (fixed "fe" :: sqSuffixes false) ++
  rows 0x94000000 1 ["atadd", "atand", "ator", "atxor", "atmin", "atmax", "atminn", "atmaxn", "atxch", "atcmpx"]
    [.reg .s 21, .bare, .reg .s 11] (sqSuffixes false) ++
  rows 0x98000000 1 ["vld8", "vld16", "vld32", "vld64", "vld4", "vldmx4", "vldmx8", "vldmxi8"]
    [.reg .v 21, .bare, .tail true] vmSuffixes ++
  rows 0x9C000000 1 ["vst8", "vst16", "vst32", "vst64", "vst4", "vstmx4", "vstmx8", "vstmxi8"]
    [.reg .v 21, .bare, .tail false] vmSuffixes ++
  rows 0xA0000000 1 ["vatadd", "vatand", "vator", "vatxor", "vatmin", "vatmax", "vatxch"]
    [.reg .v 21, .bare, .tail false] vmSuffixes ++
  row "fence" 0xA4000000 [] [{ codes := semantics, lo := 6, needed := true }, { codes := scopes, lo := 8, needed := true }] ++
  row "waita" 0xA4000001 [.reg .s 21, .bare, .reg .s 11]
    ({ codes := semantics.take 1, lo := 6, needed := false } :: (sqSuffixes false).eraseIdx 2) ++
  rows 0xA4000002 1 ["rwb", "rinv"] [.reg .s 16, .reg .s 11] (spaceAt 4) ++
  row "stmap" 0xA4000004 s3 [] ++ row "stunmap" 0xA4000005 [.reg .s 21, .reg .s 11] [] ++
  row "pf" 0xF0010000 [.mem] [fixed "l2r"] ++ row "pf" 0xF0020000 [.mem] [fixed "l2w"] ++
  row "pf" 0xF0030000 [.mem] [fixed "l1"] ++ row "pri" 0xF0100000 [.imm 16 4 false] []

/-- R268, R377, R389, R395, R419, R439, R454. -/
def systemRows : List Row :=
  row "strm" 0xA8000000 [.counter 4, .bare] (spaceAt 3) ++
  row "strmv" 0xA8000001 [.reg .v 21, .bare, .counter 4, .fields, .index] (spaceAt 3) ++
  row "strmw" 0xA8000002 [.counter 4, .reg .s 11] [] ++ row "uiret" 0xA8000003 [] [] ++
  rows 0xAC000000 2 ["send", "recv", "recvt"] [.reg .s 21, .bare, .channel] (spaceAt 0) ++
  row "tokw" 0xAC000006 [.bare, .reg .s 11] (spaceAt 0) ++
  row "launch" 0xB0000000 [.reg .s 21, .bare] (spaceAt 10) ++ row "end" 0xB0000001 [] [] ++
  row "bar" 0xB0000002 [.imm 4 2 false] [] ++ row "dleave" 0xB0000003 [.imm 4 4 false] [] ++
  row "coll" 0xB0000004 [.counter 4, .bare] (spaceAt 10) ++
  rows 0xB4000000 1 ["tret", "vresume"] [] [] ++ row "migrate" 0xB4000002 [.reg .s 16] [] ++
  row "brk" 0xB4000003 [] [] ++ row "sysc" 0xB4000004 [.reg .s 16] [] ++
  rows 0xB4000005 1 ["ctxsave", "ctxload"] s3 [] ++ rows 0xB8000000 1 ["tblw", "tblr", "tinv"] s3 [] ++
  row "agrd" 0xBC000000 s2 [] ++ rows 0xBC000001 1 ["agrdx", "mgnreq"] s3 [] ++ row "ctrdx" 0xBC000010 s3 [] ++
  row "ctzero" 0xBC000011 [.reg .s 21, .reg .s 11] []

def allRows : List Row :=
  integerRows ++ controlRows ++ floatRows ++ vectorRows ++ permuteRows ++ matrixRows ++ memoryRows ++ systemRows

/-! ### From a statement to its word -/

/-- Where a statement stands: the symbols, its line and its offset. -/
structure Place where
  syms : Symbols
  line : Nat
  dot : BitVec 64

/-- What operands add to a word, and the half of a .data address that the placer writes (R104): the high one or
not, and the offset in the section. -/
structure Part where
  bits : Nat
  half : Option (Bool × BitVec 64)

def Part.of (n : Nat) : Part := { bits := n, half := none }

def Place.value (p : Place) (x : Expr) : Result Val := p.syms.eval p.syms.evalSteps p.line p.dot x

/-- R96: a number as a field of a width. -/
def field (lo width : Nat) (signed : Bool) (w : BitVec 64) : Result Nat :=
  let lower : Int := if signed then -(2 ^ (width - 1)) else 0
  let upper : Int := if signed then 2 ^ (width - 1) - 1 else 2 ^ width - 1
  if lower ≤ w.toInt ∧ w.toInt ≤ upper then .ok (w.toNat % 2 ^ width * 2 ^ lo) else .error .outOfRange

/-- R96: a scaled operand as a signed field. -/
def scaled (scale width : Nat) (w : BitVec 64) : Result Nat :=
  if w.toInt % scale ≠ 0 then .error .notMultiple else field 0 width true (BitVec.ofInt 64 (w.toInt / scale))

/-- An operand in one of some words. -/
def wordIn (t : List (String × Nat)) (x : Operand) : Option Nat :=
  match x with
  | .expr (.sym w) => named t w
  | _ => none

/-- scJ as an operand. -/
def counterOf (x : Operand) : Option Nat := wordIn (codes 0 ["sc0", "sc1", "sc2", "sc3", "sc4", "sc5", "sc6", "sc7"]) x

/-- R96: the label of a PC-relative operand, which a symbol of .equ may name (DESIGN CHOICE, log entry 37). -/
def Place.target (p : Place) (width : Nat) (x : Operand) : Result Nat :=
  match x with
  | .expr x => match p.value x, x with
    | .ok (.code w), .sym _ | .ok (.code w), .near _ _ => scaled 4 width (w - p.dot)
    | .error e, _ => .error e
    | _, _ => .error .notLabel
  | _ => .error .badOperand

/-- R97, R99: what one slot takes from the operands. `scale` is the access size, `width` that of a displacement's
field. -/
def Slot.fill (k : Slot) (p : Place) (scale width : Nat) (l : List Operand) : Result (Part × List Operand) :=
  let lone (r : Result Nat) (l : List Operand) : Result (Part × List Operand) := r.map fun n => (Part.of n, l)
  let number (x : Expr) : Result (BitVec 64) := do (← p.value x).number
  match k, l with
  | .option lo t _, x :: r => match wordIn t x with
    | some n => .ok (Part.of (n * 2 ^ lo), r)
    | none => .error .badOperand
  | .option lo _ d, [] => .ok (Part.of (d * 2 ^ lo), [])
  | .zero, [] | .tail _, [] | .index, [] => .ok (Part.of 0, [])
  | _, [] => .error .badOperand
  | .reg f lo, .reg g n :: r => if f = g then .ok (Part.of (n * 2 ^ lo), r) else .error .badOperand
  | .mem, .mem d a :: r => do
    let off ← match d with
      | some x => scaled scale width (← number x)
      | none => pure 0
    -- the base stands above the field of the displacement
    return (Part.of (off + a * 2 ^ (if width = 16 then 21 else 16)), r)
  | .base, .mem d a :: r => do
    let off ← match d with
      | some x => number x
      | none => pure 0
    if off = 0 then return (Part.of (a * 2 ^ 16), r) else throw .outOfRange
  | .bare, .mem none a :: r => .ok (Part.of (a * 2 ^ 16), r)
  | .imm lo width signed, .expr x :: r => do lone (field lo width signed (← number x)) r
  | .high, .expr x :: r => do
    match ← p.value x with
    | .dataHi w => return ({ bits := 0, half := some (true, w) }, r)
    | v => lone (field 0 21 true (← v.number)) r
  | .low, .expr x :: r => do
    match ← p.value x with
    | .dataLo w => return ({ bits := 0, half := some (false, w) }, r)
    | v => lone (field 0 16 false (← v.number)) r
  | .label width, x :: r => lone (p.target width x) r
  | .branch, .reg .p n :: r => .ok (Part.of (n * 2 ^ 23), r)
  | .branch, .inv .p n :: r => .ok (Part.of (n * 2 ^ 23 + 2 ^ 22), r)
  | .latch, .reg .p n :: r => .ok (Part.of (n * 2 ^ 16), r)
  | .latch, .inv .p n :: r => .ok (Part.of (n * 2 ^ 16 + 2 ^ 15), r)
  | .latch, .reg .m n :: r => .ok (Part.of (2 ^ 19 + n * 2 ^ 16), r)
  | .latch, .inv .m n :: r => .ok (Part.of (2 ^ 19 + n * 2 ^ 16 + 2 ^ 15), r)
  | .second, .reg .s n :: r | .second, .reg .v n :: r => .ok (Part.of (n * 2 ^ 21 + 2 ^ 20), r)
  | .zero, x :: r => if wordIn [("z", 0)] x = some 0 then .ok (Part.of (2 ^ 14), r) else .error .badOperand
  | .word lo t, x :: r => match wordIn t x with
    | some n => .ok (Part.of (n * 2 ^ lo), r)
    | none => .error .badOperand
  | .csr, .expr x :: r => match wordIn (csrNames ++ otherCsrNames) (.expr x) with
    | some n => .ok (Part.of (n * 2 ^ 4), r)
    | none => do lone (field 4 12 false (← number x)) r
  | .channel, .expr x :: r => do
    let n ← field 0 12 false (← number x)
    return (Part.of (n / 128 * 2 ^ 11 + n % 128 * 2 ^ 4), r)
  | .source, .reg .v n :: r => .ok (Part.of (n * 2 ^ 11), r)
  | .source, .reg .s n :: r => .ok (Part.of (n * 2 ^ 11 + 2 ^ 9), r)
  | .source, .expr x :: r => do lone ((field 11 5 true (← number x)).map (· + 2 * 2 ^ 9)) r
  | .source3, .reg .v n :: r => .ok (Part.of (n * 2 ^ 6), r)
  | .source3, .reg .s n :: r => .ok (Part.of (n * 2 ^ 6 + 2 ^ 4), r)
  | .tail _, .reg .s n :: r => .ok (Part.of (n * 2 ^ 11 + 2 ^ 9), r)
  | .tail _, .reg .v n :: r => .ok (Part.of (n * 2 ^ 11 + 2 * 2 ^ 9), r)
  | .tail true, x :: r => match wordIn groupOps x with
    | some n => .ok (Part.of (n * 2 ^ 11), r)
    | none => .error .badOperand
  | .counter lo, x :: r => match counterOf x with
    | some n => .ok (Part.of (n * 2 ^ lo), r)
    | none => .error .badOperand
  | .fields, .expr x :: r => do lone (field 7 3 false ((← number x) - 1)) r
  | .index, .reg .v n :: r => .ok (Part.of (n * 2 ^ 11 + 2 ^ 10), r)
  | .both, .reg .v n :: r => .ok (Part.of (n * 2 ^ 16 + n * 2 ^ 11), r)
  | .drain, x :: r => match wordIn drains x with
    | some t =>
      match r with
      | [] => .ok (Part.of (t * 2 ^ 4 + (if t = 0 then 0 else 7) * 2 ^ 7), [])
      | y :: r => match wordIn roundings y with
        | some n => .ok (Part.of (t * 2 ^ 4 + n * 2 ^ 7), r)
        | none => .error .badOperand
    | none => .error .badOperand
  | _, _ => .error .badOperand

/-- The slots in their order; no operand is left over. -/
def fillAll (p : Place) (scale width : Nat) : List Slot → List Operand → Result Part
  | [], [] => .ok (Part.of 0)
  | [], _ :: _ => .error .badOperand
  | k :: ks, l => do
    let (a, l) ← k.fill p scale width l
    let b ← fillAll p scale width ks l
    return { bits := a.bits + b.bits, half := a.half.orElse fun _ => b.half }

/-- The code that a statement's suffixes give a kind: none of the kind, or one. -/
def Sfx.code (k : Sfx) (l : List (List Char)) : Result (Option Nat) :=
  match l.filterMap (named k.codes) with
  | [] => if k.needed then .error .missingSuffix else .ok none
  | [n] => .ok (some n)
  | _ => .error .badSuffix

/-- R98: the kinds of suffixes in the order of the table. -/
def suffixKinds : List (List (String × Nat)) :=
  [sizes, codes 0 ["glob", "loc", "stash", "grp"], kinds, [("o", 1)], [("fe", 1), ("fc", 2)], semantics, scopes]

/-- R98: the suffixes of a statement as `oba` prints them: in the order of the table, any other behind them. -/
def printSuffixes (l : List (List Char)) : List Char :=
  let known := suffixKinds.flatMap fun k => l.filter fun w => (named k w).isSome
  (known ++ l.filter fun w => !known.contains w).flatMap ('.' :: ·)

/-- The bits of the suffixes: each belongs to one kind of the row (R98). -/
def suffixBits (ks : List Sfx) (l : List (List Char)) : Result Nat := do
  let found ← ks.mapM fun k => (k.code l).map fun c => (k, c)
  if (found.filter fun e => e.2.isSome).length = l.length then
    return (found.map fun e => e.2.getD 0 * 2 ^ e.1.lo).sum
  else throw .badSuffix

/-- R99: a semantics suffix and a scope suffix stand together. -/
def scopesPaired (l : List (List Char)) : Bool :=
  (l.filterMap (named semantics)).isEmpty == (l.filterMap (named scopes)).isEmpty

/-- R99: an operand kind that is written is that of the last source. -/
def kindAgrees (r : Row) (l : List (List Char)) (w : Nat) : Bool :=
  match l.filterMap (named kinds) with
  | [k] => if r.sfx == kindAt then k == (if r.slots.contains .source3 then bits w 4 2 else bits w 9 2) else true
  | _ => true

/-- A statement read by one row: its word, its instruction and its half of a .data address. -/
def Row.assemble (r : Row) (p : Place) (sfx : List (List Char)) (args : List Operand) :
    Result (BitVec 32 × Instr × Option (Bool × BitVec 64)) := do
  let own : List Sfx := if r.sfx == kindAt then [{ codes := kinds.map fun e => (e.1, 0), lo := 0, needed := false }] else r.sfx
  let q ← suffixBits own sfx
  if scopesPaired sfx = false then throw .missingSuffix
  let size := (sfx.filterMap (named sizes)).head?.getD 0
  let a ← fillAll p (if r.name == "pf" then 1 else [1, 2, 4, 8, 1, 2, 4].getD size 1) (if r.name == "pf" then 16 else 11)
    r.slots args
  let w := r.base + q + a.bits
  if kindAgrees r sfx w = false then throw .badSuffix
  match decode (BitVec.ofNat 32 w) with
  | .ok i => return (BitVec.ofNat 32 w, i, a.half)
  | .error _ => throw .unassigned

/-- The first row of a mnemonic that reads the statement, or why the last one does not. -/
def assemble (p : Place) (head : List Char) (sfx : List (List Char)) (args : List Operand) :
    Result (BitVec 32 × Instr × Option (Bool × BitVec 64)) :=
  (allRows.filter fun r => r.name == String.ofList head).foldl (init := .error .noMnemonic) fun o r =>
    match o with
    | .ok x => .ok x
    | .error _ => r.assemble p sfx args

end Sys2Proof.Asm
end

