-- ==== Sys2Proof/Machine/Image.lean ====
section
/-!
DEFINITION. Images: sections, directives, kernels with their placements, the checks that `oba` makes of code
(R82, R100-R104, R107, R257), and the calling convention (R105, R106).
-/

namespace Sys2Proof.Asm

/-! ### Layout: the first pass over the lines (R92, R100, R101) -/

/-- Where the next statement goes, and the symbols defined so far. No section is open before a section
directive (log entry 37). -/
structure Layout where
  inData : Option Bool
  text : Nat
  data : Nat
  syms : Symbols
  kernels : List (List Char)
  deriving DecidableEq, Repr

def Layout.start : Layout := { inData := none, text := 0, data := 0, syms := { names := [], near := [] }, kernels := [] }

/-- The offset within the current section; 0 where none is open (DESIGN CHOICE, log entry 37). -/
def Layout.offset (y : Layout) : Nat := if y.inData = some true then y.data else y.text

def Layout.place (y : Layout) (syms : Symbols) (line : Nat) : Place :=
  { syms := syms, line := line, dot := BitVec.ofNat 64 y.offset }

/-- R92: a new symbol. -/
def Layout.define (y : Layout) (w : List Char) (m : Meaning) : Result Layout :=
  if y.syms.names.any (·.1 == w) || y.kernels.contains w then .error .badSymbol
  else .ok { y with syms := { y.syms with names := y.syms.names ++ [(w, m)] } }

/-- A symbol as an operand. -/
def symbolArg (x : Operand) : Result (List Char) :=
  match x with
  | .expr (.sym w) => symbolOf w
  | .reg _ _ => .error .reservedWord
  | _ => .error .badOperand

/-- A number as an operand, from 0 up. -/
def Place.size (p : Place) (x : Operand) : Result Nat :=
  match x with
  | .expr x => do
    let w ← (← p.value x).number
    if 0 ≤ w.toInt then return w.toNat else throw .outOfRange
  | _ => .error .badOperand

/-- R100: the bytes of a data directive's values. -/
def dataBytes (head : List Char) : Option Nat :=
  named [("byte", 1), ("half", 2), ("word", 4), ("dword", 8)] head

/-- R100: whether a number is an alignment. -/
def alignment (n : Nat) : Bool := (List.range 15).any fun k => n == 2 ^ (k + 2)

/-- The bytes up to the next multiple. -/
def padding (n off : Nat) : Nat := (n - off % n) % n

/-- The label of a line, at the offset where its statement begins. -/
def Layout.label (y : Layout) (line : Nat) (l : Option Label) : Result Layout :=
  let here : Option Val := y.inData.map fun d =>
    if d then .data (BitVec.ofNat 64 y.data) else .code (BitVec.ofNat 64 y.text)
  match l, here with
  | none, _ => .ok y
  | some _, none => .error .badLine
  | some (.name w), some v => y.define w (.val v)
  | some (.number n), some v => .ok { y with syms := { y.syms with near := y.syms.near ++ [(n, line, v)] } }

/-- What a statement adds to the layout. The operands of .align and .space and the number of .channel use symbols of earlier
lines (DESIGN CHOICE, log entry 37). -/
def Layout.advance (y : Layout) (line : Nat) (x : Statement) : Result Layout :=
  let p := y.place y.syms line
  let grow (n : Nat) : Layout := if y.inData = some true then { y with data := y.data + n } else { y with text := y.text + n }
  match x with
  | .op _ _ _ => if y.inData = some false then .ok (grow 4) else .error .badDirective
  | .directive d args =>
    match String.ofList d, args with
    | "text", [] => .ok { y with inData := some false }
    | "data", [] => .ok { y with inData := some true }
    | "align", [a] => do
      let n ← p.size a
      if alignment n && y.inData.isSome then return grow (padding n y.offset) else throw .badDirective
    | "space", [a] => do
      let n ← p.size a
      if y.inData = some true then return grow n else throw .badDirective
    | "equ", [a, .expr x] => do y.define (← symbolArg a) (.expr x line p.dot)
    | "channel", [a, n, _] => do
      let n ← p.size n
      if n < 4096 then y.define (← symbolArg a) (.val (.abs (BitVec.ofNat 64 n))) else throw .badDirective
    | "kernel", [a] => do
      let w ← symbolArg a
      if y.kernels.contains w || y.syms.names.any (·.1 == w) then throw .badSymbol
      return { y with kernels := y.kernels ++ [w] }
    | "endk", [] => .ok y
    | "arena", [_] => .ok y
    | "placement", [_, _, _, _, _] => .ok y
    | "domain", _ :: _ => .ok y
    | _, args => match dataBytes d with
      | some n => if y.inData = some true ∧ args ≠ [] then .ok (grow (n * args.length)) else .error .badDirective
      | none => .error .badDirective

/-- The first pass: each line with the layout before its statement, and the layout at the end. -/
def layLines : Layout → Nat → List Line → Result (List (Layout × Nat × Line) × Layout)
  | y, _, [] => .ok ([], y)
  | y, k, l :: r => do
    let y ← y.label k l.label
    let z ← match l.stmt with
      | some x => y.advance k x
      | none => pure y
    let (m, last) ← layLines z (k + 1) r
    return ((y, k, l) :: m, last)

/-! ### Images: the second pass (R100-R104) -/

/-- R103: placement n of a kernel; the heat map is an offset in the data section. -/
structure Placement where
  n : Nat
  lcore0 : Nat
  tpc : Nat
  harts : Nat
  heat : Nat
  deriving DecidableEq, Repr

structure Kernel where
  name : List Char
  entry : Option Nat
  placements : List Placement
  domain : Option (List Nat)
  deriving DecidableEq, Repr

/-- One word of code: its instruction, the half of a .data address that it holds, whether a label stands before
it, and the file of a PFX's second destination. -/
structure Item where
  word : BitVec 32
  instr : Instr
  half : Option (Bool × BitVec 64)
  labelled : Bool
  second : Option File
  deriving DecidableEq, Repr

/-- R104: a portable image. -/
structure Image where
  code : List Item
  data : List (BitVec 8)
  kernels : List Kernel
  isOpen : Bool
  channels : List (List Char × Nat × Nat)
  arena : Option Nat
  deriving DecidableEq, Repr

def Image.empty : Image := { code := [], data := [], kernels := [], isOpen := false, channels := [], arena := none }

/-- The hint word that pads code (R101). -/
def padItem : Item := { word := 0xF0000000, instr := .hint 0 0 0 0, half := none, labelled := false, second := none }

/-- R100: a value in some bytes, the least significant first. -/
def valueBytes (n : Nat) (w : BitVec 64) : Result (List (BitVec 8)) :=
  if w.toNat < 2 ^ (8 * n) ∨ (w.toInt < 0 ∧ -(2 ^ (8 * n - 1) : Int) ≤ w.toInt) then
    .ok ((List.range n).map fun k => BitVec.ofNat 8 (w.toNat / 2 ^ (8 * k)))
  else .error .outOfRange

/-- A change of the open kernel. -/
def Image.onKernel (x : Image) (f : Kernel → Kernel) : Image :=
  match x.kernels.reverse with
  | k :: r => { x with kernels := (f k :: r).reverse }
  | [] => x

/-- R103: the offset of a label of the data section that an expression names. -/
def Place.dataLabel (p : Place) (e : Expr) : Result Nat := do
  match e, ← p.value e with
  | .sym w, .data d => match p.syms.names.find? (·.1 == w) with
    | some (_, .val _) => return d.toNat
    | _ => throw .badDirective
  | .near _ _, .data d => return d.toNat
  | _, _ => throw .badDirective

/-- R100, R103: the operands of .placement; the heat map is named by its label. -/
def placementOf (p : Place) (l : List Operand) : Result Placement :=
  match l with
  | [n, c, t, h, .expr e] => do
    let n ← p.size n
    let c ← p.size c
    let t ← p.size t
    let h ← p.size h
    let w ← p.dataLabel e
    if n < 16 ∧ c < 16384 ∧ 1 ≤ t ∧ t ≤ 56 ∧ [0, 1, 2, 4, 8].contains h then
      return { n := n, lcore0 := c, tpc := t, harts := h, heat := w }
    else throw .badDirective
  | _ => .error .badDirective

/-- What a statement adds to the image. DESIGN CHOICE (log entry 37): the words of .align are no first instruction of a
kernel, a kernel without an instruction is an error at .endk, a second .domain of a kernel replaces the first, and two
.placement lines of a kernel may have one n. -/
def Image.emit (x : Image) (p : Place) (y : Layout) (labelled : Bool) (s : Statement) : Result Image :=
  match s with
  | .op head sfx args => do
    let (w, i, h) ← assemble p head sfx args
    let file : Option File := match head, args with
      | ['p', 'f', 'x'], _ :: .reg f _ :: _ => some f
      | _, _ => none
    let x := if x.isOpen then x.onKernel fun k => { k with entry := k.entry.orElse fun _ => some y.text } else x
    return { x with code := x.code ++ [{ word := w, instr := i, half := h, labelled := labelled, second := file }] }
  | .directive d args =>
    match String.ofList d, args with
    | "align", [a] => do
      let n ← p.size a
      let pad := padding n y.offset
      if y.inData = some true then return { x with data := x.data ++ List.replicate pad 0 }
      else return { x with code := x.code ++ List.replicate (pad / 4) { padItem with labelled := labelled } }
    | "space", [a] => do return { x with data := x.data ++ List.replicate (← p.size a) 0 }
    | "arena", [a] => do
      let n ← p.size a
      if x.arena = none ∧ n % 0x10000 = 0 then return { x with arena := some n } else throw .badDirective
    | "channel", [a, n, .expr (.sym c)] => do
      match named (codes 0 ["ordered", "bulk", "control"]) c with
      | some k => return { x with channels := x.channels ++ [(← symbolArg a, ← p.size n, k)] }
      | none => throw .badDirective
    | "kernel", [a] => do
      if x.isOpen then throw .badKernel
      if y.inData ≠ some false then throw .badDirective
      return { x with isOpen := true
                      kernels := x.kernels ++ [{ name := ← symbolArg a, entry := none, placements := [], domain := none }] }
    | "endk", [] =>
      match x.isOpen, x.kernels.getLast? with
      | true, some k =>
        if k.entry.isSome ∧ 1 ≤ k.placements.length ∧ k.placements.length ≤ 16 then .ok { x with isOpen := false }
        else .error .badKernel
      | _, _ => .error .badKernel
    | "placement", l => do
      if x.isOpen = false then throw .badDirective
      let q ← placementOf p l
      return x.onKernel fun k => { k with placements := k.placements ++ [q] }
    | "domain", l :: r => do
      let n ← p.size l
      let widths ← r.mapM p.size
      if x.isOpen ∧ n ≤ 4 ∧ widths.length = n ∧ widths.all fun d => decide (1 ≤ d) && decide (d ≤ 65536) then
        return x.onKernel fun k => { k with domain := some widths }
      else throw .badDirective
    | "equ", [_, .expr e] => do
      let _ ← p.value e
      return x
    | "text", _ | "data", _ => .ok x
    | _, args => match dataBytes d with
      | some n => do
        let l ← args.mapM fun a => match a with
          | .expr e => do valueBytes n (← (← p.value e).number)
          | _ => throw .badOperand
        return { x with data := x.data ++ l.flatten }
      | none => .error .badDirective

/-- The second pass; `pending` says whether a label waits for the next word. -/
def emitLines (syms : Symbols) : Bool → List (Layout × Nat × Line) → Image → Result Image
  | _, [], x => .ok x
  | pending, (y, k, l) :: r, x => do
    let labelled := pending || (l.label.isSome && y.inData == some false)
    match l.stmt with
    | none => emitLines syms labelled r x
    | some s =>
      let z ← x.emit (y.place syms k) y labelled s
      emitLines syms (labelled && decide (z.code.length = x.code.length)) r z

/-! ### The checks of code (R82, R107, R257) -/

def major (i : Instr) : Nat := bits (encode i).toNat 26 6

/-- R84: which kinds an instruction accepts: scalar predicate, mask predicate, second destination, with what its
entry narrows (R138, R211, R230). -/
def kindsTaken (i : Instr) : Bool × Bool × Bool :=
  let m := Machine.accepts (major i)
  match i with
  | .vcompress _ _ _ | .vexpand _ _ _ => (m.1, false, m.2.2)
  | .tdrain _ _ _ _ _ _ => (m.1, true, m.2.2)
  | .stSem _ _ _ _ _ _ | .stFe _ _ _ _ _ _ | .vquant _ _ _ _ | .vldmx4 _ _ _ _ _ _ | .vldmx8 _ _ _ _ _ _
  | .vldmxi8 _ _ _ _ _ _ => (m.1, m.2.1, false)
  | _ => if major i = 0x3C ∨ major i = 0x3D then (true, true, true) else m

/-- The file of an instruction's destination, where it accepts a second one. -/
def destFile (i : Instr) : Option File :=
  let k := major i
  match i with
  | .vredsum _ _ _ _ | .vredmax _ _ _ | .vredmin _ _ _ | .vredand _ _ _ | .vredor _ _ _ | .mpopc _ _ | .mfirst _ _ =>
    some .s
  | _ => if 0x17 ≤ k ∧ k ≤ 0x1E ∨ k = 0x26 then some .v else if k = 0x3C ∨ k = 0x3D then none else some .s

/-- R82: whether a successor takes a PFX. -/
def pairs (a : Item) (b : Option Item) : Bool :=
  match a.instr with
  | .pfx _ e k _ _ _ => match b with
    | none => false
    | some b =>
      let (s, m, d) := kindsTaken b.instr
      (if k = 1 then m else s) && (if e = 1 then d && (match a.second, destFile b.instr with
        | some f, some g => f == g
        | _, _ => true) else true)
  | _ => true

def pairsHold : List Item → Bool
  | [] => true
  | a :: r => pairs a r.head? && pairsHold r

/-- Whether control leaves the straight line. -/
def transfers (i : Instr) : Bool := decide (0x11 ≤ major i) && decide (major i ≤ 0x13) || i == .endT || i == .tret ||
  i == .vresume || i == .uiret

/-- The straight-line blocks of code. -/
def blocks' : List Item → List (List Item)
  | [] => [[]]
  | a :: r =>
    match blocks' r with
    | b :: l =>
      if transfers a.instr then [a] :: b :: l
      else if (b.head?.map (·.labelled)).getD false then [a] :: b :: l else (a :: b) :: l
    | [] => [[a]]

/-- R85: the vector register that a PFX's successor copies its destination to. -/
def Item.secondVector (a : Item) : List Nat :=
  match a.instr, a.second with
  | .pfx d _ _ _ _ _, some .v => Machine.vr d
  | _, _ => []

/-- R78: the words of majors 0x3C and 0x3D. -/
def isHint (i : Instr) : Bool := decide (major i = 0x3C ∨ major i = 0x3D)

/-- R107: whether every vector register and mask read after a SETVL of a block is written before; `written` is
none before the first SETVL, `second` the second destination of the PFX before, which a hint does not write. VCFG and VKILL write a tag and no
contents, and count for no write (DESIGN CHOICE, log entry 37). -/
def readsHold : Option (List Nat) → List Nat → List Item → Bool
  | _, _, [] => true
  | written, second, a :: r =>
    match a.instr with
    | .setvl _ _ _ => readsHold (some []) [] r
    | i =>
      let use := Machine.vectorUse i
      match written with
      | none => readsHold none a.secondVector r
      | some w => use.1.all w.contains && readsHold (some (w ++ use.2 ++ if isHint i then [] else second)) a.secondVector r

/-- R257: a vector load or TACCLD, or a vector store, atomic or TDRAIN: which of the two, its base, and its .o. -/
def vectorAccess (i : Instr) : Option (Bool × BitVec 5 × BitVec 1) :=
  match i with
  | .vld8 _ a _ _ o _ _ | .vld16 _ a _ _ o _ _ | .vld32 _ a _ _ o _ _ | .vld64 _ a _ _ o _ _ => some (true, a, o)
  | .vld4 _ a _ o _ _ | .vldmx4 _ a _ o _ _ | .vldmx8 _ a _ o _ _ | .vldmxi8 _ a _ o _ _ => some (true, a, o)
  | .taccld _ a _ _ => some (true, a, 0)
  | .vst8 _ a _ _ o _ _ | .vst16 _ a _ _ o _ _ | .vst32 _ a _ _ o _ _ | .vst64 _ a _ _ o _ _ => some (false, a, o)
  | .vst4 _ a o _ _ | .vstmx4 _ a o _ _ | .vstmx8 _ a o _ _ | .vstmxi8 _ a o _ _ => some (false, a, o)
  | .vatadd _ a _ _ o _ _ | .vatand _ a _ _ o _ _ | .vator _ a _ _ o _ _ | .vatxor _ a _ _ o _ _
  | .vatmin _ a _ _ o _ _ | .vatmax _ a _ _ o _ _ | .vatxch _ a _ _ o _ _ => some (false, a, o)
  | .tdrain _ a _ _ _ _ => some (false, a, 0)
  | _ => none

/-- R253: convoy-eligible on some class. -/
def eligible (i : Instr) : Bool :=
  let k := major i
  decide (0x17 ≤ k ∧ k ≤ 0x1C) || decide (0x26 ≤ k ∧ k ≤ 0x28) || (k == 0x20 && (vectorAccess i).isSome)

/-- The scalar register that an instruction writes, s0 where none. -/
def scalarDest (i : Instr) : BitVec 5 :=
  let k := major i
  let none' : Bool := match i with
    | .pfx _ _ _ _ _ _ | .send _ _ _ _ _ | .tzero0 | .tzero1 | .tzero2 | .tzero3 | .tmma _ _ _ _ _ | .tdrain _ _ _ _ _ _
    | .taccld _ _ _ _ | .vcfg _ _ | .stSem _ _ _ _ _ _ | .stFe _ _ _ _ _ _ => true
    | _ => false
  let scalar : Bool := decide (0x02 ≤ k ∧ k ≤ 0x0A) || decide (0x0E ≤ k ∧ k ≤ 0x10) || decide (0x12 ≤ k ∧ k ≤ 0x16) ||
    (k == 0x1E && destFile i == some .s) || k == 0x20 || k == 0x22 || k == 0x24 || k == 0x25 || k == 0x29 ||
    decide (0x2B ≤ k ∧ k ≤ 0x2F)
  if none' || !scalar then 0 else BitVec.ofNat 5 (bits (encode i).toNat 21 5)

/-- R257: whether no store among the next eligible instructions may meet the load of a base. -/
def storesHold (base : BitVec 5) : Nat → List Item → Bool
  | _, [] => true
  | 0, _ => true
  | n + 1, a :: r =>
    let clash : Bool := match vectorAccess a.instr with
      | some (false, b, o) => b == base && o == 0
      | _ => false
    let stop : Bool := major a.instr == 0x29 && (match a.instr with
      | .fence _ _ => true
      | _ => false)
    if clash then false
    else if stop || (scalarDest a.instr == base && base != 0) then true
    else storesHold base (if eligible a.instr then n else n + 1) r

/-- R257: the check of a block. -/
def restartsHold : List Item → Bool
  | [] => true
  | a :: r =>
    (match vectorAccess a.instr with
      | some (true, b, 0) => storesHold b 3 r
      | _ => true) && restartsHold r

/-- R104: whether two words are the pair for one address: `ldhi d, hi(x)` and `ori d, d, lo(x)`. -/
def formPair (a b : Item) : Bool :=
  match a.instr, b.instr, a.half, b.half with
  | .ldhi d _, .ori e f _, some (true, x), some (false, y) => d == e && d == f && x == y
  | _, _, _, _ => false

/-- R104: whether every half of an address stands in such a pair, the LDHI first. -/
def halvesPaired (l : List Item) : Bool :=
  (l.zipIdx).all fun e =>
    match e.1.half with
    | none => true
    | some (true, _) => (l.drop (e.2 + 1)).any (formPair e.1)
    | some (false, _) => (l.take e.2).any (formPair · e.1)

/-- What `oba` makes of the lines of a source text: a portable image, or an error. -/
def assembleLines (src : List (List Char)) : Result Image := do
  let lines ← src.mapM lineOf
  let (placed, last) ← layLines Layout.start 0 lines
  let x ← emitLines last.syms false placed Image.empty
  if x.isOpen then throw .badKernel
  if pairsHold x.code = false then throw .badPair
  if halvesPaired x.code = false then throw .lonePair
  if (blocks' x.code).all (readsHold none []) = false then throw .liveRead
  if (blocks' x.code).all restartsHold = false then throw .restartHazard
  return x

/-- What `oba` makes of a source text. -/
def assembleText (src : List Char) : Result Image := assembleLines (splitLines src)

/-! ### The calling convention (R105, R106) -/

/-- R105: what a callee leaves as it was, its interface apart. -/
def calleeKeeps (t u : Machine.Thread) : Bool :=
  ((List.range 15).all fun k => t.s[k + 16]? == u.s[k + 16]? && t.poison.getLsbD (k + 16) == u.poison.getLsbD (k + 16)) &&
    t.pw.toNat / 16 == u.pw.toNat / 16 &&
    t.vspace == u.vspace && t.vfill == u.vfill

/-- R105: the stack pointer is a multiple of 16. -/
def stackAligned (t : Machine.Thread) : Bool := (t.s[29]?.getD 0).toNat % 16 == 0

end Sys2Proof.Asm
end

