-- ==== Sys2Proof/Machine/Placer.lean ====
section
/-!
DEFINITION. The Buryan placer: which binding of a portable image to a context it accepts, the table words, code and
data that it writes, and its entry in the flash-store directory (R100, R103, R104, R300, R408-R417, R424).
-/

namespace Sys2Proof.Asm

open Sys2Proof.Machine

/-! ### The sections (R104) -/

/-- R96, R104: a word of the pair with its half of an address. -/
def Item.resolve (base : Nat) (a : Item) : BitVec 32 :=
  let at' (off : BitVec 64) : Int := base + off.toInt
  match a.half with
  | none => a.word
  | some (true, off) => BitVec.ofNat 32 (a.word.toNat + (at' off / 2 ^ 16 % 2 ^ 21).toNat)
  | some (false, off) => BitVec.ofNat 32 (a.word.toNat + (at' off % 2 ^ 16).toNat)

/-- R96: whether the pair can build the address of a word that holds half of it. -/
def Item.reaches (base : Nat) (a : Item) : Bool :=
  match a.half with
  | none => true
  | some (_, off) => decide (-(2 ^ 36 : Int) ≤ base + off.toInt) && decide (base + off.toInt < (2 ^ 36 : Int))

/-- R104: the code of a placed image whose data section stands at a GLOBAL address; none where the placer refuses it
because a .data symbol, one at the end of the section among them, would lie outside 0 to 2^36 − 1. -/
def Image.placeCode (x : Image) (base : Nat) : Option (List (BitVec 32)) :=
  if base + x.data.length < 2 ^ 36 ∧ x.code.all (Item.reaches base) then some (x.code.map (Item.resolve base)) else none

/-! ### A binding (R408-R415) -/

/-- What the placer chooses for a kernel: its slot, NMAX, the save region base and STASH of its placements. -/
structure KernelBinding where
  slot : Nat
  nmax : Nat
  save : Nat
  stash : Nat
  deriving DecidableEq, Repr

/-- The route that the placer gives a channel. -/
structure ChannelBinding where
  chan : Nat
  torus : Nat
  ctx : Nat
  lcore : Nat
  dest : Nat
  slots : Nat
  ring : Nat
  deriving DecidableEq, Repr

/-- A binding of an image: the context, the address of its data section and the ranges of GLOBAL addresses (first address
and length) that the caller knows to be free, the physical cores of logical cores, the packages of torus indices, its kernels
in their order, and its channels. -/
structure Binding where
  ctx : Nat
  data : Nat
  free : List (Nat × Nat)
  cores : List (Nat × Nat)
  torus : List (Nat × Nat)
  kernels : List KernelBinding
  channels : List ChannelBinding
  deriving DecidableEq, Repr

/-- A table word of fields in bytes. -/
def tableWord (l : List (Nat × Nat)) : BitVec 256 := BitVec.ofNat 256 (packBytes l)

/-- R408: a core entry. -/
def coreWord (s : State) (phys : Nat) : BitVec 256 :=
  let code := match s.cls phys with
    | some .v => 1
    | some .t => 2
    | _ => 0
  tableWord [(1, 1), (0, 1), (0, 2), (phys, 2), (code, 1)]

/-- R410: an entry of the torus part. -/
def torusWord (pkg : Nat) : BitVec 256 := tableWord [(1, 1), (0, 1), (0, 2), (pkg, 2)]

/-- R411: an entry of the channel part. -/
def ChannelBinding.word (c : ChannelBinding) (cls : Nat) : BitVec 256 :=
  tableWord [(1, 1), (cls, 1), (0, 2), (c.torus, 2), (c.ctx, 2), (c.lcore, 2), (c.dest, 2), (c.slots, 2), (0, 2), (c.ring, 4)]

/-- R414: a kernel entry, with the domain shape that the image records. -/
def Kernel.word (k : Kernel) (b : KernelBinding) : BitVec 256 :=
  let widths := k.domain.getD []
  tableWord ([(1, 1), (widths.length, 1), (0, 2), (k.entry.getD 0, 4)] ++
    ((List.range 4).map fun j => (widths[j]?.getD 1 - 1, 2)) ++ [(b.nmax - 1, 4), (0, 4), (b.save, 8)])

/-- R103, R415: the three words of a placement entry; none where the section does not hold the heat map. -/
def Image.placementEntry (x : Image) (q : Placement) (stash : Nat) : Option (List (BitVec 256)) :=
  let map := (x.data.drop q.heat).take 64
  let word (l : List (BitVec 8)) : BitVec 256 := tableWord (l.map fun b => (b.toNat, 1))
  if map.length = 64 then
    some [tableWord [(1, 1), (q.harts, 1), (0, 2), (q.lcore0, 2), (q.tpc, 1), (if q.harts = 0 then 0 else stash, 1)],
      word (map.take 32), word (map.drop 32)]
  else none

/-! ### What the placer refuses (R103, R104, R424) -/

/-- The physical core of a logical one under a binding. -/
def Binding.phys (b : Binding) (s : State) (lcore : Nat) : Option Nat :=
  match lookup b.cores lcore with
  | some p => if lcore < tfield (s.descr b.ctx) 0x1A 2 then some p else none
  | none => s.coreNamed b.ctx lcore

/-- R103: the logical cores of a placement of so many threads. -/
def Placement.lcores (q : Placement) (n : Nat) : List Nat := (List.range ((n + q.tpc - 1) / q.tpc)).map (q.lcore0 + ·)

/-- Every kernel with its binding, each placement and each logical core that it names. -/
def Image.everyCore (x : Image) (b : Binding) (f : KernelBinding → Placement → Nat → Bool) : Bool :=
  (x.kernels.zip b.kernels).all fun e => e.1.placements.all fun q => (q.lcores e.2.nmax).all (f e.2 q)

/-- R103, R424: every placement names logical cores with a valid entry alone. -/
def Image.coresPresent (x : Image) (b : Binding) (s : State) : Bool :=
  x.everyCore b fun _ _ l => (b.phys s l).isSome

/-- R103: harts is 0 but for a placement on V-cores. -/
def Image.hartsMatch (x : Image) (b : Binding) (s : State) : Bool :=
  x.everyCore b fun _ q l => match b.phys s l with
    | some p => (q.harts != 0) == (s.cls p == some .v)
    | none => false

/-- R415: the bytes of a STASH code. -/
def stashOf : Nat → Nat
  | 1 => 0x20000
  | 2 => 0x40000
  | 3 => 0x80000
  | _ => 0

/-- R424: every bound core keeps 256 KiB of LOCAL bytes after the stash of the placement. -/
def Image.localRoom (x : Image) (b : Binding) (s : State) : Bool :=
  x.everyCore b fun k q l => match b.phys s l with
    | some p => decide (0x40000 + (if q.harts = 0 then 0 else stashOf k.stash) ≤ s.scratchBytes p)
    | none => false

/-- R104: the data section goes to a free range of the context's address space; which are free, the device does not know
(DESIGN CHOICE, log entry 38). -/
def Image.rangeFree (x : Image) (b : Binding) : Bool :=
  b.free.any fun r => decide (r.1 ≤ b.data) && decide (b.data + x.data.length ≤ r.1 + r.2)

/-- R104: every channel of the image is bound, by the binding or by a route that stands. -/
def Image.channelsBound (x : Image) (b : Binding) (s : State) : Bool :=
  x.channels.all fun e => b.channels.any (·.chan == e.2.1) || (s.channel b.ctx e.2.1).any (·.cls == e.2.2)

/-- Every check of a binding; that of the harts is no ground that R424 lists (DESIGN CHOICE, log entry 38). -/
def Image.fits (x : Image) (b : Binding) (s : State) : Bool :=
  x.kernels.length == b.kernels.length && x.coresPresent b s && x.hartsMatch b s && x.localRoom b s &&
    x.rangeFree b && x.channelsBound b s &&
    decide (x.code.length * 4 ≤ tfield (s.descr b.ctx) 4 4 * 0x10000) &&
    decide (x.arena.getD 0 ≤ tfield (s.descr b.ctx) 4 4 * 0x10000)

/-! ### What the placer writes -/

/-- The table words of a binding in the order of their writing: cores, routes, kernels, and placements with their heat
maps before word 0, which makes them valid (R415). -/
def Image.words (x : Image) (b : Binding) (s : State) : Option (List (Selector × BitVec 256)) := do
  let sel (tbl index word : Nat) : Selector := { tbl := tbl, word := word, cmp := false, ctx := b.ctx, index := index }
  let routes ← b.channels.mapM fun c =>
    (x.channels.find? (·.2.1 == c.chan)).map fun e => (sel 3 c.chan 0, c.word e.2.2)
  let placements ← ((x.kernels.zip b.kernels).flatMap fun e => e.1.placements.map fun q => (e.2, q)).mapM fun e =>
    (x.placementEntry e.2 e.1.stash).map fun l =>
      (l.zipIdx.map fun w => (sel 8 (e.1.slot * 16 + e.2.n) w.2, w.1)).reverse
  return (b.cores.map fun c => (sel 1 c.1 0, coreWord s c.2)) ++ (b.torus.map fun t => (sel 2 t.1 0, torusWord t.2)) ++
    routes ++ ((x.kernels.zip b.kernels).map fun e => (sel 7 e.2.slot 0, e.1.word e.2)) ++ placements.flatten

/-- Words written by TBLW, each at status 0 (R419); none where one is refused. -/
def writeWords : List (Selector × BitVec 256) → State → Option State
  | [], s => some s
  | (x, w) :: r, s => if x.exists ∧ s.writeStatus x w = 0 then writeWords r (s.writeEntry x w) else none

/-- Bytes written at GLOBAL addresses of a context; none where one is not mapped. -/
def writeVirtual (ctx : Nat) : Nat → List (BitVec 8) → State → Option State
  | _, [], s => some s
  | va, v :: r, s =>
    match s.walk ctx va walkLevels (tfield (s.descr ctx) 0x10 8) with
    | .ok e => writeVirtual ctx (va + 1) r { s with mem := writeByte s.mem (e.pbase + (va - e.vbase)) v }
    | .error _ => none

/-- The code in the arena, from its offset 0 (R298). -/
def writeCode (ctx : Nat) (l : List (BitVec 32)) (s : State) : State :=
  { s with mem := l.zipIdx.foldl (fun m e => writeNat m (tfield (s.descr ctx) 8 8 + 4 * e.2) 4 e.1.toNat) s.mem }

/-- R104, R424: an image bound to a device, or none where the placer refuses it and writes nothing. -/
def Image.bind (x : Image) (b : Binding) (s : State) : Option State := do
  let code ← x.placeCode b.data
  guard (x.fits b s)
  let t ← writeWords (← x.words b s) s
  writeVirtual b.ctx b.data x.data (writeCode b.ctx code t)

/-! ### The domain shape (R36, R100) -/

/-- The dies that the innermost domains of a kernel's placement lie on, each counted for each domain. -/
def Kernel.spread (k : Kernel) (b : Binding) (s : State) (n : Nat) (q : Placement) : Nat :=
  match k.domain with
  | some (d :: _) =>
    ((List.range ((n + d - 1) / d)).map fun j =>
      (((List.range (min d (n - j * d))).filterMap fun i =>
        (b.phys s (q.lcore0 + (j * d + i) / q.tpc)).map dieOf).eraseDups).length).sum
  | _ => 0

/-- The same for an image. -/
def Image.spread (x : Image) (s : State) (b : Binding) : Nat :=
  ((x.kernels.zip b.kernels).map fun e => (e.1.placements.map (e.1.spread b s e.2.nmax)).sum).sum

/-- R100: of the bindings that the placer accepts, one that keeps the innermost domains on the fewest dies. -/
def Image.bestBinding (x : Image) (s : State) (l : List Binding) : Option Binding :=
  let l := l.filter fun b => (x.bind b s).isSome
  (leastBy (fun k => (l[k]?.map (x.spread s)).getD 0) (List.range l.length)).bind (l[·]?)

/-! ### The flash store (R300, R417) -/

/-- Where a placed image lies: the part and the offset. -/
structure Lodging where
  part : Nat
  offset : Nat
  deriving DecidableEq, Repr

/-- The directory entry that the placer writes for a key: the one with that key, else the lowest invalid one (DESIGN
CHOICE, log entry 38), else the victim. -/
def directoryPlace (s : State) (hash : BitVec 256) (rev shape : Nat) : Option Nat :=
  (s.directoryLookup hash rev shape).orElse fun _ =>
    ((List.range 8192).find? fun i => !tvalid (s.directoryWord i 0)).orElse fun _ => s.directoryVictim

/-- The bytes of a placed image in its part of the flash store. -/
def flashWrite (s : State) (part offset : Nat) (l : List (BitVec 8)) : State :=
  let put (m : List Host.Cell) : List Host.Cell := l.zipIdx.foldl (fun m e => writeByte m (offset + e.2) e.1) m
  { s with flash := if part = 0 then { s.flash with part0 := put s.flash.part0 }
                    else { s.flash with part1 := put s.flash.part1 } }

/-- A byte of a part of the flash store. -/
def flashByte (s : State) (part offset : Nat) : BitVec 8 :=
  readByte (if part = 0 then s.flash.part0 else s.flash.part1) offset

/-- A placed image recorded: its bytes in flash, word 1 of its entry, and word 0, which makes it valid, with the image's
length in units of 4 KiB and the device time in seconds. -/
def recordImage (s : State) (ctx : Nat) (hash : BitVec 256) (p : Lodging) (l : List (BitVec 8)) : Option State := do
  let rev := s.devrev.toNat % 2 ^ 32
  let shape := s.shapeOfCores ctx
  let i ← directoryPlace s hash rev shape
  let sel (word : Nat) : Selector := { tbl := 9, word := word, cmp := false, ctx := 0, index := i }
  writeWords [(sel 1, hash), (sel 0, tableWord [(1, 1), (p.part, 1), (0, 2), (rev, 4), (shape, 8), (p.offset, 8),
    ((l.length + 4095) / 4096, 4), (s.dtime / 10 ^ 9, 4)])] (flashWrite s p.part p.offset l)

end Sys2Proof.Asm
end

