-- ==== Sys2Proof/Tests/Slice0.lean ====
section
/-!
SUPPORT. Tests: ill-formed terms that WellFormed refuses, words written out from the spec's encodings, the
results of single steps, and for every statement with hypotheses a state that meets them.
-/

namespace Sys2Proof.Tests

/-! One theorem is checked after another: together they would ask for too many threads. -/
set_option Elab.async false

open Sys2Proof Sys2Proof.Machine

/-! ### States -/

/-- One thread in RUN on a core, with a handler at 0x1000. -/
def lone (core : Nat) (f : Thread → Thread) : State :=
  { State.reset with cur := f { Thread.null with run := .run, core := core, trvec := 0x1000 } }

/-- On C-core 1 of die 5. -/
def onC (f : Thread → Thread) : State := lone 0x5001 f

/-- On V-core 3 of die 2. -/
def onV (f : Thread → Thread) : State := lone 0x2003 f

/-- On T-core 0 of die 0. -/
def onT (f : Thread → Thread) : State := lone 0 f

/-- Values in s1 and s2. -/
def ab (a b : Word) (t : Thread) : Thread := { t with s := (t.s.set 1 a).set 2 b }

/-- A latch. -/
def pre (l : BitVec 12) (t : Thread) : Thread := { t with latch := some l }

/-- System state. -/
def sys (t : Thread) : Thread := { t with tstat := 0x8000 }

/-- A vector register with the same code in its first elements, and `vl`. -/
def vec (n vl : Nat) (r : BitVec 5) (tag : BitVec 5) (code : Nat) (t : Thread) : Thread :=
  { t.setV r { VReg.zero with bits := setElems 0 (tagWidth tag) 0 (List.replicate n (some code)), tag := tag } with
    vl := BitVec.ofNat 64 vl }

/-- A translation of the first GiB onto itself, and of the second onto another. -/
def entry0 : TlbEntry :=
  { ctx := 0, vbase := 0, pbase := 0, sizeLog := 30, read := true, write := true, attr := 0 }
def entry1 (pbase : Nat) : TlbEntry := { entry0 with vbase := 0x40000000, pbase := pbase }

/-- The words of a page table at 0x10000 that gives entry0 and, where asked, entry1. -/
def pageTable (second : Option Nat) : List Host.Cell :=
  writeNat (writeNat (writeNat (writeNat [] 0x10000 8 0x11000) 0x11000 8 0x12000) 0x12000 8 0x1C) 0x12008 8
    ((second.map (· + 0x1C)).getD 0)

def cell (tbl ctx index : Nat) (w : Nat) : TableKey × BitVec 256 :=
  ({ tbl := tbl, ctx := ctx, index := index, word := 0 }, BitVec.ofNat 256 w)

/-- A descriptor with the page table and two logical cores. -/
def descriptor : Nat := 1 + 2 ^ 32 + 0x10000 * 2 ^ 128 + 2 * 2 ^ 208

/-- The first GiB mapped onto itself, the second where asked. -/
def mappedTo (second : Option Nat) (s : State) : State :=
  { s with
    mem := pageTable second
    tables := [cell 0 0 0 descriptor]
    cores := assign s.cores s.cur.core { s.core s.cur.core with tlb := [entry0] ++ (second.map entry1).toList } }
def mapped (s : State) : State := mappedTo none s

/-- An access has a place. -/
def good {α ε β : Type} (r : α × Except ε β) : Bool :=
  match r.2 with
  | .ok _ => true
  | .error _ => false

/-- A step goes on. -/
def next (o : Host.Outcome State Fault Refusal) : State :=
  match o with
  | .next t => t
  | _ => State.reset

/-- v1 and v2 hold integers, v3 and v4 f32 values, v5 nothing; s1 and s2 have values. -/
def vecs (t : Thread) : Thread :=
  vec 3 3 4 0x0A 0x40000000 (vec 3 3 3 0x0A 0x3F800000 (vec 3 3 2 0x02 0xFFF0 (vec 3 3 1 0x06 9 (ab 5 6 t))))

/-- A context whose logical core 0 is a core, with the windows of die 5 mapped at the second GiB; s1 points into that of the
core. -/
def scratchTarget (target : Nat) : State :=
  let s := mappedTo (some 0x010500000000) (onC (ab (BitVec.ofNat 64 (0x40000040 + target % 4096 * 0x100000)) 0))
  { s with tables := [cell 0 0 0 descriptor, cell 1 0 0 (1 + 2 ^ 32 * target)] }

/-! ### WellFormed refuses ill-formed terms -/

theorem smoke_scalar :
    wellFormed (.pfx 1 0 0 0 0 0) = false ∧ wellFormed (.cmpeq 1 3 2 3) = false ∧
    wellFormed (.bext 1 2 40 25) = false ∧ wellFormed (.bins 1 2 3 0) = false ∧
    wellFormed (.fadd 1 2 3 5 0) = false ∧ wellFormed (.fcvti 1 2 5 0 0) = false ∧
    wellFormed (.ld 1 2 7 0 0) = false ∧ wellFormed (.st 1 2 0 3 0) = false ∧
    wellFormed (.ldGrp 1 2 5 3) = false ∧ wellFormed (.ldGrp 1 2 0 4) = false ∧
    wellFormed (.ldSem 1 2 7 1 0 0) = false ∧ wellFormed (.stFe 1 2 2 0 0 0) = false ∧
    wellFormed (.fence 1 0) = false ∧ wellFormed (.waita 1 2 3 2 0 1 0) = false ∧
    wellFormed (.dleave 0) = false ∧ wellFormed (.hint 0 0 1 5) = false := by decide +kernel

theorem smoke_vector :
    wellFormed (.setvl 1 2 0) = false ∧ wellFormed (.vcfg 1 0x13) = false ∧
    wellFormed (.vkill 3 2) = false ∧ wellFormed (.vadd 1 2 3 3 0) = false ∧
    wellFormed (.vmadd 1 2 3 4 2) = false ∧ wellFormed (.vmovVs 1 0x10 2) = false ∧
    wellFormed (.vmovVi 1 0xD 2) = false ∧ wellFormed (.vcvt 1 2 4 3) = false ∧
    wellFormed (.vquant 1 2 0 3) = false ∧ wellFormed (.vslideup 1 2 3 0) = false ∧
    wellFormed (.vslideup 1 2 0x1F 2) = false ∧ wellFormed (.tldb 1 2 0 0 4) = false ∧
    wellFormed (.tmma 0 1 2 1 5) = false ∧ wellFormed (.tdrain 0 1 2 0 0 5) = false ∧
    wellFormed (.tdrain 0 1 2 0 1 0) = false ∧ wellFormed (.vld8 1 2 5 0 0 0 0) = false ∧
    wellFormed (.vld4 1 2 6 0 0 0) = false ∧ wellFormed (.vst8 1 2 1 0 0 0 0) = false ∧
    wellFormed (.vst16 1 2 3 3 0 0 0) = false ∧ wellFormed (.vst4 1 2 0 0 2) = false ∧
    wellFormed (.strmv 30 1 0 0 2 0 0) = false := by decide +kernel

/-! ### Words written out from the encodings decode to their instructions -/

theorem test_decode_01 :
    decodeTableWord 32 0x063DC000 = some (.pfx 0x11 1 1 5 1 1) := by decide +kernel

theorem test_decode_02_a :
    decodeTableWord 32 0x0A265800 = some (.add 0x11 6 11) ∧
    decodeTableWord 32 0x0A265801 = some (.sub 0x11 6 11) ∧
    decodeTableWord 32 0x0A265802 = some (.and 0x11 6 11) ∧
    decodeTableWord 32 0x0A265803 = some (.or 0x11 6 11) ∧
    decodeTableWord 32 0x0A265804 = some (.xor 0x11 6 11) ∧
    decodeTableWord 32 0x0A265805 = some (.andcm 0x11 6 11) ∧
    decodeTableWord 32 0x0A265806 = some (.orcm 0x11 6 11) ∧
    decodeTableWord 32 0x0A265807 = some (.eqv 0x11 6 11) ∧
    decodeTableWord 32 0x0A265808 = some (.sll 0x11 6 11) ∧
    decodeTableWord 32 0x0A265809 = some (.srl 0x11 6 11) ∧
    decodeTableWord 32 0x0A26580A = some (.sra 0x11 6 11) ∧
    decodeTableWord 32 0x0A26580B = some (.rol 0x11 6 11) := by decide +kernel

theorem test_decode_02_b :
    decodeTableWord 32 0x0A26580C = some (.ror 0x11 6 11) ∧
    decodeTableWord 32 0x0A26580D = some (.min 0x11 6 11) ∧
    decodeTableWord 32 0x0A26580E = some (.max 0x11 6 11) ∧
    decodeTableWord 32 0x0A26580F = some (.minn 0x11 6 11) ∧
    decodeTableWord 32 0x0A265810 = some (.maxn 0x11 6 11) ∧
    decodeTableWord 32 0x0A265811 = some (.ixadd1 0x11 6 11) ∧
    decodeTableWord 32 0x0A265812 = some (.ixadd2 0x11 6 11) ∧
    decodeTableWord 32 0x0A265813 = some (.ixadd3 0x11 6 11) ∧
    decodeTableWord 32 0x0A260014 = some (.clz 0x11 6) ∧
    decodeTableWord 32 0x0A260015 = some (.ctz 0x11 6) ∧
    decodeTableWord 32 0x0A260016 = some (.popc 0x11 6) ∧
    decodeTableWord 32 0x0A260017 = some (.byterev 0x11 6) := by decide +kernel

theorem test_decode_03 :
    decodeTableWord 32 0x0E26FF85 = some (.addi 0x11 6 0xff85) := by decide +kernel

theorem test_decode_04 :
    decodeTableWord 32 0x12268001 = some (.andi 0x11 6 0x8001) := by decide +kernel

theorem test_decode_05 :
    decodeTableWord 32 0x16260003 = some (.ori 0x11 6 3) := by decide +kernel

theorem test_decode_06 :
    decodeTableWord 32 0x1A260003 = some (.xori 0x11 6 3) := by decide +kernel

theorem test_decode_07 :
    decodeTableWord 32 0x1E260800 = some (.slli 0x11 6 2) ∧
    decodeTableWord 32 0x1E260801 = some (.srli 0x11 6 2) ∧
    decodeTableWord 32 0x1E260802 = some (.srai 0x11 6 2) ∧
    decodeTableWord 32 0x1E260803 = some (.rori 0x11 6 2) ∧
    decodeTableWord 32 0x1E268544 = some (.bext 0x11 6 0x21 0x14) ∧
    decodeTableWord 32 0x1E268545 = some (.bexts 0x11 6 0x21 0x14) ∧
    decodeTableWord 32 0x1E268546 = some (.bins 0x11 6 0x21 0x14) ∧
    decodeTableWord 32 0x1E268547 = some (.bclrf 0x11 6 0x21 0x14) ∧
    decodeTableWord 32 0x1E268548 = some (.bsetf 0x11 6 0x21 0x14) := by decide +kernel

theorem test_decode_08 :
    decodeTableWord 32 0x22265800 = some (.mullo 0x11 6 11) ∧
    decodeTableWord 32 0x22265801 = some (.mulhnn 0x11 6 11) ∧
    decodeTableWord 32 0x22265802 = some (.mulhii 0x11 6 11) ∧
    decodeTableWord 32 0x22265803 = some (.mulhin 0x11 6 11) ∧
    decodeTableWord 32 0x22265804 = some (.quon 0x11 6 11) ∧
    decodeTableWord 32 0x22265805 = some (.quoi 0x11 6 11) ∧
    decodeTableWord 32 0x22265806 = some (.remn 0x11 6 11) ∧
    decodeTableWord 32 0x22265807 = some (.remi 0x11 6 11) := by decide +kernel

theorem test_decode_09 :
    decodeTableWord 32 0x26323456 = some (.ldhi 0x11 0x123456) := by decide +kernel

theorem test_decode_0A :
    decodeTableWord 32 0x2A3FFFFF = some (.addpc 0x11 0x1fffff) := by decide +kernel

theorem test_decode_0B :
    decodeTableWord 32 0x2D265800 = some (.cmpeq 2 1 6 11) ∧
    decodeTableWord 32 0x2D265801 = some (.cmpne 2 1 6 11) ∧
    decodeTableWord 32 0x2D265802 = some (.cmplt 2 1 6 11) ∧
    decodeTableWord 32 0x2D265803 = some (.cmpge 2 1 6 11) ∧
    decodeTableWord 32 0x2D265804 = some (.cmpltu 2 1 6 11) ∧
    decodeTableWord 32 0x2D265805 = some (.cmpgeu 2 1 6 11) ∧
    decodeTableWord 32 0x2D265814 = some (.fcmpeq 2 1 6 11 1) ∧
    decodeTableWord 32 0x2D265815 = some (.fcmplt 2 1 6 11 1) ∧
    decodeTableWord 32 0x2D265816 = some (.fcmple 2 1 6 11 1) ∧
    decodeTableWord 32 0x2D265817 = some (.fcmpun 2 1 6 11 1) := by decide +kernel

theorem test_decode_0C :
    decodeTableWord 32 0x31260003 = some (.cmpeqi 2 1 6 3) ∧
    decodeTableWord 32 0x31260803 = some (.cmpnei 2 1 6 3) ∧
    decodeTableWord 32 0x31261003 = some (.cmplti 2 1 6 3) ∧
    decodeTableWord 32 0x31261803 = some (.cmpgei 2 1 6 3) ∧
    decodeTableWord 32 0x31262003 = some (.cmpltui 2 1 6 3) ∧
    decodeTableWord 32 0x31262803 = some (.cmpgeui 2 1 6 3) := by decide +kernel

theorem test_decode_0D :
    decodeTableWord 32 0x35261803 = some (.plog 2 1 6 3 3) := by decide +kernel

theorem test_decode_0E :
    decodeTableWord 32 0x3A265840 = some (.sel 0x11 6 11 1) := by decide +kernel

theorem test_decode_0F_a :
    decodeTableWord 32 0x3E265A40 = some (.fadd 0x11 6 11 2 1) ∧
    decodeTableWord 32 0x3E265A41 = some (.fsub 0x11 6 11 2 1) ∧
    decodeTableWord 32 0x3E265A42 = some (.fmul 0x11 6 11 2 1) ∧
    decodeTableWord 32 0x3E265A43 = some (.fdiv 0x11 6 11 2 1) ∧
    decodeTableWord 32 0x3E260244 = some (.fsqrt 0x11 6 2 1) ∧
    decodeTableWord 32 0x3E265845 = some (.fmin 0x11 6 11 1) ∧
    decodeTableWord 32 0x3E265846 = some (.fmax 0x11 6 11 1) ∧
    decodeTableWord 32 0x3E260047 = some (.fneg 0x11 6 1) ∧
    decodeTableWord 32 0x3E260048 = some (.fabs 0x11 6 1) ∧
    decodeTableWord 32 0x3E265849 = some (.fcpys 0x11 6 11 1) ∧
    decodeTableWord 32 0x3E26004A = some (.fkind 0x11 6 1) ∧
    decodeTableWord 32 0x3E26124B = some (.fcvt 0x11 6 2 2 1) := by decide +kernel

theorem test_decode_0F_b :
    decodeTableWord 32 0x3E261A4C = some (.fcvti 0x11 6 3 2 1) ∧
    decodeTableWord 32 0x3E261A4D = some (.fcvtf 0x11 6 3 2 1) := by decide +kernel

theorem test_decode_10 :
    decodeTableWord 32 0x4226584A = some (.fmadd 0x11 6 11 1 1 2) ∧
    decodeTableWord 32 0x4226586A = some (.fnmadd 0x11 6 11 1 1 2) := by decide +kernel

theorem test_decode_11 :
    decodeTableWord 32 0x457FFFFC = some (.br 2 1 0x3ffffc) := by decide +kernel

theorem test_decode_12 :
    decodeTableWord 32 0x4A300001 = some (.call 0x11 0x100001) := by decide +kernel

theorem test_decode_13 :
    decodeTableWord 32 0x4E260000 = some (.callr 0x11 6) := by decide +kernel

theorem test_decode_14 :
    decodeTableWord 32 0x52208030 = some (.rdcsr 0x11 0x803) ∧
    decodeTableWord 32 0x50060248 = some (.wrcsr 6 0x24) ∧
    decodeTableWord 32 0x52260129 = some (.xchcsr 0x11 6 0x12) ∧
    decodeTableWord 32 0x5006001A = some (.setcsr 6 1) ∧
    decodeTableWord 32 0x5006001B = some (.clrcsr 6 1) := by decide +kernel

theorem test_decode_16 :
    decodeTableWord 32 0x5A263800 = some (.setvl 0x11 6 7) ∧
    decodeTableWord 32 0x59230001 = some (.vcfg 9 3) ∧
    decodeTableWord 32 0x58065802 = some (.vkill 6 11) := by decide +kernel

theorem test_decode_17_a :
    decodeTableWord 32 0x5E265A80 = some (.vadd 0x11 6 11 1 2) ∧
    decodeTableWord 32 0x5E265A81 = some (.vsub 0x11 6 11 1 2) ∧
    decodeTableWord 32 0x5E265A82 = some (.vrsub 0x11 6 11 1 2) ∧
    decodeTableWord 32 0x5E265A83 = some (.vmul 0x11 6 11 1 2) ∧
    decodeTableWord 32 0x5E265A04 = some (.vmulh 0x11 6 11 1) ∧
    decodeTableWord 32 0x5E265A05 = some (.vmin 0x11 6 11 1) ∧
    decodeTableWord 32 0x5E265A06 = some (.vmax 0x11 6 11 1) ∧
    decodeTableWord 32 0x5E265A87 = some (.vadds 0x11 6 11 1 2) ∧
    decodeTableWord 32 0x5E265A88 = some (.vsubs 0x11 6 11 1 2) ∧
    decodeTableWord 32 0x5E265A09 = some (.vand 0x11 6 11 1) ∧
    decodeTableWord 32 0x5E265A0A = some (.vor 0x11 6 11 1) ∧
    decodeTableWord 32 0x5E265A0B = some (.vxor 0x11 6 11 1) := by decide +kernel

theorem test_decode_17_b :
    decodeTableWord 32 0x5E265A0C = some (.vsll 0x11 6 11 1) ∧
    decodeTableWord 32 0x5E265A0D = some (.vsrl 0x11 6 11 1) ∧
    decodeTableWord 32 0x5E265A0E = some (.vsra 0x11 6 11 1) ∧
    decodeTableWord 32 0x5E26000F = some (.vmovVv 0x11 6) ∧
    decodeTableWord 32 0x5E235A0F = some (.vmovVs 0x11 3 11) ∧
    decodeTableWord 32 0x5E231C0F = some (.vmovVi 0x11 3 3) := by decide +kernel

theorem test_decode_18 :
    decodeTableWord 32 0x62265A80 = some (.vfadd 0x11 6 11 1 2) ∧
    decodeTableWord 32 0x62265A81 = some (.vfsub 0x11 6 11 1 2) ∧
    decodeTableWord 32 0x62265A82 = some (.vfmul 0x11 6 11 1 2) ∧
    decodeTableWord 32 0x62265A83 = some (.vfdiv 0x11 6 11 1 2) ∧
    decodeTableWord 32 0x62260084 = some (.vfsqrt 0x11 6 2) ∧
    decodeTableWord 32 0x62265A05 = some (.vfmin 0x11 6 11 1) ∧
    decodeTableWord 32 0x62265A06 = some (.vfmax 0x11 6 11 1) ∧
    decodeTableWord 32 0x62260007 = some (.vfneg 0x11 6) ∧
    decodeTableWord 32 0x62260008 = some (.vfabs 0x11 6) ∧
    decodeTableWord 32 0x62265A09 = some (.vfcpys 0x11 6 11 1) ∧
    decodeTableWord 32 0x6226000A = some (.vfkind 0x11 6) := by decide +kernel

theorem test_decode_19 :
    decodeTableWord 32 0x66265850 = some (.vmadd 0x11 6 11 1 1) ∧
    decodeTableWord 32 0x66265851 = some (.vmsub 0x11 6 11 1 1) ∧
    decodeTableWord 32 0x66265852 = some (.vnmadd 0x11 6 11 1 1) := by decide +kernel

theorem test_decode_1A :
    decodeTableWord 32 0x68465A00 = some (.vcmpeq 2 6 11 1) ∧
    decodeTableWord 32 0x68465A01 = some (.vcmpne 2 6 11 1) ∧
    decodeTableWord 32 0x68465A02 = some (.vcmplt 2 6 11 1) ∧
    decodeTableWord 32 0x68465A03 = some (.vcmple 2 6 11 1) ∧
    decodeTableWord 32 0x68465A04 = some (.vcmpgt 2 6 11 1) ∧
    decodeTableWord 32 0x68465A05 = some (.vcmpge 2 6 11 1) ∧
    decodeTableWord 32 0x68465A06 = some (.vcmpun 2 6 11 1) := by decide +kernel

theorem test_decode_1B :
    decodeTableWord 32 0x6E260083 = some (.vcvt 0x11 6 2 3) ∧
    decodeTableWord 32 0x6E2600A3 = some (.vcvts 0x11 6 2 3) ∧
    decodeTableWord 32 0x6E2600B2 = some (.vquant 0x11 6 2 2) := by decide +kernel

theorem test_decode_1C :
    decodeTableWord 32 0x72260000 = some (.vrcp 0x11 6) ∧
    decodeTableWord 32 0x72260001 = some (.vrsqrt 0x11 6) ∧
    decodeTableWord 32 0x72260002 = some (.vexp2 0x11 6) := by decide +kernel

theorem test_decode_1D :
    decodeTableWord 32 0x7620207E = some (.vidx 0x11 1 3 2) ∧
    decodeTableWord 32 0x76265A00 = some (.vgather 0x11 6 11 1) ∧
    decodeTableWord 32 0x76265C01 = some (.vslideup 0x11 6 11 2) ∧
    decodeTableWord 32 0x76265C02 = some (.vslidedn 0x11 6 11 2) ∧
    decodeTableWord 32 0x76265A03 = some (.vslide1up 0x11 6 11) ∧
    decodeTableWord 32 0x76265A04 = some (.vslide1dn 0x11 6 11) ∧
    decodeTableWord 32 0x76261005 = some (.vcompress 0x11 6 2) ∧
    decodeTableWord 32 0x76261006 = some (.vexpand 0x11 6 2) := by decide +kernel

theorem test_decode_1E_a :
    decodeTableWord 32 0x7A265A80 = some (.vredsum 0x11 6 11 2) ∧
    decodeTableWord 32 0x7A265A01 = some (.vredmax 0x11 6 11) ∧
    decodeTableWord 32 0x7A265A02 = some (.vredmin 0x11 6 11) ∧
    decodeTableWord 32 0x7A265A03 = some (.vredand 0x11 6 11) ∧
    decodeTableWord 32 0x7A265A04 = some (.vredor 0x11 6 11) ∧
    decodeTableWord 32 0x7A265A88 = some (.vscansum 0x11 6 11 2) ∧
    decodeTableWord 32 0x7A265A09 = some (.vscanmax 0x11 6 11) ∧
    decodeTableWord 32 0x7A265A0A = some (.vscanmin 0x11 6 11) ∧
    decodeTableWord 32 0x7A265A8C = some (.vxscansum 0x11 6 11 2) ∧
    decodeTableWord 32 0x7A265A0D = some (.vxscanmax 0x11 6 11) ∧
    decodeTableWord 32 0x7A265A0E = some (.vxscanmin 0x11 6 11) ∧
    decodeTableWord 32 0x7A260010 = some (.vconf 0x11 6) := by decide +kernel

theorem test_decode_1E_b :
    decodeTableWord 32 0x7A220018 = some (.mpopc 0x11 2) ∧
    decodeTableWord 32 0x7A220019 = some (.mfirst 0x11 2) := by decide +kernel

theorem test_decode_1F :
    decodeTableWord 32 0x7C261803 = some (.mlog 1 6 3 3) ∧
    decodeTableWord 32 0x7C260010 = some (.msbf 1 6) ∧
    decodeTableWord 32 0x7C260020 = some (.msif 1 6) ∧
    decodeTableWord 32 0x7C260030 = some (.msof 1 6) := by decide +kernel

theorem test_decode_20 :
    decodeTableWord 32 0x82260000 = some (.tshape 0x11 6) ∧
    decodeTableWord 32 0x80000001 = some .trel ∧
    decodeTableWord 32 0x80000002 = some .tzero0 ∧
    decodeTableWord 32 0x80200002 = some .tzero1 ∧
    decodeTableWord 32 0x80400002 = some .tzero2 ∧
    decodeTableWord 32 0x80600002 = some .tzero3 ∧
    decodeTableWord 32 0x80065993 = some (.tldb 6 11 1 1 1) ∧
    decodeTableWord 32 0x80465894 = some (.tmma 2 6 11 1 1) ∧
    decodeTableWord 32 0x80465D35 = some (.tdrain 2 6 11 1 2 3) ∧
    decodeTableWord 32 0x80465C06 = some (.taccld 2 6 11 1) ∧
    decodeTableWord 32 0x82225807 = some (.trdacc 0x11 2 11) := by decide +kernel

theorem test_decode_22 :
    decodeTableWord 32 0x8A263001 = some (.ld 0x11 6 1 2 1) ∧
    decodeTableWord 32 0x8A267823 = some (.ldGrp 0x11 6 1 3) := by decide +kernel

theorem test_decode_23 :
    decodeTableWord 32 0x8E263001 = some (.st 0x11 6 1 2 1) := by decide +kernel

theorem test_decode_24 :
    decodeTableWord 32 0x922601A0 = some (.ldSem 0x11 6 1 2 1 0) ∧
    decodeTableWord 32 0x922601A1 = some (.ldFe 0x11 6 1 2 1 0) ∧
    decodeTableWord 32 0x922601A2 = some (.ldFc 0x11 6 1 2 1 0) ∧
    decodeTableWord 32 0x922601A8 = some (.stSem 0x11 6 1 2 1 0) ∧
    decodeTableWord 32 0x922601A9 = some (.stFe 0x11 6 1 2 1 0) := by decide +kernel

theorem test_decode_25 :
    decodeTableWord 32 0x962659A0 = some (.atadd 0x11 6 11 1 2 1 0) ∧
    decodeTableWord 32 0x962659A1 = some (.atand 0x11 6 11 1 2 1 0) ∧
    decodeTableWord 32 0x962659A2 = some (.ator 0x11 6 11 1 2 1 0) ∧
    decodeTableWord 32 0x962659A3 = some (.atxor 0x11 6 11 1 2 1 0) ∧
    decodeTableWord 32 0x962659A4 = some (.atmin 0x11 6 11 1 2 1 0) ∧
    decodeTableWord 32 0x962659A5 = some (.atmax 0x11 6 11 1 2 1 0) ∧
    decodeTableWord 32 0x962659A6 = some (.atminn 0x11 6 11 1 2 1 0) ∧
    decodeTableWord 32 0x962659A7 = some (.atmaxn 0x11 6 11 1 2 1 0) ∧
    decodeTableWord 32 0x962659A8 = some (.atxch 0x11 6 11 1 2 1 0) ∧
    decodeTableWord 32 0x962659A9 = some (.atcmpx 0x11 6 11 1 2 1 0) := by decide +kernel

theorem test_decode_26 :
    decodeTableWord 32 0x9A265D88 = some (.vld8 0x11 6 11 2 1 2 1) ∧
    decodeTableWord 32 0x9A265D89 = some (.vld16 0x11 6 11 2 1 2 1) ∧
    decodeTableWord 32 0x9A265D8A = some (.vld32 0x11 6 11 2 1 2 1) ∧
    decodeTableWord 32 0x9A265D8B = some (.vld64 0x11 6 11 2 1 2 1) ∧
    decodeTableWord 32 0x9A26198C = some (.vld4 0x11 6 3 1 2 1) ∧
    decodeTableWord 32 0x9A26198D = some (.vldmx4 0x11 6 3 1 2 1) ∧
    decodeTableWord 32 0x9A26198E = some (.vldmx8 0x11 6 3 1 2 1) ∧
    decodeTableWord 32 0x9A26198F = some (.vldmxi8 0x11 6 3 1 2 1) := by decide +kernel

theorem test_decode_27 :
    decodeTableWord 32 0x9E265D88 = some (.vst8 0x11 6 11 2 1 2 1) ∧
    decodeTableWord 32 0x9E265D89 = some (.vst16 0x11 6 11 2 1 2 1) ∧
    decodeTableWord 32 0x9E265D8A = some (.vst32 0x11 6 11 2 1 2 1) ∧
    decodeTableWord 32 0x9E265D8B = some (.vst64 0x11 6 11 2 1 2 1) ∧
    decodeTableWord 32 0x9E26018C = some (.vst4 0x11 6 1 2 1) ∧
    decodeTableWord 32 0x9E26018D = some (.vstmx4 0x11 6 1 2 1) ∧
    decodeTableWord 32 0x9E26018E = some (.vstmx8 0x11 6 1 2 1) ∧
    decodeTableWord 32 0x9E26018F = some (.vstmxi8 0x11 6 1 2 1) := by decide +kernel

theorem test_decode_28 :
    decodeTableWord 32 0xA2265D88 = some (.vatadd 0x11 6 11 2 1 2 1) ∧
    decodeTableWord 32 0xA2265D89 = some (.vatand 0x11 6 11 2 1 2 1) ∧
    decodeTableWord 32 0xA2265D8A = some (.vator 0x11 6 11 2 1 2 1) ∧
    decodeTableWord 32 0xA2265D8B = some (.vatxor 0x11 6 11 2 1 2 1) ∧
    decodeTableWord 32 0xA2265D8C = some (.vatmin 0x11 6 11 2 1 2 1) ∧
    decodeTableWord 32 0xA2265D8D = some (.vatmax 0x11 6 11 2 1 2 1) ∧
    decodeTableWord 32 0xA2265D8E = some (.vatxch 0x11 6 11 2 1 2 1) := by decide +kernel

theorem test_decode_29 :
    decodeTableWord 32 0xA4000480 = some (.fence 4 2) ∧
    decodeTableWord 32 0xA6265961 = some (.waita 0x11 6 11 1 1 1 0) ∧
    decodeTableWord 32 0xA4065802 = some (.rwb 6 11 0) ∧
    decodeTableWord 32 0xA4065803 = some (.rinv 6 11 0) ∧
    decodeTableWord 32 0xA6265804 = some (.stmap 0x11 6 11) ∧
    decodeTableWord 32 0xA6205805 = some (.stunmap 0x11 11) := by decide +kernel

theorem test_decode_2A :
    decodeTableWord 32 0xA8060028 = some (.strm 6 2 1) ∧
    decodeTableWord 32 0xAA265EA9 = some (.strmv 0x11 6 11 1 5 2 1) ∧
    decodeTableWord 32 0xA8005822 = some (.strmw 11 2) ∧
    decodeTableWord 32 0xA8000003 = some .uiret := by decide +kernel

theorem test_decode_2B :
    decodeTableWord 32 0xAE260841 = some (.send 0x11 6 1 4 1) ∧
    decodeTableWord 32 0xAE260843 = some (.recv 0x11 6 1 4 1) ∧
    decodeTableWord 32 0xAE260845 = some (.recvt 0x11 6 1 4 1) ∧
    decodeTableWord 32 0xAC065807 = some (.tokw 6 11 1) := by decide +kernel

theorem test_decode_2C :
    decodeTableWord 32 0xB2260400 = some (.launch 0x11 6 1) ∧
    decodeTableWord 32 0xB0000001 = some .endT ∧
    decodeTableWord 32 0xB0000002 = some .bar0 ∧
    decodeTableWord 32 0xB0000012 = some .bar1 ∧
    decodeTableWord 32 0xB0000022 = some .bar2 ∧
    decodeTableWord 32 0xB0000032 = some .bar3 ∧
    decodeTableWord 32 0xB0000023 = some (.dleave 2) ∧
    decodeTableWord 32 0xB0060424 = some (.coll 6 1 2) := by decide +kernel

theorem test_decode_2D :
    decodeTableWord 32 0xB4000000 = some .tret ∧
    decodeTableWord 32 0xB4000001 = some .vresume ∧
    decodeTableWord 32 0xB4060002 = some (.migrate 6) ∧
    decodeTableWord 32 0xB4000003 = some .brk ∧
    decodeTableWord 32 0xB4060004 = some (.sysc 6) ∧
    decodeTableWord 32 0xB6265805 = some (.ctxsave 0x11 6 11) ∧
    decodeTableWord 32 0xB6265806 = some (.ctxload 0x11 6 11) := by decide +kernel

theorem test_decode_2E :
    decodeTableWord 32 0xBA265800 = some (.tblw 0x11 6 11) ∧
    decodeTableWord 32 0xBA265801 = some (.tblr 0x11 6 11) ∧
    decodeTableWord 32 0xBA265802 = some (.tinv 0x11 6 11) := by decide +kernel

theorem test_decode_2F :
    decodeTableWord 32 0xBE260000 = some (.agrd 0x11 6) ∧
    decodeTableWord 32 0xBE265801 = some (.agrdx 0x11 6 11) ∧
    decodeTableWord 32 0xBE265802 = some (.mgnreq 0x11 6 11) ∧
    decodeTableWord 32 0xBE265810 = some (.ctrdx 0x11 6 11) ∧
    decodeTableWord 32 0xBE205811 = some (.ctzero 0x11 11) := by decide +kernel

theorem test_decode_3C :
    decodeTableWord 32 0xF0C10003 = some (.pfL2r 6 3) ∧
    decodeTableWord 32 0xF0C20003 = some (.pfL2w 6 3) ∧
    decodeTableWord 32 0xF0C30003 = some (.pfL1 6 3) ∧
    decodeTableWord 32 0xF0150000 = some (.pri 5) ∧
    decodeTableWord 32 0xF4C10003 = some (.hint 1 6 1 3) := by decide +kernel


/-! ### Witnesses: encoding, step, reset, registers -/

theorem witness_round_trips :
    encoded (.add 1 2 3) = true ∧ wellFormed (.add 1 2 3) = true ∧
    decode 0x08221800 = .ok (.add 1 2 3) := by decide +kernel

/-- ADDI s1, s0, 5, placed where a lone thread fetches. -/
def placed : State := State.reset.withFetchWord 32 0x0C200005

theorem witness_at_word : placed.atWord 0x0C200005 ∧ decode 0x0C200005 = .ok (.addi 1 0 5) :=
  ⟨⟨rfl, rfl, rfl, rfl, rfl, by decide, rfl, rfl, by decide, by decide, by decide, trivial⟩, by decide⟩

theorem witness_at_unassigned :
    (State.reset.withFetchWord 32 0).atWord 0 ∧ decode 0 = .error (.illegal 1) :=
  ⟨⟨rfl, rfl, rfl, rfl, rfl, by decide, rfl, rfl, by decide, by decide, by decide, trivial⟩, by decide⟩

theorem witness_beyond_arena :
    let s := onC id
    s.inputs = [] ∧ s.all.find? s.dueSave = none ∧ s.overfull = none ∧ s.cur.run = .run ∧ s.held = false ∧ s.streak < streakLimit ∧
    s.boundary = none ∧ s.cur.dying = false ∧
    s.arena.2 ≤ s.cur.pc.toNat := by decide +kernel

theorem witness_event_input :
    ({ State.reset with inputs := [.event .warmReset] } : State).inputs = .event .warmReset :: [] ∧
    isEvent .warmReset = true := by decide +kernel

theorem witness_fates :
    (onC id).bare 0x3F = true ∧ bits (0xFC000000 : BitVec 32).toNat 26 6 = 0x3F ∧
    decode 0xFC000000 = .error (.illegal 1) ∧
    (onC id).bare 0x0E = true ∧ decode 0x38200001 = .error (.poisonS 1) ∧
    (onV id).bare 0x17 = true ∧ decode 0x5C20003F = .error (.poisonV 1) ∧
    (onC id).bare 0x38 = true ∧ decode 0xE0000000 = .error .noSuitableClass := by decide +kernel

theorem witness_step_keeps :
    placed.Inv ∧ step placed = .next (next (step placed)) := ⟨rfl, rfl⟩

theorem witness_memory : Memory.wf [(4, 7), (9, 1)] = true ∧ (4 : Nat) < 8 := by decide +kernel

theorem witness_scalar_frame :
    (onC (pre 0x140)).cur.reissue = none ∧ (onC id).cur.reissue = none := by decide +kernel

/-! ### Witnesses: scalar instructions -/

theorem witness_scalar_majors :
    ([0x02, 0x03, 0x04, 0x05, 0x06, 0x07, 0x08, 0x09, 0x0A, 0x0B, 0x0C, 0x0D, 0x0E, 0x0F, 0x10, 0x11, 0x12, 0x13,
      0x22, 0x23, 0x24, 0x25].all fun m => (onC id).runs m && (onV id).runs m && (onT id).runs m &&
        (onC (pre 0)).runs m && (onC (pre 2)).runs m == false && (onC (pre 2)).onClass m) = true := by decide +kernel

theorem witness_divide_corners :
    (onC (ab 7 0)).runs 0x08 = true ∧ (onC (ab 7 0)).cur.getS 2 = 0 ∧
    (onC (ab 7 3)).runs 0x08 = true ∧ (onC (ab 7 3)).cur.getS 2 ≠ 0 ∧
    (onC (ab 0x8000000000000000 (BitVec.allOnes 64))).cur.getS 1 = 0x8000000000000000 ∧
    (onC (ab 0x8000000000000000 (BitVec.allOnes 64))).cur.getS 2 = BitVec.allOnes 64 := by decide +kernel

theorem witness_bit_field :
    (onC id).runs 0x07 = true ∧ 1 ≤ (1 : BitVec 6).toNat ∧ (63 : BitVec 6).toNat + (1 : BitVec 6).toNat ≤ 64 := by decide +kernel

theorem witness_wide_constant :
    (5 : BitVec 5) ≠ 0 ∧ (onC id).runs 0x09 = true ∧ (next (exec (.ldhi 5 0x1FFFFE) (onC id))).runs 0x05 = true := by decide +kernel

theorem witness_compares :
    (0 : BitVec 2) ≠ 3 ∧ (onC (ab 7 0)).runs 0x0B = true ∧ (onC (ab 7 0)).runs 0x0C = true ∧
    (onC (ab 7 0)).clean [1, 2] = true ∧ (onC (ab 7 0)).runs 0x0D = true ∧ (8 : BitVec 4).getLsbD 3 = true ∧
    (onC id).cur.getP 0 = true := by decide +kernel

/-- 1.0 and −infinity in f32, and a signalling NaN. -/
theorem witness_float_compares :
    (fmtOfCode 1).read 0x3F800000 = .num false 0x800000 (-23) ∧ (fmtOfCode 1).read 0xFF800000 = .inf true ∧
    ((fmtOfCode 1).read 0x7F800001).isNan = true ∧ ((fmtOfCode 1).read 0x7F800001).isSig = true := by decide +kernel

theorem witness_select :
    (onC id).runs 0x0E = true ∧ (onC id).bare 0x0E = true ∧ (0x38200001 : BitVec 32).toNat / 2 ^ 26 = 0x0E ∧
    (0x38200001 : BitVec 32).toNat % 2 ^ 6 ≠ 0 ∧ (0x38200001 : BitVec 32).extractLsb' 21 5 ≠ 0 := by decide +kernel

theorem witness_float :
    (onC id).runs 0x0F = true ∧ codeCvtInt 3 = true ∧ (onC id).runs 0x10 = true := by decide +kernel

theorem witness_exact :
    (3 : Nat) ≠ 0 ∧ (3 : Nat) < 2 ^ 64 ∧ |(6 : ℚ) / 4| = (3 : Nat) * (2 : ℚ) ^ (-1 : Int) ∧
    (9 / 4 : ℚ) = ((3 : Nat) * (2 : ℚ) ^ (-1 : Int)) ^ 2 := by norm_num

/-- One and a half in f32, a value between the largest and the next power of two, and 2 to the 128 beyond its range; the same
for e4m3, e2m1 and mxi8. -/
theorem witness_rounding :
    (3 : Nat) ≠ 0 ∧ |realOf false 3 (-1)| ≤ (Fmt.f32.top.2.1 : ℚ) * (2 : ℚ) ^ Fmt.f32.top.2.2 ∧
    (2 : ℚ) ^ ((2 : Int) ^ Fmt.f32.e - 1 - Fmt.f32.bias) ≤ |realOf false 1 128| ∧
    (Fmt.f32.top.2.1 : ℚ) * (2 : ℚ) ^ Fmt.f32.top.2.2 < |realOf false 67108863 102| ∧
    |realOf false 67108863 102| < (2 : ℚ) ^ ((2 : Int) ^ Fmt.f32.e - 1 - Fmt.f32.bias) ∧
    480 ≤ |realOf true 1 9| ∧ 448 < |realOf false 57 3| ∧ |realOf false 57 3| < 480 ∧
    8 ≤ |realOf false 1 3| ∧ 2 ≤ |realOf true 1 1| := by
  refine ⟨by decide, ?_, ?_, ?_, ?_, ?_, ?_, ?_, ?_, ?_⟩ <;>
    norm_num [realOf, Fmt.top, Fmt.e, Fmt.bias, Fmt.m]

/-- A value without overflow and one with it. -/
theorem witness_saturation :
    (Fmt.f32.round .rne false false 3 (-1)).2 &&& fOF = 0 ∧ (Fmt.f32.round .rne false false 1 128).2 &&& fOF = fOF := by
  decide +kernel

theorem witness_prefix :
    (onC id).cur.latch = none ∧ (onC (pre 0)).cur.latch.isSome = true ∧ ((onC id).cls 0x5001).isSome = true ∧
    16 ≤ (16 : BitVec 5).toNat ∧ (15 : BitVec 5).toNat < 16 := by decide +kernel

/-- A latch with the predicate p1, which is false. -/
theorem witness_disabled :
    let s := onC (pre 0x004)
    let z := onC (pre 0x045)
    encoded (.st 1 2 3 0 0) = true ∧ s.roomFor (.st 1 2 3 0 0) = true ∧ z.roomFor (.add 1 2 3) = true ∧ majorOf (.st 1 2 3 0 0) = 0x23 ∧ s.onClass 0x23 = true ∧
    s.cur.latch = some 0x004 ∧ lPK 0x004 = false ∧ (s.cur.getP (lPN 0x004) != lPI 0x004) = false ∧
    lDE 0x004 = false ∧ lZM 0x004 = false ∧ (rowOf (.st 1 2 3 0 0)).1 = true ∧
    scalarDestOf (.add 1 2 3) = some 1 ∧ majorOf (.add 1 2 3) = 0x02 ∧ z.onClass 0x02 = true ∧
    z.cur.latch = some 0x045 ∧ lDE 0x045 = true ∧ lZM 0x045 = true ∧ (rowOf (.add 1 2 3)).2.2 = true ∧
    (z.cur.getP (lPN 0x045) != lPI 0x045) = false := by decide +kernel

/-- The same with ZM, before instructions with other destinations and with none. -/
theorem witness_disabled_vectors :
    ([Instr.vadd 5 1 2 0 0, .vcmpeq 1 1 2 0, .mlog 1 2 3 0, .vredsum 3 1 2 0, .mpopc 3 1, .cmpeq 1 0 1 2,
        .st 1 2 3 0 0, .vatadd 3 1 0 0 0 0 0].all fun i => [3, 0, 4095].all fun vl =>
      let s := onV fun t => { pre 0x005 (vecs t) with vl := vl }
      encoded i && s.roomFor i && s.onClass (majorOf i) && s.cur.latch == some 0x005 && lZM 0x005 && !lPK 0x005 && !lDE 0x005 &&
        (s.cur.getP (lPN 0x005) != lPI 0x005) == false && (rowOf i).1 && s.cur.reissue == none && s.allResident &&
        (s.gathers s.cur.ref).isEmpty) = true ∧
    vectorDestOf (.vadd 5 1 2 0 0) = some 5 ∧ vectorDestOf (.vatadd 3 1 0 0 0 0 0) = some 3 ∧ lDE 0x045 = true ∧
    majorOf (.vfadd 5 3 4 0 0) = 0x18 ∧ maskDestOf (.vcmpeq 1 1 2 0) = some 1 ∧ maskDestOf (.mlog 1 2 3 0) = some 1 ∧
    reductionDestOf (.vredsum 3 1 2 0) = some 3 ∧ scalarDestOf (.cmpeq 1 0 1 2) = none ∧
    (onV vecs).vlmax 0x2003 16 < 4095 := by decide +kernel

/-- On a V-core: one C-core is eligible, or none. -/
theorem witness_class_trap :
    let v : State := { scratchTarget 0x5001 with cur := (onV id).cur }
    let eligible (s : State) (major : Nat) (k : Cls) : Option Nat := if inMark major k = true then s.chooseCore k false else none
    eligible v 0x02 .t = none ∧ eligible v 0x02 .v = none ∧ eligible v 0x02 .c = some 0x5001 ∧
    eligible (onV id) 0x02 .t = none ∧ eligible (onV id) 0x02 .v = none ∧ eligible (onV id) 0x02 .c = none := by decide +kernel

theorem witness_refused_prefix :
    let s := onC (pre 0x020)
    encoded (.add 1 2 3) = true ∧ s.onClass 0x02 = true ∧ s.cur.latch = some 0x020 ∧ lPK 0x020 = true ∧
    (rowOf (.add 1 2 3)).2.1 = false ∧
    lPK 0x002 = false ∧ majorOf (.fence 1 1) = 0x29 ∧ (rowOf (.fence 1 1)).1 = false ∧ s.onClass 0x29 = true ∧
    lDE 0x040 = true ∧ (rowOf (.st 1 2 3 0 0)).2.2 = false := by decide +kernel

theorem witness_missing_class :
    encoded .trel = true ∧ majorOf .trel = 0x20 ∧ (onC id).cls (onC id).cur.core = some .c ∧ inMark 0x20 .c = false := by
  decide +kernel

theorem witness_consumed :
    let s := onC fun t => { t with poison := 0x6 }
    let b := onC fun t => { t with poison := 0x4 }
    let c := onC fun t => { t with poison := 0x8 }
    ([s, b, c].all fun s => ([0x0B, 0x0C, 0x13, 0x23, 0x24, 0x25].all fun m => s.runs m) &&
      ([0x14, 0x29, 0x2D].all fun m => s.bare m) && s.onClass 0x24 && s.passes (true, false, false)) = true ∧
    s.cur.poisonedS 1 = true ∧ csrAssigned 0x020 = true ∧ b.cur.poisonedS 1 = false ∧ b.cur.poisonedS 2 = true ∧
    c.clean [1, 2] = true ∧ c.cur.poisonedS 3 = true := by decide +kernel

/-! ### Witnesses: control transfers, registers, traps -/

theorem witness_branches :
    let s := onC (ab 0x44 0)
    s.runs 0x11 = true ∧ (s.cur.getP 0 != ((0 : BitVec 1) == 1)) = true ∧
    (s.cur.getP 0 != ((1 : BitVec 1) == 1)) = false ∧ s.runs 0x13 = true ∧ s.clean [1] = true ∧
    s.runs 0x12 = true ∧ (0x48200004 : BitVec 32).toNat / 2 ^ 26 = 0x12 := by decide +kernel

def toCore (s : State) : State × Except (Nat × Word) Place :=
  s.touch { elem := 0, space := 0, addr := s.cur.getS 1, size := 1, write := false, aperture := false }

theorem witness_migrate :
    ([0x5001, 0x5002].all fun target =>
      let s := scratchTarget target
      s.bare 0x2D && s.clean [1] && (match toCore s with
        | (s1, .ok p) => (match s1.region p.pa with
          | .scratch o _ => o == target && s1.serves s1.cur.ctx o && s1.vlFits s1.cur o && !s1.cur.st stYIELD
          | _ => false)
        | _ => false)) = true := by decide +kernel

/-- A V-core does not take a thread whose `vl` is above its VLMAX (R28). -/
theorem witness_too_long : (onC (vec 3 4000 1 0x06 9)).vlFits (onC (vec 3 4000 1 0x06 9)).cur 0x2003 = false := by decide +kernel

theorem witness_csr :
    let s := onC id
    let p := onC sys
    s.bare 0x14 = true ∧ s.cur.scbusy = 0 ∧ s.cur.st stSYS = false ∧ p.cur.st stSYS = true ∧ p.bare 0x14 = true ∧
    0x800 ≤ (0x803 : BitVec 12).toNat ∧ s.clean [1] = true ∧ csrAssigned 0x7FF = false ∧
    (0x7FF : BitVec 12).toNat < 0x800 ∧ csrAssigned 0x804 = false := by decide +kernel

theorem witness_thread_trap :
    let s := onC id
    let x : Trap := { code := 0x0D, val := 5, elem := none, start := none }
    systemCause x.code = false ∧ x.start = none ∧ x.code < 256 ∧ s.cur.reissue = none ∧ s.cur.st stINTRAP = false ∧
    256 ≤ s.cur.trvec.toNat := by decide +kernel

/-- A save area at 0x40000. -/
def savable (s : State) : State := { mapped s with cur := { s.cur with saveArea := 0x40000 } }

theorem witness_convoy_trap :
    let s := savable (onV (vec 3 3 1 0x06 9))
    let x : Trap := { code := 8, val := 5, elem := some 4095, start := some 4095 }
    systemCause x.code = false ∧ x.start = some 4095 ∧ (4095 : Nat) < 4096 ∧ s.cur.reissue = none ∧
    s.cur.convoy.valid = false ∧ s.cur.st stINTRAP = false ∧ 256 ≤ s.cur.trvec.toNat ∧
    (s.saveWrite 0x0C0 8 5).2 = true := by decide +kernel

theorem witness_system_trap :
    let x : Trap := { code := 0x0E, val := 5, elem := none, start := none }
    let c : State := { onC id with systvec := 0x2000 }
    let q : State := { onC (fun t => { t with poison := 2 }) with systvec := 0x2000 }
    let v : State := { scratchTarget 0x5001 with cur := (onV id).cur, systvec := 0x2000 }
    let t (s : State) : Thread := s.cur.drain.trapRegs x false
    systemCause x.code = true ∧ x.start = none ∧ c.cur.reissue = none ∧ c.cur.st stINTRAP = false ∧
    256 ≤ c.systvec.toNat ∧ (t c).lowestPoison = none ∧ c.cls c.cur.core = some .c ∧
    (t q).lowestPoison = some (1, false) ∧
    (t v).lowestPoison = none ∧ v.cls v.cur.core ≠ some .c ∧
    State.chooseCore { v with cur := { ((t v).setSt stSYS true).setSt stINTRAP true with
      pc := v.systvec &&& ~~~0xFF } } .c true = some 0x5001 := by decide +kernel

theorem witness_fatal_trap :
    (onC id).hasXfer (onC id).cur.ref = false ∧ (onC id).systvec.toNat < 256 ∧
    (onC fun t => { t with trvec := 0 }).cur.trvec.toNat < 256 ∧
    (onC fun t => { t with tstat := 0x2000 }).cur.st stINTRAP = true := by decide +kernel

theorem witness_break :
    let s := onC id
    s.bare 0x2D = true ∧ s.cur.poisonedS 1 = false ∧ (onC fun t => { t with poison := 2 }).cur.poisonedS 1 = true ∧
    s.cur.st stINTRAP = false ∧ 256 ≤ s.cur.trvec.toNat ∧ s.cur.pc.toNat % 4 = 0 ∧ s.cur.reissue = none := by decide +kernel

/-- A handler's thread, and the same with a convoy record in its save area. -/
def handler : State := onC fun t => { t with tstat := 0x10002000, trpc := 0x40 }

def record : Convoy :=
  { valid := true, resume := 0x44, entries := [{ iaddr := 0x10, start := 2, vl := 4, pp := false, pfxl := 0 }] }

def resuming : State :=
  let s := (savable handler).saveWrite 0x0C0 8 record.word
  { s.1 with cur := { s.1.cur with convoy := record } }

theorem witness_returns :
    handler.bare 0x2D = true ∧ handler.cur.st stINTRAP = true ∧ handler.cur.convoy.valid = false ∧
    resuming.bare 0x2D = true ∧ resuming.cur.st stINTRAP = true ∧
    (match resuming.readConvoy with
      | (s1, some c) => c.valid && s1.clearConvoy.2
      | _ => false) = true ∧ (onC id).cur.st stINTRAP = false := by decide +kernel

/-! ### Witnesses: scalar memory -/

/-- LOCAL byte 0x40 of the core. -/
def spot (core : Nat) : Place := { pa := windowBase core + 0x40, attr := 0 }

theorem witness_checks :
    let s := onC id
    (1 : Word).toNat % 8 ≠ 0 ∧ (0x3FFF8 : Word).toNat % 8 = 0 ∧ (0x3FFF8 : Word).toNat + 8 ≤ s.localBytes s.cur.core ∧
    s.badRange (windowBase s.cur.core + 0x3FFF8) 8 = false ∧ s.localBytes s.cur.core < (0x40000 : Word).toNat + 8 ∧
    (0x8000000000000000 : Word).getLsbD 63 ≠ (0x8000000000000000 : Word).getLsbD 56 := by decide +kernel

theorem witness_access :
    let s := onC (ab 0x40 9)
    s.access 1 0x40 8 wantLoad = (s, .ok (spot 0x5001)) ∧ s.access 1 0x40 8 wantStore = (s, .ok (spot 0x5001)) ∧
    s.access 1 0x40 8 wantAtomic = (s, .ok (spot 0x5001)) ∧
    s.access 1 0x40 8 { wantLoad with window := true } = (s, .ok (spot 0x5001)) ∧
    s.access 1 0x40 8 { wantLoad with w := true, window := true } = (s, .ok (spot 0x5001)) ∧
    s.access 1 0x40 8 { wantStore with window := true } = (s, .ok (spot 0x5001)) ∧
    good ((mapped s).access 0 0x40 8 wantLoad) = true :=
  ⟨rfl, rfl, rfl, rfl, rfl, rfl, by decide⟩

theorem witness_loads :
    let s := onC (ab 0x40 9)
    s.cur.poisonedS 1 = false ∧ s.runs 0x22 = true ∧ (6 : BitVec 3) ≠ 7 ∧ s.plainAt (spot 0x5001) = true ∧
    s.storesTo (spot 0x5001) 8 = true ∧
    ({ mapped s with dies := [(0, { DieSt.reset with cut := true })] } : State).storeLost 0x40 8 = true ∧
    s.runs 0x24 = true ∧ s.runs 0x23 = true ∧ s.clean [1, 2] = true ∧ s.onClass 0x24 = true ∧
    s.passes (true, false, false) = true ∧ s.watched (spot 0x5001).pa 8 = false ∧
    (onC fun t => { t with poison := 2 }).cur.poisonedS 1 = true ∧
    (onC fun t => { t with poison := 2 }).cur.latch = none ∧
    (onC fun t => { t with poison := 2 }).runs 0x22 = true := by decide +kernel

theorem witness_loads_inv : (onC (ab 0x40 9)).Inv := rfl

theorem witness_waits :
    let s := onC (ab 0x40 9)
    let f : State := { s with full := [(spot 0x5001).pa / 16] }
    f.full.contains ((spot 0x5001).pa / 16) = true ∧ s.full.contains ((spot 0x5001).pa / 16) = false ∧
    s.feWaiters = [] ∧ s.bare 0x29 = true ∧ s.monitors = [] ∧ readNat s.mem (spot 0x5001).pa 8 ≠ 9 ∧
    readNat (onC (ab 0x40 0)).mem (spot 0x5001).pa 8 = 0 := by decide +kernel

/-- A thread in WAITA on LOCAL byte 0x40 of core 0x5001, armed with 0, beside a thread in RUN. -/
def waiting : State :=
  let t : Thread := { Thread.null with
    tid := 1, run := .waitb, core := 0x5001, wait := some (.waita 0x40 (spot 0x5001).pa false true 0 3 true) }
  { onC id with threads := [t]
                monitors := [{ ref := t.ref, die := none, pa := (spot 0x5001).pa, wide := true, cmp := 0 }] }

theorem witness_wait_served :
    (waiting.threads.map fun t => (waiting.cur.named t.ref, t.run, t.latch)) = [(false, .waitb, none)] ∧
    waiting.plainAt (spot 0x5001) = true ∧ 5 % 2 ^ 64 ≠ (0 : Word).toNat := by decide +kernel

theorem witness_wait_inv : waiting.Inv := rfl

theorem witness_atomics :
    let s := onC (ab 0x40 9)
    s.runs 0x25 = true ∧ s.clean [1, 2] = true ∧ s.cur.poisonedS 3 = false ∧ s.plainAt (spot 0x5001) = true ∧
    readNat s.mem (spot 0x5001).pa 8 = (s.cur.getS 3).toNat ∧ readNat s.mem (spot 0x5001).pa 8 ≠ (s.cur.getS 1).toNat := by
  decide +kernel

/-- Context 0 with a group of one member, logical core 0, which is a core. -/
def grouped (f : Thread → Thread) : State :=
  { onC f with tables := [
      ({ tbl := 0, ctx := 0, index := 0, word := 0 }, BitVec.ofNat 256 (1 + 2 ^ 208)),
      ({ tbl := 1, ctx := 0, index := 0, word := 0 }, BitVec.ofNat 256 (1 + 2 ^ 32 * 0x5002)),
      ({ tbl := 5, ctx := 0, index := 0, word := 0 }, BitVec.ofNat 256 1)] }

theorem witness_group :
    let s := grouped (ab 0x40 0)
    let f := { grouped (ab 0x40 0) with bad := [windowBase 0x5002 + 0x40] }
    s.runs 0x22 = true ∧ s.cur.poisonedS 1 = false ∧ s.cur.stall = none ∧ (0x40 : Word).toNat % 4 = 0 ∧
    let m : Option (Nat × Nat) := some (0, 0x5002)
    s.groupPlace 0x40 4 = some [m] ∧ (onC id).groupPlace 0x40 4 = none ∧
    s.memberReply 0 0x40 4 m = .value 0 ∧ f.memberReply 0 0x40 4 m = .failed ∧
    (grouped fun t => { ab 0x40 0 t with stall := some (.group 3 0 3 0x40 [(m, .pending)]) }).cur.stall =
      some (.group 3 0 3 0x40 [(m, .pending)]) := by decide +kernel

/-- The second core of a V-die with the largest stash, and a range to bind at s1; s2 is length 1 page. -/
def stashed (f : Thread → Thread) : State :=
  { mapped (onV f) with cores := [(0x2003, { CoreSt.reset 0x2003 0 with stash := 3, tlb := [entry0] })] }

theorem witness_ordering :
    let s := stashed (ab 0x1000 0x100000000)
    let m : State := { s with cores := [(0x2003, { s.core 0x2003 with
      stashMaps := [{ off := 0, len := 4096, ctx := 0, vbase := 0x1000 }] })] }
    s.bare 0x29 = true ∧ s.clean [1, 2] = true ∧ s.stashStatus 0x1000 0 4096 = 0 ∧ s.stashStatus 0x1001 0 4096 ≠ 0 ∧
    (m.core 0x2003).stashMaps.any (fun x => x.ctx == 0 && decide (x.off ≤ 0) && decide (0 < x.off + x.len)) = true ∧
    (s.core 0x2003).stashMaps.any (fun x => x.ctx == 0 && decide (x.off ≤ 0) && decide (0 < x.off + x.len)) = false ∧
    (match (s.openGuard 0x2003).writeBackRange false 2 0x1000 0x1100 with
      | (_, .ok _) => true
      | _ => false) = true ∧ s.cur.memoryOpen = false ∧
    (onV fun t => { t with mq := [{ flags := 0, drains := true, divided := false, tile := none, requests := true }] }).cur.memoryOpen =
      true := by decide +kernel

def privLine : PrivLine := { line := 3, valid := 1, data := 0x55, dirty := 1 }

def privately : State := { onC id with dies := [(5, { DieSt.reset with lines := [privLine] })] }

theorem witness_write_back : privately.Inv ∧ privately.priv 5 3 = some privLine := ⟨rfl, rfl⟩

/-! ### Witnesses: vectors -/

theorem witness_vector_configuration :
    let s := onV (vec 3 3 1 0x06 9)
    s.bare 0x16 = true ∧ (s.gathers s.cur.ref).isEmpty = true ∧ s.cur.reissue = none ∧ s.cur.poisonedS 1 = false ∧
    s.cur.st stPREQ = false ∧ s.cur.st stYIELD = false ∧ s.cur.target = none ∧ (3 : BitVec 5).toNat ≤ (31 : BitVec 5).toNat ∧
    1 ≤ (0x0C : BitVec 5).toNat ∧ tagInt 0x08 = true ∧ tagInt 0x0C = false := by decide +kernel

/-- A mask predicate m1 with ZM, and m1 with elements 0 and 2. -/
def masked (t : Thread) : Thread := pre 0x025 { t with m := t.m.set 1 5 }

/-- A vector instruction of nine 32-bit elements with some left to take their slots. -/
def ventry (left : Nat) : VEntry :=
  { flags := 1, vl := 9, start := 0, left := left, taken := 0, width := 32, slots := .each 1, dst := [3], src := [], whole := []
    place := true, requests := false }

/-- R358: a fifth vector instruction finds its queue full. -/
theorem witness_full_queue :
    let s := onV fun t => { vecs t with vq := List.replicate 4 (ventry 9) }
    encoded (.vadd 5 1 2 0 0) = true ∧ majorOf (.vadd 5 1 2 0 0) < 0x3C ∧ s.onClass 0x17 = true ∧
    s.roomFor (.vadd 5 1 2 0 0) = false ∧ (onV vecs).roomFor (.vadd 5 1 2 0 0) = true := by decide +kernel

theorem witness_vector_major :
    ([id, masked].all fun p => let s := onV fun t => p (vecs t)
      ([0x17, 0x18, 0x19, 0x1A, 0x1B, 0x1C, 0x1D, 0x1E, 0x1F, 0x26, 0x27, 0x28].all fun m => s.runs m) &&
      s.vready 16 && s.vready 32 && s.vready 64 && s.vready 8 && s.vready 4) = true := by decide +kernel

theorem witness_vector_integer :
    let s := onV vecs
    let ops := [VOpd.reg 1, opdOf 0 2]
    combinedTag 0x04 (opdTags s.cur ops) = 0x02 ∧ tagInt 0x02 = true ∧ (ops.any fun o => o.poisoned s.cur) = false ∧
    combinedTag 0x04 [s.cur.srcTag 1] = 0x06 ∧ (VOpd.reg 1).poisoned s.cur = false ∧
    (opdOf 1 2).poisoned s.cur = false ∧ (opdOf 2 3).poisoned s.cur = false := by decide +kernel

theorem witness_vector_float :
    let s := onV vecs
    let ops := [VOpd.reg 3, opdOf 0 4]
    combinedTag 0x04 (opdTags s.cur ops) = 0x0A ∧ fmtOfTag 0x0A = some .f32 ∧
    (ops.any fun o => o.poisoned s.cur) = false ∧ floatK 0x0A = 0x0A ∧ approxK 0x0A = 0x0A := by decide +kernel

theorem witness_vector_move :
    let s := onV vecs
    (s.cur.getV 1).tag ≠ 0 ∧ (s.cur.getV 5).tag = 0 ∧ s.onClass 0x17 = true ∧
    s.passes (noSecond (accepts 0x17) (tagBlock 0x06)) = true ∧ s.cur.poisonedV 1 = false ∧ s.vready 16 = true ∧
    s.vready (max (tagWidth 0) (tagWidth (compTag 0))) = true ∧
    codeMovTag 0xF 0xF = true ∧ codeMovTag 0xC 0xC = true ∧ s.cur.poisonedS 2 = false ∧ s.vready (tagWidth 0xF) = true ∧
    tagBlock 0x10 = true ∧ (onV (vec 3 3 1 0x10 9)).passes (noSecond (accepts 0x17) true) = true ∧
    (onV (vec 3 3 1 0x10 9)).vready 32 = true := by decide +kernel

theorem witness_vector_conversion :
    let s := onV vecs
    s.cur.poisonedV 1 = false ∧ s.runs 0x1B = true ∧ codeVcvt 0x0A 7 = true ∧ fmtOfTag 0x0A = some .f32 ∧
    codeVcvt 0x03 7 = true ∧ fmtOfTag 0x03 = none ∧ (codeFmt 0x0A).isSome = true ∧ (codeFmt 0x06).isSome = false ∧
    s.vready (max (srcWidth s.cur 0x0A (.reg 1)) 32) = true ∧ s.vready (max (srcWidth s.cur 0x03 (.reg 3)) 32) = true ∧
    s.onClass 0x1B = true ∧ s.passes (noSecond (accepts 0x1B) true) = true ∧ codeVquant 1 7 = true ∧
    s.vready (max (srcWidth s.cur 0x0A (.reg 3)) (tagWidth 0x11)) = true ∧ codeFmt 0x11 = some .e4m3 := by decide +kernel

theorem witness_block_scale :
    FVal.invalid.isNan = true ∧ FVal.isZero (.num true 0 0) = true ∧ (3 : Nat) ≠ 0 := by decide +kernel

theorem witness_vector_compare :
    let s := onV vecs
    let p := onV fun t => t.setV 2 { VReg.zero with tag := 0x1F } |> vec 3 3 1 0x06 9
    let ops := [VOpd.reg 1, opdOf 0 2]
    firstPoisoned s.cur 0 ops = none ∧ s.vready 16 = true ∧ firstPoisoned p.cur 0 ops = some 0x62 ∧ p.runs 0x1A = true ∧
    p.vready 16 = true ∧ s.runs 0x1F = true ∧ s.cur.reissue = none := by decide +kernel

theorem witness_permutation :
    let s := onV vecs
    (s.cur.getV 1).tag ≠ 0 ∧ s.cur.ownPoison 1 = false ∧ s.cur.ownPoison 2 = false ∧ s.cur.poisonedS 2 = false ∧
    s.runs 0x1D = true ∧ s.vready (tagWidth (3 + 1)) = true ∧
    s.vready (max 16 (gatherWidth s.cur (opdOf 0 2))) = true ∧ codeSlide 2 15 = true ∧ s.onClass 0x1D = true ∧
    s.passes (noMask (accepts 0x1D)) = true := by decide +kernel

theorem witness_reduction :
    let s := onV vecs
    s.runs 0x1E = true ∧ s.vready (max (srcWidth s.cur 0x04 (.reg 1)) 16) = true ∧ s.cur.poisonedV 1 = false ∧
    s.cur.poisonedS 2 = false ∧ s.vready (max 16 (tagWidth (moveTag (s.cur.srcTag 1)))) = true ∧
    s.cur.ownPoison 1 = false ∧ s.cur.vl ≠ 0 ∧ s.cur.reissue = none ∧ s.allResident = true := by decide +kernel

theorem witness_vector_length :
    let z := onV id
    let l := onV (vec 3 4095 1 0x06 9)
    let p := onV fun t => t.setV 2 { VReg.zero with tag := 0x1F } |> vec 3 3 1 0x06 9
    z.cur.vl = 0 ∧ z.runs 0x17 = true ∧ z.runs 0x1A = true ∧ l.cur.vl ≠ 0 ∧ l.vlmax l.cur.core 64 < l.cur.vl.toNat ∧
    p.vready 16 = true ∧ p.cur.latch = none ∧ ([VOpd.reg 1, opdOf 0 2].any fun o => o.poisoned p.cur) = true := by decide +kernel

/-- Three elements in LOCAL space from byte 0x40 on. -/
def vlocal (f : Thread → Thread) : State := onV fun t => { f (ab 0x40 4 t) with vspace := 1, vl := 3 }

/-- Every access has a place, in plain memory. -/
def allGood (s : State) (space : Nat) (k : Want) (l : List Acc) : Bool :=
  match s.placeAll space false k l with
  | (t, places, none) => places.all fun p => t.storesTo p.2 p.1.size
  | _ => false

theorem witness_vector_loads :
    ([Instr.vld16 3 1 0 0 0 0 0, .vld32 3 1 2 1 0 0 0, .vld8 3 1 2 2 0 0 0, .vld4 3 1 0 0 0 0, .vldmx8 3 1 0 0 0 0].all
      fun i => match vloadForm i with
        | some (_, x, _, _, _) => let s := vlocal (vec 3 3 2 0x05 4)
          s.onClass 0x26 && s.passes (noSecond (accepts 0x26) x.block) && s.room 0x26 && s.vready (max x.z (x.indexWidth s.cur)) &&
            x.poison s.cur == none && allGood s 1 wantLoad (x.accs s.cur (s.cur.enabled s.cur.latch) s.cur.start)
        | none => false) = true := by decide +kernel

/-- The last element lies beyond the scratchpad. -/
theorem witness_vector_load_fault :
    (match vloadForm (.vld32 3 1 0 0 0 0 0) with
      | some (_, x, _, _, _) => let s := onV fun t => { ab 0xFFFF8 4 t with vspace := 1, vl := 3 }
        s.vready (max x.z (x.indexWidth s.cur)) && x.poison s.cur == none &&
          (match s.placeAll 1 true wantLoad (x.accs s.cur (s.cur.enabled s.cur.latch) s.cur.start) with
            | (_, _, some (c, v, y, _)) => c == 9 && v == 0x100000 && y.elem == 2
            | _ => false)
      | none => false) = true := by decide +kernel

theorem witness_vector_stores :
    ([Instr.vst16 3 1 0 0 0 0 0, .vst32 3 1 2 1 0 0 0, .vst8 3 1 2 2 1 0 0, .vst4 3 1 0 0 0, .vstmx8 3 1 0 0 0].all
      fun i => match vstoreForm i with
        | some (d, x, _) => let s := vlocal fun t => vec 3 3 3 0x05 7 (vec 3 3 2 0x05 4 t)
          s.runs 0x27 && s.vready (max x.z (x.indexWidth s.cur)) && storePoison s.cur d x == none &&
            s.monitors.isEmpty && allGood s 1 wantStore (x.accs s.cur (s.cur.enabled s.cur.latch) s.cur.start)
        | none => false) = true := by decide +kernel

theorem witness_vector_atomics :
    ([Instr.vatadd 3 1 0 0 0 0 0, .vatmax 3 1 2 1 1 0 0].all fun i => match vatomicForm i with
        | some (d, a, b, mode, _, _) => let s := vlocal fun t => vec 3 3 3 0x03 7 t
          let x : Addressing := { mode := mode, a := a, b := b, z := 32, block := false }
          atomicWidth (s.cur.getV d).tag == some (32, true) && s.runs 0x28 && s.vready (max 32 (x.indexWidth s.cur)) &&
            atomicPoison s.cur d x == none &&
            allGood s 1 wantAtomic (x.accs s.cur (s.cur.enabled s.cur.latch) s.cur.start)
        | none => false) = true := by decide +kernel

/-- One element: the place list has one entry. -/
theorem witness_vector_atomic_one :
    (let s := vlocal fun t => { vec 1 1 3 0x03 7 t with vl := 1 }
     let x : Addressing := { mode := 0, a := 1, b := 0, z := 32, block := false }
     let s1 : State := { s with cur := { s.cur with vl := 1 } }
     (s1.placeAll 1 false wantAtomic (x.accs s1.cur (s1.cur.enabled none) 0)).2.1.length) = 1 := by decide +kernel

/-! ### Witnesses: tiles -/

/-- A T-core whose thread holds the grant of mode 0 with 128 rows. -/
def tiled (f : Thread → Thread) : State :=
  let s := mapped (onT fun t => { f t with tshape := 0x80002000 })
  { s with cores := [(0, { CoreSt.reset 0 0 with tlb := [entry0], tile := { Tile.reset with holder := some s.cur.ref } })] }

theorem witness_tile_state :
    let s := onT id
    let b := onT fun t => { t with mq := [{ flags := 0, drains := false, divided := false, tile := none }] }
    let other : State := { s with cores := [(0, { CoreSt.reset 0 0 with tile := { Tile.reset with
      holder := some { ctx := 3, tid := 3 } } })] }
    s.runs 0x20 = true ∧ s.cur.st stMSM = false ∧ s.cur.poisonedS 1 = false ∧ (s.core s.cur.core).tile.holder = none ∧
    (other.core 0).tile.holder = some { ctx := 3, tid := 3 } ∧ ({ ctx := 3, tid := 3 } : TRef) ≠ other.cur.ref ∧
    other.moveForGrant = none ∧ b.runs 0x20 = true ∧ b.cur.mq ≠ [] ∧ b.cur.poisonedS 1 = false ∧ (tiled id).runs 0x20 = true ∧ ((tiled id).core 0).tile.holder = some (tiled id).cur.ref ∧
    s.cur.tshape.getLsbD 31 = false ∧ (tiled id).cur.tshape.getLsbD 31 = true := by decide +kernel

theorem witness_accumulator :
    let s := tiled fun t => { ab 0x40 0 t with vl := 3 }
    let at' (len : Nat) := position s.cur.tshape 0 (s.cur.getS 2) len
    s.runs 0x20 = true ∧ s.cur.poisonedS 2 = false ∧ (at' 0).isSome = true ∧
    position s.cur.tshape 3 (BitVec.allOnes 64) 0 = none ∧ s.clean [1, 2] = true ∧ s.cur.vl ≠ 0 ∧ (at' 3).isSome = true ∧
    s.cur.reissue = none ∧ (s.cur.getS 1).toNat % 4 = 0 ∧ (drainFmt 0).2 = 4 ∧ s.onClass 0x20 = true ∧
    s.passes (true, true, false) = true ∧ s.cur.vl.toNat ≤ 64 ∧
    allGood s 1 wantLoad (drainAccs s.cur 0x40 4 0 fun _ => true) = true ∧
    allGood s 1 wantStore (drainAccs s.cur 0x40 4 0 (s.cur.enabled none)) = true := by decide +kernel

/-- A tile of the smallest shape in LOCAL space: base 0x40, stride 0x40, one row by one element. -/
theorem witness_tile_multiply :
    let s := tiled (ab 0x40 0x100010040)
    let sh := s.cur.tshape
    let x := bOpd sh (encode (.tldb 1 2 0 1 0)) 0x40 0x100010040
    let y := aOpd sh 0 0 0x40 0x100010040
    let within (l : List Acc) : Bool := l.all fun y => decide (y.addr.toNat + y.size ≤ s.localBytes 0) &&
      !s.badRange (windowBase 0 + y.addr.toNat) y.size
    s.runs 0x20 = true ∧ s.clean [1, 2] = true ∧ s.cur.st stMSM = false ∧ sh.getLsbD 31 = true ∧ s.cur.reissue = none ∧
    x.violation (min (0x100010040 / 65536 % 1024) (shapeK sh)) = none ∧ x.violation (min (0x100010040 / 2 ^ 32 % 1024) (shapeN sh)) = none ∧
    within (bAccs sh x 0x100010040) = true ∧ allGood s 1 wantLoad (bAccs sh x 0x100010040) = true ∧
    shapeM sh * shapeN sh ≤ 16384 ∧ y.violation (min 1 (tileRows sh)) = none ∧ y.violation (min 1 (shapeK sh)) = none ∧
    within (aAccs sh 0 0 0x40 0x100010040) = true := by decide +kernel

/-- Products: finite ones; zero by infinity; infinities of either sign; a NaN behind a finite one. -/
theorem witness_block_sum :
    let one : FVal := .num false 1 0
    (one.isNan || one.isInf) = false ∧ (FVal.inf true).isInf = true ∧ (FVal.num false 0 0).isZero = true ∧
    (FVal.inf true).isNan = false ∧ ((FVal.inf true).neg != one.neg) = true ∧ ((FVal.inf false).neg != one.neg) = false ∧
    [(one, one), (FVal.nan true true 5, one)] = [(one, one)] ++ (FVal.nan true true 5, one) :: [] := by decide +kernel

/-! ### Witnesses: contexts, streams and messages -/

/-- Context 0: logical cores 0 and 1 are C-cores 0x5001 and 0x5002; channels 0 and 1 end at them, with 4 slots at
0x1000; torus coordinate 0 is the package; s1 = 0x40, s2 = 16. -/
def world (f : Thread → Thread) : State :=
  { mapped (onC fun t => f (ab 0x40 16 t)) with
    tables := [cell 0 0 0 descriptor, cell 0 0 1 descriptor, cell 1 0 0 (1 + 2 ^ 32 * 0x5001),
      cell 1 0 1 (1 + 2 ^ 32 * 0x5002), cell 2 0 0 1, cell 3 0 0 (1 + 4 * 2 ^ 96 + 0x1000 * 2 ^ 128),
      cell 3 0 1 (1 + 2 ^ 64 + 4 * 2 ^ 96 + 0x1000 * 2 ^ 128)] }

/-- A block in LOCAL byte 0x40 on. -/
def block (s : State) (v : Nat) : State := { s with mem := writeNat s.mem (spot 0x5001).pa 64 v }

/-- A context with one thread in RUN to save from another, with the image at 0x20000; and the states of its save. -/
theorem witness_context :
    let s := world sys
    let o : Thread := { Thread.null with ctx := 1, tid := 5, run := .run, core := 0x5002 }
    let p : State := { s with threads := [o], cur := ab 1 0x20000 s.cur }
    let saving : CtxSt := { CtxSt.reset with saving := some { deadline := 0, base := 0x20000, via := none } }
    let q : State := { p with ctxs := [(1, saving)], cur := { p.cur with stall := some (.ctxsave 3 1 0x20000) } }
    s.bare 0x2D = true ∧ s.clean [1, 2] = true ∧ (world id).cur.st stSYS = false ∧ p.cur.st stSYS = true ∧ p.cur.stall = none ∧
    (p.cur.getS 1).toNat % 4096 = 1 ∧ p.cur.ctx ≠ 1 ∧ tvalid (p.descr 1) = true ∧ tvalid (p.descr 5) = false ∧
    (p.members 1).isEmpty = false ∧ (p.ctxSt 1).isSaved = false ∧ (p.ctxSt 1).saving = none ∧ p.imageBound 1 = 768 ∧
    ([some 0, none].all fun via => (List.range 3).all fun k => (p.imagePlace via (0x20000 + 256 * k) true).isSome) = true ∧
    (0x20001 : Nat) % 4096 ≠ 0 ∧ p.imagePlace (some 0) 0x40000000 true = none ∧ p.cur.run = .run ∧
    ((p.members 1).all fun t => t.run == .run) = true ∧
    (q.ctxSt 1).saving.isSome = true ∧ q.savingCtx 1 = true ∧ p.savingCtx 1 = false ∧
    q.cur.stall = some (.ctxsave 3 1 0x20000) ∧ (s.unit 0).full = false ∧ tvalid (s.descr 0) = true ∧
    s.completionPlace 0 0x20000 = some 0x20000 ∧ s.completionPlace 0 0x20001 = none := by decide +kernel

/-- A context whose threads are all saved, and its image's pieces are writable. -/
theorem witness_image :
    let o : Thread := { Thread.null with ctx := 1, tid := 5, run := .saved, core := 0x5002 }
    let v : Saving := { deadline := 0, base := 0x20000, via := none }
    let s : State := { world id with threads := [o], ctxs := [(1, { CtxSt.reset with saving := some v })] }
    (s.ctxSt 1).saving = some v ∧ s.settled 1 = true ∧ v.via = none ∧ (s.image 1).2 = 768 ∧ v.base + 768 ≤ 0xC000000000 ∧
    ((s.clearStashes 1).imageWrite none 0x20000 1 5 2).2 = true ∧ (s.imageWrite none 0x20000 0 5 1).2 = true := by decide +kernel

theorem witness_image_inv : (world id).Inv := by
  show Memory.wf _ = true; decide +kernel

/-- The header of an image of context 1: LIVE, and the number of thread records. -/
def header (live nt : Nat) : Nat :=
  0x49585443 + 2 ^ 64 + live * 2 ^ (8 * 0x18) + 2 ^ (8 * 0x20) + nt * 2 ^ (8 * 0x24) + (256 + 512 * nt) * 2 ^ (8 * 0x38)

/-- Such an image at 0x20000, with its first thread record. -/
def imaged (live nt rec : Nat) : State :=
  let s := world sys
  { s with mem := writeNat s.mem 0x20000 (256 + 512 * nt) (header live nt + rec * 2 ^ 2048), cur := ab 1 0x20000 s.cur }

theorem witness_restore :
    let f (h off n : Nat) : Nat := bits h (8 * off) (8 * n)
    let readable (s : State) (via : Option Nat) (n : Nat) : Bool := (List.range n).all fun k =>
      match s.imagePlace via (0x20000 + 256 * k) false with
      | some p => !s.badRange p.pa 256
      | none => false
    let shows (s : State) (h : Nat) : Bool := s.bare 0x2D && s.clean [1, 2] && s.cur.st stSYS &&
      (s.cur.getS 1).toNat % 4096 == 1 && (s.cur.getS 2).toNat == 0x20000 && readable s (some 0) 1 && readable s none 1 &&
      (s.imageRead (some 0) 0x20000 1).2 == h
    let u : State := { imaged 0 0 0 with threads := [{ Thread.null with ctx := 1, tid := 5, run := .run, core := 0x5002 }] }
    let n := imaged 0 1 0
    let c : State := { imaged 0 1 (0x5001 * 2 ^ 16) with tables := (world id).tables ++ [cell 1 1 0 (1 + 2 ^ 32 * 0x5001)] }
    shows (imaged 128 0 0) (header 128 0) = true ∧ shows u (header 0 0) = true ∧ shows n (header 0 1) = true ∧
    shows c (header 0 1) = true ∧
    ([header 128 0, header 0 0, header 0 1].all fun h => f h 0 8 == 0x49585443 && f h 8 4 == 1 && f h 0x22 2 == 0 &&
      f h 0x34 4 == 0 && f h 0x48 184 == 0 && f h 0x20 2 == 1 && f h 0x28 4 == 0 && f h 0x2C 4 == 0) = true ∧
    ((world id).imageRead (some 0) 0x20000 1).2 = 0 ∧ f 0 0 8 ≠ 0x49585443 ∧ c.devfeat = 0x7F ∧
    (f (header 128 0) 0x18 8 &&& (2 ^ 64 - 1 - 0x7F)) = 128 ∧ (f (header 0 1) 0x18 8 &&& (2 ^ 64 - 1 - 0x7F)) = 0 ∧
    (u.members 1).isEmpty = false ∧ (u.ctxSt 1).isSaved = false ∧ (c.members 1).isEmpty = true ∧ c.savingCtx 1 = false ∧
    f (header 0 1) 0x38 8 = 768 ∧ readable c (some 0) 3 = true ∧ f (header 0 1) 0x24 4 = 1 ∧
    n.restoreCore 1 0 = none ∧ c.restoreCore 1 (0x5001 * 2 ^ 16) = some 0x5001 ∧
    c.imagePlace (some 0) 0x40000000 false = none ∧ (0x20001 : Nat) % 4096 ≠ 0 := by decide +kernel

/-- What the records of a thread, a launch, a domain and a scratchpad, and the place of a restored thread, ask; that its
block loads, witness_migration shows. -/
theorem witness_records :
    let s := world id
    let t : Thread := { Thread.null with tid := 9 }
    let l : Launch := { ctx := 0, num := 0, n := 2, l := 1, widths := [3, 1, 1, 1], entry := 0, arg := 0, compVa := 0x20000
                        comp := 0x20000, save := 0x40000, placeSet := 1, placement := 0 }
    let d : Domain := { ctx := 0, launch := 0, level := 0, num := 0, phase := 0, arrivals := 1, expected := 2 }
    t.launch = l.num ∧ s.find t.ref = none ∧ s.find s.cur.ref = some s.cur ∧ t.wait = none ∧
    (l.widths.all fun w => decide (1 ≤ w ∧ w ≤ 65536)) = true ∧
    ({ s with launches := [l] } : State).launches.find? (fun x => x.ctx == 0 && x.num == l.num) = some l ∧
    d.launch = l.num ∧ d.level < 256 ∧ s.corePhys 0 0 = some 0x5001 ∧ s.cls 0x5001 = s.cls 0x5002 ∧ s.monitors = [] ∧
    s.cur.mig = none ∧
    (s.queue 0x5002).length < 64 ∧ (s.core 0x5002).arrivals = [] ∧ (s.core 0x5002).refusals = [] := by decide +kernel

/-- The destinations of a STRMV where the registers' contents lie in the core. -/
theorem witness_stream_fields : ((onV vecs).tagDests 3 [1, 2]).2 = true := by decide +kernel

/-- STRM blocks: 8-byte elements from LOCAL to LOCAL memory, and the refused ones. -/
theorem witness_streams :
    let s := block (world fun t => { t with vl := 3 }) (0x1000 * 2 ^ 64 + 8 * 2 ^ 128 + 8 * 2 ^ 192 + 3 * 2 ^ 256 + 2 ^ 259 + 2 ^ 260)
    let r := block (world id) (5 * 2 ^ 256 + 2 ^ 320)
    s.bare 0x2A = true ∧ s.cur.run = .run ∧ s.cur.dying = false ∧ s.cur.reissue = none ∧ s.cur.scbusy = 0 ∧
    scBusy s.cur.sc[3] = false ∧ s.cur.pending = [] ∧ (s.core 0x5001).streamQ.length < 16 ∧ s.clean [1] = true ∧
    good (s.readBlock 1 0x40) = true ∧ (s.readBlock 1 0x40).1.cur.vl = 3 ∧
    (match s.readBlock 1 0x40 with
      | (_, .ok b) => decide (bits b 256 3 ≤ 3) && !collRefused (2 ^ 32 + 2 ^ 64 + 0x0A * 2 ^ 8) && collRefused b
      | _ => false) = true ∧
    (match r.readBlock 1 0x40 with
      | (_, .ok b) => decide (4 < bits b 256 3) && b.testBit 320
      | _ => false) = true ∧
    good (s.touchAll [{ elem := 2, space := 1, addr := 0x1010, size := 8, write := true, aperture := true }]) = true ∧
    good (s.touchAll [{ elem := 2, space := 1, addr := 0x40000, size := 8, write := true, aperture := true }]) = false ∧
    s.streaming [1, 2] = false ∧ s.tooLong 64 = false ∧ (s.loadVs [1, 2]).2 = true := by decide +kernel

/-- A COLL of one rank and one f32 element: the rank table at 0x20000 names a buffer and a READY word. -/
theorem witness_collective :
    let b := 0x0A * 2 ^ 8 + 2 ^ 32 + 2 ^ 64 + 0x20000 * 2 ^ 128 + 0x30000 * 2 ^ 192 + 5 * 2 ^ 320
    let w := block (world id) b
    let s : State := { w with mem := writeNat (writeNat w.mem 0x20000 8 0x21000) 0x20008 8 0x22000 }
    let t (e : Nat) (a : Word) (z : Nat) (w : Bool) : Touch :=
      { elem := e, space := 0, addr := a, size := z, write := w, aperture := true }
    (match s.readBlock 1 0x40 with
      | (s1, .ok blk) => blk == b && !collRefused blk &&
        (match s1.touchAll [t 0 0x20000 8 false, t 0 0x20008 8 false] with
          | (s2, .ok places) => places.all (fun q => !s2.badRange q.pa 8) && (s2.rankWords places).2 == [0x21000, 0x22000]
          | _ => false) &&
        good (s1.touchAll [t 0 0x22000 8 false, t 0 0x22000 8 true, t 0 0x21000 4 false, t 0 0x30000 4 true])
      | _ => false) = true := by decide +kernel

theorem witness_stream_wait :
    let s := world id
    let h := world fun t => { t with tstat := 0x1000, ulipc := 0x44, sc := t.sc.set 3 0x17 }
    s.bare 0x2A = true ∧ s.clean [2] = true ∧ s.cur.scbusy = 0 ∧
    2 ^ 31 ≤ (BitVec.ofNat 32 0 - (s.cur.getS 2).setWidth 32).toNat ∧
    (BitVec.ofNat 32 0x17 - (h.cur.getS 2).setWidth 32).toNat < 2 ^ 31 ∧ h.cur.st stINUI = true ∧ s.cur.st stINUI = false := by
  decide +kernel

def msg0 : Msg :=
  { cls := 0, sender := { ctx := 0, tid := 0 }, dstPkg := 0, dstCore := 0x5001, dstCtx := 0, chan := 0, len := 16,
    data := 5, srcCore := 0x5002, srcPkg := 0, seq := 0, time := 0, pa := 0, refused := false }

theorem witness_sends :
    let s := world id
    let full : State := { s with cores := [(0x5001, { s.core 0x5001 with retry := List.replicate 8 msg0 })] }
    let n : State := { s with tables := [] }
    s.bare 0x2B = true ∧ (s.channel 0 0).isSome = true ∧ s.sendStalls 0 = false ∧ full.sendStalls 0 = true ∧
    s.torus 0 0 = some 0 ∧ s.clean [1, 2] = true ∧ (0x40 : Word).toNat % 16 = 0 ∧ (0x41 : Word).toNat % 16 ≠ 0 ∧
    good (s.locateAll 1 wantLoad (piecesOf 0x40 16)) = true ∧ (n.channel 0 0).isNone = true ∧
    (n.cls n.cur.core).isSome = true := by decide +kernel

theorem witness_receives :
    let s := world id
    let n : State := { s with tables := s.tables.filter fun e => e.1.tbl != 1 }
    let held : State := { s with rings := [{ ctx := 0, chan := 0, first := 3, held := 1 }] }
    s.available 0 0 = some 0x5001 ∧ s.available 0 1 = some 0x5002 ∧ (0x5002 : Nat) ≠ s.cur.core ∧
    n.available 0 0 = none ∧ (n.channel 0 0).isSome = true ∧ n.bare 0x2B = true ∧ (s.channel 0 0).isSome = true ∧
    (s.channel 0 1).isSome = true ∧ (s.channel 0 5).isNone = true ∧
    good (s.locateAll 1 wantStore (piecesOf 0x40 256)) = true ∧ (s.ring 0 0).held = 0 ∧ 0 < (held.ring 0 0).held := by decide +kernel

/-- The token window of the first launch unit is mapped at the second GiB. -/
def windowed : State :=
  { mappedTo (some 0x020000000000) (world id) with tables := (world id).tables }

theorem witness_tokens :
    let s := { windowed with cur := ab 0x40 0x40000000 windowed.cur }
    s.bare 0x2B = true ∧ s.sendStalls 3 = false ∧ s.clean [1, 2] = true ∧ good (s.readBlock 1 0x40) = true ∧
    (s.tokenPlace 0x40000000).2.isSome = true ∧ (s.tokenPlace 0x80000000).2.isNone = true ∧
    ({ s with cores := [(0x5001, { s.core 0x5001 with retry := List.replicate 8 { msg0 with cls := 3 } })] } : State).sendStalls 3
      = true := by decide +kernel

/-! ### Witnesses: launches, tables, margin -/

/-- A block of one thread with its completion word at 0x20000; UNIT 0, and one that names no unit. -/
theorem witness_launch :
    let b := 2 ^ 64 + 2 ^ 112 + 0x20000 * 2 ^ 256 + 0x40000 * 2 ^ 320
    let s := block (world id) b
    s.bare 0x2C = true ∧ s.clean [1] = true ∧ s.cur.reissue = none ∧
    (match s.readBlock 1 0x40 with
      | (s1, .ok blk) => blk == b && unitOf 5 (bits blk 104 8) == some 0 && !(s1.unit 0).full &&
          s1.completionPlace 0 0x20000 == some 0x20000 && s1.completionPlace 0 0x20001 == none &&
          s1.monitors.isEmpty && s1.plainAt { pa := 0x20000, attr := 0 }
      | _ => false) = true ∧
    unitOf 5 9 = none ∧ ({ s with unit0 := { LaunchUnit.reset with fenced := true } } : State).unit0.fenced = true := by decide +kernel

theorem witness_launch_inv : (block (world id) 5).Inv := by
  show Memory.wf _ = true; decide +kernel

/-- A domain of two members, of which the current thread is one. -/
def domain (arrivals expected : Nat) : State :=
  { onC fun t => { t with dom := t.dom.set 0 0x8000 } with
    domains := [{ ctx := 0, launch := 0, level := 0, num := 0, phase := 0, arrivals := arrivals, expected := expected }] }

theorem witness_barrier :
    let s := domain 0 2
    s.bare 0x2C = true ∧ s.cur.run = .run ∧ s.cur.wait = none ∧ s.cur.reissue = none ∧ s.threads = [] ∧
    s.cur.target = none ∧ s.cur.st stYIELD = false ∧ s.cur.domAt 0 = some 0 ∧ s.cur.domAt 1 = none ∧
    (s.domains.all fun d => d.arrivals + 1 != d.expected) = true ∧
    ((domain 1 2).domains.all fun d => d.is 0 0 0 0 && d.arrivals + 1 == d.expected) = true := by decide +kernel

/-- One launch of two threads. -/
def launched : State :=
  { onC id with launches := [{ ctx := 0, num := 0, n := 2, l := 0, widths := [1, 1, 1, 1], entry := 0, arg := 0,
                               compVa := 0x20000, comp := 0x20000, save := 0, placeSet := 1, placement := 0 }] }

theorem witness_end :
    launched.bare 0x2C = true ∧ launched.cur.storeErrors = [] ∧ launched.hasXfer launched.cur.ref = false ∧
    (launched.launchOf launched.cur).isSome = true ∧ launched.plainAt { pa := 0x20000, attr := 0 } = true := by decide +kernel

theorem witness_end_inv : launched.Inv := rfl

def xfer0 : Xfer :=
  { ref := { ctx := 0, tid := 0 }, ctr := 3, kind := .copy [spot 0x5001, spot 0x5001] [{ pa := 0x40, attr := 0 }, { pa := 0x48, attr := 0 }]
    bytes := 8, count := 2, landed := [], id := 0, irq := false, handler := 0, passed := 0, flags := 0, srcAddr := [0, 0],
    checked := [] }

theorem witness_end_waits :
    ({ onC id with cores := [(0x5001, { CoreSt.reset 0x5001 0 with xfer := some xfer0 })] } : State).hasXfer
      { ctx := 0, tid := 0 } = true := by decide +kernel

/-- TBLW and TBLR of core entry 0 of context 0, from and to 0x20000: s2 = 1. -/
def tabled (b : Word) (f : Thread → Thread) : State :=
  let s := world fun t => f (ab 0x20000 b t)
  { s with cur := ab 0x20000 b s.cur, mem := writeNat s.mem 0x20000 32 (1 + 2 ^ 32 * 0x5002) }

theorem witness_tables :
    let s := tabled 1 sys
    let n := tabled 0x7FFFFFFF00000001 sys
    s.bare 0x2E = true ∧ s.clean [1, 2] = true ∧ s.cur.run = .run ∧ s.cur.dying = false ∧ s.cur.reissue = none ∧
    s.cur.st stSYS = true ∧ (tabled 0 id).cur.st stSYS = false ∧ (tabled 0 id).mayWrite (Selector.ofWord 0) = false ∧
    (tabled 0 id).mayRead (Selector.ofWord 0) = false ∧ good (s.access 0 0x20000 32 wantLoad) = true ∧
    good (s.access 0 0x20000 32 wantStore) = true ∧ (Selector.ofWord 1).exists = true ∧
    (Selector.ofWord 0x7FFFFFFF00000001).exists = false ∧ n.cur.getS 2 = 0x7FFFFFFF00000001 ∧
    s.writeStatus (Selector.ofWord 1) (BitVec.ofNat 256 (1 + 2 ^ 32 * 0x5002)) = 5 ∧
    s.writeStatus (Selector.ofWord 0x500000003) (BitVec.ofNat 256 (1 + 4 * 2 ^ 96)) = 0 ∧
    (Selector.ofWord 0x31).exists = false ∧ (Selector.ofWord 0x31).index < (tableSize (Selector.ofWord 0x31).tbl).1 ∧
    (Selector.ofWord 0x51).cmp = true ∧ (Selector.ofWord 0x51).word ≠ 0 := by decide +kernel

theorem witness_translating :
    let s := tabled 0 sys
    let x : Xfer := { xfer0 with checked := [(0, 2)] }
    s.translating 0 0x20000 0 = false ∧
    ({ s with cores := [(0x5001, { s.core 0x5001 with xfer := some x })] } : State).translating 0 0x20000 0 = true := by decide +kernel

theorem witness_margin :
    let s := onC fun t => { ab 2 0x5002 t with tstat := 0x8000 }
    let q : State := { s with cores := [(0x5002, { CoreSt.reset 0x5002 0 with quarantined := true })] }
    let u : State := { s with cores := [(0x5002, { CoreSt.reset 0x5002 0 with step := 3, top := 9 })] }
    let t : State := { s with cores := [(0x5002, { CoreSt.reset 0x5002 0 with step := 9, top := 9 })] }
    s.bare 0x2F = true ∧ s.clean [1, 2] = true ∧ s.cur.st stSYS = true ∧ s.cur.run = .run ∧ s.cur.dying = false ∧
    s.cur.reissue = none ∧ (s.cls 0x5002).isSome = true ∧ (s.cls 0x5010).isSome = false ∧
    (q.core 0x5002).quarantined = true ∧ (u.core 0x5002).step ≠ (u.core 0x5002).top ∧ (u.core 0x5002).acted = false ∧
    (u.core 0x5002).quarantined = false ∧ (t.core 0x5002).step = (t.core 0x5002).top ∧
    (s.all.all fun t => t.core != 0x5002) = true ∧ (s.core 0x5002).arrivals = [] ∧ (s.core 0x5002).refusals = [] ∧ (world sys).coreInUse 0x5002 = true ∧ (world sys).bare 0x2F = true ∧
    s.coreInUse 0x5002 = false ∧ s.emptied 0x5002 = true ∧ (0x5002 : Nat) ≠ s.cur.core ∧
    (s.counterReg 0x5002 0x200).isSome = true ∧ (s.counterReg 0x5002 0x7FF).isNone = true := by decide +kernel

/-! ### Witnesses: events -/

/-- The core of a state's current thread, changed. -/
def withCore (s : State) (f : CoreSt → CoreSt) : State :=
  { s with cores := assign s.cores s.cur.core (f (s.core s.cur.core)) }

/-- A READY thread in the ready order of its core. -/
def readied : State :=
  let s := onC fun t => { t with run := .ready }
  withCore s fun c => { c with ready := [s.cur.ref] }

theorem witness_bind :
    readied.cur.run ≠ .done ∧
    (readied.all.all fun u => !(u.core == readied.cur.core && u.run == .saved && u.restoredRun)) = true ∧
    (readied.core 0x5001).ready = [readied.cur.ref] ∧ readied.freeSlot 0x5001 = some 0 := by decide +kernel

theorem witness_thread_marks :
    let s : State := { withCore (onC fun t => { t with winInstr := 4096 }) fun c => { c with ready := [{ ctx := 1, tid := 1 }] } with
      dtime := 20000 }
    let u := onC fun t => { t with pending := [{ id := 1, ctr := 2, handler := 0x40 }] }
    let w := onC fun t => { t with run := .waitb, vq := [ventry 0] }
    let x := onT fun t => { t with mq := [{ flags := 1, drains := true, divided := false, tile := none }] }
    s.cur.run = .run ∧ 20000 ≤ s.dtime - s.cur.bindTime ∧ (s.core 0x5001).ready ≠ [] ∧ s.cur.st stYIELD = false ∧
    4096 ≤ s.cur.winInstr ∧ w.cur.run = .waitb ∧ w.cur.vq = [ventry 0] ∧ (ventry 0).left = 0 ∧ w.cur.mq = [] ∧ x.cur.mq.length = 1 ∧ x.cur.vq = [] ∧
    u.cur.pending.length = 1 ∧ u.cur.st stUIE = true ∧ u.cur.st stINUI = false ∧ u.cur.st stINTRAP = false ∧
    u.cur.latch = none ∧ u.cur.reissue = none ∧ u.cur.stall = none := by decide +kernel

theorem witness_member_request :
    let m : List (Option (Nat × Nat) × MemberReply) := [(some (0, 0x5002), .pending), (none, .pending)]
    (grouped fun t => { t with stall := some (.group 3 0 3 0x40 m) }).cur.stall = some (.group 3 0 3 0x40 m) ∧
    m[1]?.map (·.2) = some .pending ∧ (onC id).available 0 0 = none := by decide +kernel

def mig0 : Mig :=
  { dest := 0x5002, src := 0x5001, cause := 0, fwd := 0, sys := false, fixed := false, sched := false, injected := false }

theorem witness_migration :
    let w := world id
    let s : State := { w with cur := { w.cur with run := .transit, mig := some mig0, saveArea := 0x30000 } }
    let r : State := { w with cur := { w.cur with run := .transit, mig := some { mig0 with injected := true }, saveArea := 0x30000 } }
    s.messagesWait s.cur.ref = false ∧ s.engineBusy = false ∧ s.cur.reissue = none ∧ (r.core 0x5002).refusals = [] ∧
    r.vlFits r.cur 0x5002 = true ∧
    (({ s with cur := { s.cur with stall := none } }.disarm).saveAll).2 = true ∧
    (r.core 0x5002).arrivals = [] ∧ r.savingCtx 0 = false ∧ r.serves 0 0x5002 = true ∧ (r.queue 0x5002).length < 64 ∧
    (match State.loadBlock { r with cur := { r.cur with core := 0x5002, priority := 8, mig := none, grantFwd := 0 } } with
      | (q, ok) => ok && !q.cur.convoy.valid && q.cur.wait == none) = true := by
  decide +kernel

theorem witness_arrivals :
    let w := world id
    let b : State := { w with
      cur := { w.cur with run := .saved }, cores := [(0x5002, { CoreSt.reset 0x5002 0 with arrivals := [w.cur.ref] })] }
    (b.core 0x5002).arrivals = [b.cur.ref] ∧ b.cur.run = .saved ∧ (b.queue 0x5002).length < 64 ∧
    (b.core 0x5002).refusals = [] ∧ b.serves 0 0x5002 = true ∧ b.vlFits b.cur 0x5002 = true := by decide +kernel

theorem witness_lazy :
    let s := savable (onV fun t => t.setV 1 { VReg.zero with tag := 0x06, resident := false })
    let k := savable (onV fun t => { t with scAway := true })
    let d : State := { savable (onV fun t => { t with tstat := 0x4000 }) with
      ctxs := [(0, { CtxSt.reset with saving := some { deadline := 0, base := 0, via := none } })] }
    s.cur.run = .run ∧ (s.cur.getV 1).tag ≠ 0 ∧ (s.cur.getV 1).resident = false ∧ s.streaming [1] = false ∧
    s.cls s.cur.core ≠ some .t ∧ (s.saveRead 0x1400 (s.sliceBits s.cur.core / 64)).2.isSome = true ∧
    k.cur.scAway = true ∧ k.cur.scbusy = 0 ∧ d.engineBusy = false ∧ (k.saveRead 0x40 8).2.isSome = true ∧
    d.cur.st stPREQ = true ∧ d.savingCtx 0 = true ∧ d.cur.dying = false ∧ d.cur.reissue = none ∧
    d.cur.stall = none ∧
    d.cur.ref ∉ (d.core d.cur.core).ready ∧ (d.disarm.ageMessages.saveAll).2 = true := by
  decide +kernel

theorem witness_group_grant :
    let s := onV fun t => { t with vq := [ventry 9] }
    s.threads = [] ∧ s.cur.run = .run ∧ s.cur.slot < 8 ∧ s.cur.vq = [ventry 9] ∧ (ventry 9).slots = .each 1 ∧
    (ventry 9).width ≠ 0 ∧ (ventry 9).requests = false ∧ 0 < (ventry 9).left ∧
    s.lanesReady s.cur.core s.cur.slot = true := by decide +kernel

def token0 : Token := { tok := 0, time := 0, src := 0, whole := true }

/-- A unit with a token, for the handler 0 of context 0. -/
def tokened : State :=
  let s := world id
  { s with tables := s.tables ++ [cell 4 0 0 1], unit0 := { LaunchUnit.reset with tokens := [token0] } }

theorem witness_token_events :
    let s := tokened
    let f : State := { s with unit0 := { s.unit0 with tokens := List.replicate 256 token0 } }
    let k : State := { s with tables := [] }
    (0 : Nat) < 2 ∧ (s.unit 0).refused = [] ∧ (s.unit 0).tokens.length < 256 ∧ (f.unit 0).tokens.length = 256 ∧
    (s.unit 0).dead.length < 64 ∧ (s.unit 0).tokens = [token0] ∧ s.inactive 0 = false ∧ tvalid (s.descr 0) = true ∧
    tvalid (s.table 4 0 0 0) = true ∧ (s.unit 0).full = false ∧ tvalid (k.descr 0) = false ∧
    ({ s.unit 0 with fenced := true } : LaunchUnit).full = true := by decide +kernel

/-- A launch at the head of a unit's queue: kernel slot 0 with entry 0, and its one placement on core 0. -/
def requested (started : Bool) : State :=
  let s := world id
  let l : Launch := { ctx := 0, num := 0, n := 2, l := 0, widths := [1, 1, 1, 1], entry := 0, arg := 0, compVa := 0x20000
                      comp := 0x20000, save := 0x40000, placeSet := 1, placement := 0 }
  let r : LaunchReq := { launch := l, source := .thread, started := started, inserted := 0, cores := [0x5001], tpc := 2 }
  { s with tables := s.tables ++ [cell 7 0 0 1, cell 8 0 0 (1 + 2 * 2 ^ 48)], unit0 := { LaunchUnit.reset with queue := [r] } }

theorem witness_launch_events :
    let s := requested false
    let s0 := s.storeAt 12 { pa := 0x20000, attr := 0 } 8 0
    let t := requested true
    ((s.unit 0).queue.map (·.started)) = [false] ∧ s.inactive 0 = false ∧
    ((s.unit 0).queue.map fun r => (s0.plan r.launch (s0.kernelSlot 0 0)).isOk) = [true] ∧
    ((s.unit 0).queue.map fun r => (s0.plan { r.launch with n := 0 } (s0.kernelSlot 0 0)).isOk) = [false] ∧
    ((t.unit 0).queue.map fun r => (r.started, r.cores[r.inserted / r.tpc]?)) = [(true, some 0x5001)] ∧
    t.homeFor 0 0x5001 = some 0x5001 ∧ (t.queue 0x5001).length < 56 ∧ (t.core 0x5001).arrivals = [] ∧
    (t.core 0x5001).refusals = [] := by decide +kernel

theorem witness_transfer_events :
    let s := withCore (onC id) fun c => { c with xfer := some xfer0 }
    let q := withCore (onC id) fun c => { c with streamQ := [xfer0] }
    (q.core 0x5001).xfer = none ∧ (q.core 0x5001).streamQ = [xfer0] ∧ (s.core 0x5001).xfer = some xfer0 ∧
    q.saveWaits 0x5001 = false ∧ s.storeLost 0x40 8 = false ∧ 0 < xfer0.count ∧ 0 ∉ xfer0.landed ∧ xfer0.landed.length + 1 < xfer0.count ∧ s.monitors = [] ∧
    s.plainAt (spot 0x5001) = true ∧ s.region 0x40 = .hbm ∧ (spot 0x5001).attr = 0 ∧
    s.badRange (spot 0x5001).pa 8 = false ∧ xfer0.ref = s.cur.ref ∧ s.cur.run = .run ∧ s.cur.scAway = false ∧
    s.cur.wait = none := by decide +kernel

theorem witness_transfer_inv : (withCore (onC id) fun c => { c with xfer := some xfer0 }).Inv := rfl

def coll0 (seen : List Nat) (seq : Word) : Xfer :=
  { xfer0 with kind := .coll 0 0x0A 0 1 1 0 [spot 0x5001] [spot 0x5001] [spot 0x5001] [] seq seen [] }

theorem witness_collective_events :
    let s (x : Xfer) := withCore (onC id) fun c => { c with xfer := some x }
    ((s (coll0 [] 0)).core 0x5001).xfer = some (coll0 [] 0) ∧ ([spot 0x5001] : List Place)[0]? = some (spot 0x5001) ∧
    (s (coll0 [] 0)).badRange (spot 0x5001).pa 8 = false ∧ (s (coll0 [] 0)).plainAt (spot 0x5001) = true ∧
    readNat (s (coll0 [] 0)).mem (spot 0x5001).pa 8 = 0 ∧ readNat (s (coll0 [] 1)).mem (spot 0x5001).pa 8 ≠ 1 ∧
    collTurn (coll0 [0] 0) 0 = true ∧
    ((withCore (onC id) fun c => { c with streamQ := [coll0 [] 0] }).saveWaits 0x5001 = false) ∧
    (let m : State := { onC fun t => { t with run := .transit, mig := some mig0 } with cores := [] }
     m.saveWaits 0x5001 = true) := by decide +kernel

/-- An all-gather of two ranks with one element each: the local rank is ready, and the flags lie at 0x80. -/
theorem witness_shard :
    let x : Xfer := { xfer0 with
      count := 2
      bytes := 4
      kind := .coll 0 0x0A 0 1 2 0 [spot 0x5001, spot 0x5001] [spot 0x5001, spot 0x5001]
        [{ pa := 0x40, attr := 0 }, { pa := 0x44, attr := 0 }] [{ pa := 0x80, attr := 0 }, { pa := 0x88, attr := 0 }] 5 [0] [] }
    let s := withCore (onC id) fun c => { c with xfer := some x }
    (s.core 0x5001).xfer = some x ∧ ((rankOrder 2 0).filter fun k => [0].contains k && !([] : List Nat).contains k).head? = some 0 ∧
    x.bytes = tagWidth 0x0A / 8 ∧ x.landed.length + 1 < x.count ∧ s.monitors = [] ∧ x.ref = s.cur.ref ∧ s.cur.run = .run ∧
    s.cur.scAway = false ∧ s.cur.wait = none ∧ s.plainAt (spot 0x5001) = true ∧ s.badRange (spot 0x5001).pa 4 = false ∧
    s.region 0x40 = .hbm ∧ s.region 0x80 = .hbm := by decide +kernel

theorem witness_message_events :
    let s : State := { world id with cores := [(0x5002, { CoreSt.reset 0x5002 0 with retry := [{ msg0 with refused := true }] })] }
    let f : State := { s with rings := [{ ctx := 0, chan := 0, first := 0, held := 4 }] }
    s.retryOf 0x5002 0 = [{ msg0 with refused := true }] ∧ msg0.cls ≠ 3 ∧ msg0.dstPkg = s.manifest.package ∧
    (s.route 5 5 2).isSome = true ∧ (s.die 5).cut = false ∧ ((s.channel 0 0).map fun e => (e.cls, e.slots, e.ring, s.corePhys 0 e.dlcore)) =
      some (0, 4, 0x1000, some 0x5001) ∧ 0x1000 + 288 * 4 ≤ s.localBytes 0x5001 ∧ (s.ctxSt 0).isSaved = false ∧
    4 ≤ (f.ring 0 0).held ∧ (s.ring 0 0).held < 4 ∧ s.recvWaiters = [] ∧ s.feWaiters = [] ∧ s.monitors = [] ∧
    s.links.frames = [] := by decide +kernel

theorem witness_frame_room (h : Hop) : (world id).frameRoom h = true := by
  simp [State.frameRoom, world, mapped, mappedTo, onC, lone, State.reset, linkSlots, escapeSlots]

theorem witness_page_walk :
    let q : WalkReq := { ctx := 0, page := 4, core := 0x5001, read := true, write := false }
    let w : State := { world id with
      cores := [(0x5001, { CoreSt.reset 0x5001 0 with misses := [q] })], dies := [(5, { DieSt.reset with walks := [(0, 4)] })] }
    (w.die 5).walking.contains (0, 4) = true ∧ (w.cores.map (·.1)).Nodup ∧ (w.core 0x5001).misses = [q] ∧ q.core = 0x5001 ∧
    (TlbEntry.granting q.read q.write (w.walk 0 0x40000 walkLevels (tfield (w.descr 0) 0x10 8))).isOk = true ∧
    (TlbEntry.granting true true (w.walk 0 0x40000000 walkLevels (tfield (w.descr 0) 0x10 8))).isOk = false ∧
    (w.die 4).walking.contains (0, 4) = false := by decide +kernel

/-- A die with a dirty private copy of line 3 and a dirty coherent line 4, and the hub with a dirty line of the CXL tier. -/
theorem witness_eviction :
    let s : State := { privately with dies := [(5, { DieSt.reset with
      lines := [privLine], l2 := [{ line := 4, valid := 3, dirty := 1, own := true }] })] }
    let h : State := { s with hub := [{ line := 0x10000000000, valid := 1, dirty := 1, own := false }] }
    s.watched (3 * 256) 256 = false ∧ s.priv 5 3 = some privLine ∧ privLine.dirty.getLsbD 0 = true ∧
    (lineIn (s.die 5).l2 4).map (·.dirty) = some 1 ∧ (lineIn h.hub 0x10000000000).map (·.dirty) = some 1 ∧
    (0x1000000000010 : Nat) / 256 = 0x10000000000 := by decide +kernel

theorem witness_core_events :
    let c (f : CoreSt → CoreSt) : CoreSt := withCore (onC id) f |>.core 0x5001
    let win (x : CoreSt) (n : Nat) : BitVec 16 := BitVec.ofNat 16 (min 0xFFFF (x.rplWin.toNat + n))
    let u := c fun c => { c with rplWin := 16, step := 3, top := 9 }
    ((onC id).cls 0x5001).isSome = true ∧ (c fun c => { c with guard := true }).guard = true ∧ (c id).guard = false ∧
    (win (c id) 16).toNat < 17 ∧ 17 ≤ (win u 1).toNat ∧ u.acted = false ∧ u.guard = false ∧ u.step < u.top ∧
    (onC id).emptied 0x5001 = false ∧ (onC id).emptied 0x5002 = true := by decide +kernel

theorem witness_ageing :
    let a : Ageing := { (CoreSt.reset 0x5001 0).age with
      unread := false, plan := { start := 0, top := 0, retire := false, rodly := 100 } }
    a.unread = false ∧ (101 : BitVec 32).toNat * 100 < a.plan.rodly.toNat * 102 ∧
    a.plan.rodly.toNat * 102 ≤ (102 : BitVec 32).toNat * 100 := by decide +kernel

theorem witness_lanes :
    let s (l : LaneGroup) : State := { withCore (onV id) fun c => { c with lanes := c.lanes.set 1 l } with dtime := 1000 }
    (s .active).cls 0x2003 = some .v ∧ (1 : Nat) < 4 ∧ (s .active).lane 0x2003 1 = .active ∧ (s .active).laneIdle 0x2003 1 = true ∧
    (s .active).lanesDown 2 < 112 ∧ (s (.hold 800 false)).lane 0x2003 1 = .hold 800 false ∧ 800 + 200 ≤ (s .active).dtime ∧
    (s (.hold 800 true)).lane 0x2003 1 = .hold 800 true ∧ (s .down).lane 0x2003 1 = .down ∧
    (s .queued).servedAt 2 1100 = 0 ∧ (s .active).dtime % 100 = 0 ∧
    ({ s .queued with dies := [(2, { DieSt.reset with inrush := [(0x2003, 1)] })] } : State).servedAt 2 1100 = 0 := by decide +kernel

theorem witness_lane_wake :
    let s (l : LaneGroup) : State := { withCore (onV fun t => { t with vq := [ventry 9] }) fun c =>
      { c with lanes := c.lanes.set 1 l } with dtime := 1000 }
    (s .down).laneNeeded 0x2003 1 = true ∧ (s (.hold 800 false)).laneNeeded 0x2003 1 = true ∧
    (s .down).lane 0x2003 1 = .down ∧ (s (.hold 800 false)).lane 0x2003 1 = .hold 800 false ∧
    (onV id).laneNeeded 0x2003 1 = false := by decide +kernel

def loan0 : Loan :=
  { id := 4, lender := 1, borrower := 2, sustained := false, units := 3, granted := false, expiry := 1000000, renewed := false
    counted := false }

theorem witness_loans :
    let s : State := { State.reset with loans := [loan0] }
    let c : State := { State.reset with loans := [{ loan0 with granted := true, counted := true }] }
    let b (own : BitVec 16) : DieSt := { DieSt.reset with peak := { own := own, lent := 0, borr := 0 } }
    let q : State := { State.reset with dies := [(1, b 1000), (2, b 0)] }
    (1 : Nat) < 17 ∧ (2 : Nat) < 17 ∧
    0 < min (min 3 (q.short 2 false)) (q.surplus 1 false) ∧ q.sideband 2 1 = true ∧
    q.reachesLender 2 1 false = true ∧ (q.die 1).cut = false ∧ (q.die 2).cut = false ∧ (q.die 1).served = [] ∧
    s.dtime + 10000 < loan0.expiry ∧ (s.die 1).cut = false ∧ (s.die 2).cut = false ∧
    (c.loans.map (·.counted)) = [true] ∧ loan0.expiry ≤ 1000000 + 10000 ∧ loan0.counted = false := by decide +kernel

theorem witness_clock :
    let s := State.reset
    let t : State := { s with throttle := { alarms := 0, active := true, clearSince := 0, settle := none }, dtime := 1000000 }
    s.dtime % 10000 = 0 ∧ (0 : Nat) < clustersOn s.blend 0 ∧ clustersOn s.blend 12 = 0 ∧ s.domains = [] ∧ s.boosts = [] ∧
    s.manifest.boost = none ∧ (2 : BitVec 2) ≠ 3 ∧ s.behind = [] ∧ s.flash.manifest.segments = [] ∧
    t.throttle.active = true ∧ t.throttle.alarms = 0 ∧ t.throttle.clearSince + 1000000 ≤ t.dtime ∧
    s.throttle.active = false := by decide +kernel

/-- R47: CAUSE 4 is not generated, 3 is, and bit 0 of POISON is zero. -/
theorem test_stray_packet :
    packetMalformed (BitVec.ofNat 2304 (4 * 2 ^ 48)) = true ∧ packetMalformed (BitVec.ofNat 2304 (3 * 2 ^ 48)) = false ∧
    packetMalformed (BitVec.ofNat 2304 (2 ^ 200)) = true ∧
    ((State.reset.strayPacket 0x5001 (BitVec.ofNat 2304 (4 * 2 ^ 48))).die 5).next = 1 := by decide +kernel

def frame0 (resends : Nat) : Frame :=
  { link := 3, chan := 2, seq := 7, resends := resends, sent := 0, core := 0, msg := none }

/-- Frames of a link, and what reaches it. Which links lead to which package, and whether a signature verifies, are opaque
constants of Config (log entries 2, 10): no state shows a path to a package beyond a link. -/
theorem witness_links :
    let s : State := { State.reset with links := { State.reset.links with frames := [frame0 2], rxNext := [((3, 1), 4)] } }
    let d : State := { s with links := { s.links with failed := [3] } }
    let l : State := { s with dtime := 10000 }
    let m (p : Nat) : Msg := s.msgOfFrame (p * 2 ^ 16)
    let a : State := { s with links := { s.links with accepted := [(m 0).once] } }
    let n : State := { s with links := { s.links with failed := List.range 16 } }
    let w : State := { world id with rings := [{ ctx := 0, chan := 0, first := 0, held := 4 }] }
    let g (t : State) : Option Frame := t.links.frames.find? fun f => f.link == 3 && f.chan == 2 && f.seq == 7
    s.linkUp 3 = true ∧ d.linkUp 3 = false ∧ (lookup s.links.rxNext (3, 1)).getD 0 = 4 ∧ s.links.frames = [frame0 2] ∧
    g s = some (frame0 2) ∧ g State.reset = none ∧
    (frame0 2).resends < 3 ∧ 3 ≤ (frame0 3).resends ∧ (frame0 2).sent + 10000 ≤ l.dtime ∧
    (lookup l.links.acked 3).getD 0 + 10000 ≤ l.dtime ∧ s.dtime < (frame0 2).sent + 10000 ∧
    s.linkUp 40 = true ∧ ((List.range 12).all fun d => s.linkUp (16 + d)) = true ∧ (m 0).dstPkg = s.manifest.package ∧
    s.links.accepted.contains (m 0).once = false ∧
    a.links.accepted.contains (m 0).once = true ∧ (m 1).dstPkg ≠ s.manifest.package ∧ n.path hubCore (m 1) = none ∧
    (n.core hubCore).retry = [] ∧ (s.msgOfFrame (3 * 2 ^ 60)).cls = 3 ∧ (s.unit 0).refused = [] ∧ (s.unit 0).tokens.length < 256 ∧
    (s.msgOfFrame (3 * 2 ^ 60)).unit = 0 ∧ (s.msgOfFrame (3 * 2 ^ 60)).dstPkg = s.manifest.package ∧
    ((w.channel 0 0).any fun e => e.cls == (w.msgOfFrame 0).cls && decide (e.slots ≤ (w.ring 0 0).held) &&
      w.corePhys 0 e.dlcore == some (w.msgOfFrame 0).dstCore &&
      decide (e.ring + 288 * e.slots ≤ w.localBytes (w.msgOfFrame 0).dstCore)) = true ∧ (w.msgOfFrame 0).chan = 0 ∧
    (BitVec.ofNat 2304 (2 ^ 72)).getLsbD 72 = true ∧ s.region 0x40 = .hbm ∧ s.links.accepted = [] := by decide +kernel

/-- Power states: fast throttle in its settle, a manifest that does not fit, a firmware update under way. -/
theorem witness_power :
    let s := State.reset
    let t (now : Nat) : State := { s with throttle := { s.throttle with settle := some 5000 }, dtime := now }
    let u : State := { s with flash := { s.flash with manifest := { s.flash.manifest with budget := 7000 } } }
    let f : State := { s with unit0 := { LaunchUnit.reset with busy := some 3 } }
    (t 0).throttle.settle = some 5000 ∧ (t 0).dtime % 10000 = 0 ∧ (t 0).dtime < 5000 ∧ 5000 ≤ (t 10000).dtime ∧
    u.flash.manifest.fits = false ∧ f.unit0.cmd = some 3 ∧ s.unit0.cmd ≠ some 3 ∧ s.unit1.cmd ≠ some 3 ∧ s.behind = [] := by
  decide +kernel

theorem witness_unverified (s : State) (h : s.flash.manifest.fits = false) : s.verified = false := by
  simp [State.verified, h]

theorem witness_outside :
    let s := onC id
    let x : State := { mappedTo (some 0x0001000000000000) s with
      manifest := { s.manifest with cxl := [(0x0001000000000000, 4096)] } }
    let f : State := { mappedTo (some (2 ^ 56 + 5 * 2 ^ 42)) s with
      links := { s.links with failed := List.range 16 }, dtime := 100000 }
    let m : Msg := { msg0 with sender := s.cur.ref, dstPkg := 1 }
    let b : State := { s with unit1 := { LaunchUnit.reset with busy := some 3 } }
    (s.unit 0).hostPort = true ∧ (s.die 5).cut = false ∧ 0x40 + 8 ≤ 2 ^ 40 ∧ s.region 0x40 = .hbm ∧
    ({ s with unit0 := { s.unit0 with hostPort := false } } : State).unit0.hostPort = false ∧
    s.region (spot 0x5001).pa = .scratch 0x5001 0x40 ∧ s.feWaiters = [] ∧
    x.region 0x0001000000000000 = .cxl ∧ s.region 0x0001000000000000 ≠ .cxl ∧
    s.region 0x020030000000 = .device ∧ plainRegister 0x020030000000 = true ∧ x.region (256 * 0x10000000000) = .cxl ∧
    plainRegister 0x020000010180 = false ∧ serviceRegister 0x020000010180 = true ∧ serviceRegister 0x40 = false ∧
    (b.unit 1).busy.isSome = true ∧ (b.unit 0).busy = none ∧ (b.unit 1).cmd = some 3 ∧ (s.unit 1).cmd ≠ some 3 ∧
    s.cur.run ≠ .done ∧ (x.physOf 0x40000040).map x.region = some .cxl ∧ s.physOf 0x40 = none ∧
    (f.physOf 0x40000040).map f.region = some (.fabric 5 .hbm) ∧
    f.unreachable f.cur.core 5 = true ∧ f.stranded 0x5001 m = true ∧ s.stranded 0x5001 m = false := by decide +kernel

/-- The package at the other end of fabric link 0 is within reach of core 0x5001, wherever the cabling leads. -/
theorem witness_reachable : (onC id).unreachable 0x5001 (Config.cabling 0) = false := by
  have h : ((onC id).lasting.wayOut 5 0).isSome = true := by decide +kernel
  have e : (onC id).lasting.pathsOut 5 (Config.cabling 0) ≠ [] := by
    obtain ⟨w, hw⟩ := Option.isSome_iff_exists.mp h
    refine List.ne_nil_of_mem (a := w) ?_
    simp only [State.pathsOut, List.mem_filterMap, List.mem_append, List.mem_filter]
    exact ⟨0, Or.inl ⟨⟨by decide, h⟩, by simp⟩, hw⟩
  simp only [State.unreachable, Bool.or_eq_false_iff]
  exact ⟨by decide, List.isEmpty_eq_false_iff.mpr e⟩

theorem witness_outside_inv : (onC id).Inv := rfl

theorem witness_service :
    let s (w : Word) : State := { State.reset with unit0 := { LaunchUnit.reset with busy := some w, svcbuf := 0x20000 } }
    let r : State := { State.reset with unit0 := { LaunchUnit.reset with busy := some 1, recov := true } }
    ([1, 2, 3, 4, 5, 6, 0, 7].all fun w => (s w).unit0.busy == some w) = true ∧ (s 2).unit1.salm = false ∧
    (s 3).unit0.recov = false ∧ (r.unit 0).recov = true ∧ (r.unit 0).busy = some 1 ∧
    (s 6).manifest.text.length ≤ 4096 ∧ (s 4).plainAt { pa := 0x20000, attr := 0 } = true ∧
    (({ DieSt.reset with frozen := true } : DieSt).frozen && !DieSt.reset.dumped) = true := by decide +kernel

theorem witness_service_inv : ({ State.reset with unit0 := { LaunchUnit.reset with busy := some 4 } } : State).Inv := rfl

/-! ### Single steps: expected values worked out by hand from the rules named -/

/-- R161: addition is modulo 2^64. -/
theorem test_add_wraps : (next (exec (.add 3 1 2) (onC (ab (BitVec.allOnes 64) 2)))).cur.getS 3 = 1 := by decide +kernel

/-- R161: the shift count is B modulo 64. -/
theorem test_sll_count : (next (exec (.sll 1 1 2) (onC (ab 3 65)))).cur.getS 1 = 6 := by decide +kernel

/-- R165: the quotient by zero is 0 and the remainder is A. -/
theorem test_divide_by_zero :
    (next (exec (.quoi 3 1 2) (onC (ab 7 0)))).cur.getS 3 = 0 ∧ (next (exec (.remi 3 1 2) (onC (ab 7 0)))).cur.getS 3 = 7 := by
  decide +kernel

/-- R163: LDHI sign-extends its immediate above 16 zeros. -/
theorem test_ldhi : (next (exec (.ldhi 3 0x1FFFFF) (onC id))).cur.getS 3 = 0xFFFFFFFFFFFF0000 := by decide +kernel

/-- R164: BINS keeps the bits of S[d] outside the field. -/
theorem test_bins :
    (next (exec (.bins 2 1 4 8) (onC (ab 0x1AB 0xFFFFF)))).cur.getS 2 = 0xFFABF := by decide +kernel

/-- R167: the immediate of a compare is sign-extended. -/
theorem test_cmplti : (next (exec (.cmplti 1 0 1 0x7FF) (onC (ab 0xFFFFFFFFFFFFFFFE 0)))).cur.getP 1 = true := by decide +kernel

/-- R170: 1.5 + 2.25 = 3.75 in f32. -/
theorem test_fadd : (next (exec (.fadd 3 1 2 0 1) (onC (ab 0x3FC00000 0x40100000)))).cur.getS 3 = 0x40700000 := by decide +kernel

/-- R142, R170: 1 / 0 is infinity with DZ. -/
theorem test_fdiv :
    let t := next (exec (.fdiv 3 1 2 0 1) (onC (ab 0x3F800000 0)))
    t.cur.getS 3 = 0x7F800000 ∧ t.cur.tstat.getLsbD 1 = true := by decide +kernel

/-- R172: a branch offset counts instructions from the branch. -/
theorem test_br : (next (exec (.br 0 0 0x3FFFFF) (onC fun t => { t with pc := 0x40 }))).cur.pc = 0x3C := by decide +kernel

/-- R174: CALLR reads A before it writes the link. -/
theorem test_callr :
    let t := next (exec (.callr 1 1) (onC fun t => { ab 0x83 0 t with pc := 0x40 }))
    t.cur.pc = 0x80 ∧ t.cur.getS 1 = 0x44 := by decide +kernel

/-- R71: a poisoned source poisons the result. -/
theorem test_poison :
    (next (exec (.add 3 1 2) (onC fun t => { t with poison := 2 }))).cur.poisonedS 3 = true := by decide +kernel

/-- R121, R247, R272: a breakpoint enters the handler. -/
theorem test_brk :
    let t := next (exec .brk (onC fun t => { t with pc := 0x44 }))
    t.cur.trcause = 0x0D ∧ t.cur.trpc = 0x44 ∧ t.cur.pc = 0x1000 ∧ t.cur.st stINTRAP = true := by decide +kernel

/-- R335: a sign-extending load of a stored byte. -/
theorem test_store_load :
    let s := next (exec (.st 2 1 0 1 0) (onC (ab 0x40 0x180)))
    readByte s.mem (windowBase 0x5001 + 0x40) = 0x80 ∧
    (next (exec (.ld 3 1 4 1 0) s)).cur.getS 3 = 0xFFFFFFFFFFFFFF80 := by decide +kernel

/-- R250, R332: a misaligned load raises code 8 with the address. -/
theorem test_misaligned :
    let t := next (exec (.ld 3 1 2 1 0) (onC (ab 0x42 0)))
    t.cur.trcause = 8 ∧ t.cur.trval = 0x42 := by decide +kernel

/-- R338: an atomic gives the old value and stores the sum. -/
theorem test_atadd :
    let s := next (exec (.atadd 3 1 2 0 0 1 1) (onC (ab 0x40 5)))
    s.cur.getS 3 = 0 ∧ (next (exec (.atadd 3 1 2 0 0 1 1) s)).cur.getS 3 = 5 := by decide +kernel

/-- R185: VLMAX of 16-bit elements in a whole V-core is 512. -/
theorem test_setvl : (next (exec (.setvl 3 1 6) (onV (ab 4000 0)))).cur.vl = 512 := by decide +kernel

/-- R189: n16 with i16 gives i16; 9 − 16 wraps. -/
theorem test_vadd :
    let t := next (exec (.vadd 5 1 2 0 0) (onV vecs))
    (t.cur.getV 5).tag = 0x02 ∧ elemOf (t.cur.getV 5).bits 16 2 = 0xFFF9 ∧ elemOf (t.cur.getV 5).bits 16 3 = 0 := by
  decide +kernel

/-- R85: a disabled element is zeroed under ZM. -/
theorem test_vadd_masked :
    let t := next (exec (.vadd 1 1 2 0 0) (onV fun t => masked (vecs t)))
    elemOf (t.cur.getV 1).bits 16 0 = 0xFFF9 ∧ elemOf (t.cur.getV 1).bits 16 1 = 0 ∧
    elemOf (t.cur.getV 1).bits 16 2 = 0xFFF9 := by decide +kernel

/-- R191: 1.0 + 2.0 in f32. -/
theorem test_vfadd : elemOf ((next (exec (.vfadd 5 3 4 0 0) (onV vecs))).cur.getV 5).bits 32 1 = 0x40400000 := by decide +kernel

/-- R210: a slide up leaves FILL below its count. -/
theorem test_vslideup :
    let t := next (exec (.vslideup 5 1 1 2) (onV fun t => { vecs t with vfill := 0x12345 }))
    elemOf (t.cur.getV 5).bits 16 0 = 0x2345 ∧ elemOf (t.cur.getV 5).bits 16 1 = 9 := by decide +kernel

/-- R213: the sum of three nines and S[b] = 6. -/
theorem test_vredsum : (next (exec (.vredsum 3 1 2 0) (onV vecs))).cur.getS 3 = 33 := by decide +kernel

/-- R181: with `vl` = 0 a vector instruction has no effect but to complete. -/
theorem test_vl_zero : (next (exec (.vadd 5 1 2 0 0) (onV fun t => { vecs t with vl := 0 }))).cur.getV 5 = VReg.zero := by
  decide +kernel

/-- R217: MSOF marks the first set bit. -/
theorem test_msof :
    let t := next (exec (.msof 2 1) (onV fun t => { t with m := t.m.set 1 6, vl := 4 }))
    (t.cur.getM 2).getLsbD 1 = true ∧ (t.cur.getM 2).getLsbD 2 = false := by decide +kernel

/-- R338, R343: a vector atomic on one granule by unit stride. -/
theorem test_vatadd :
    let t := next (exec (.vatadd 3 1 0 0 0 0 0) (vlocal (vec 3 3 3 0x03 7)))
    elemOf (t.cur.getV 3).bits 32 1 = 0 ∧ readNat t.mem (windowBase 0x2003 + 0x44) 4 = 7 := by decide +kernel

/-- R239: TRDACC reads an accumulator, here after TZERO. -/
theorem test_trdacc :
    (next (exec (.trdacc 3 0 2) (next (exec .tzero0 (tiled id))))).cur.getS 3 = 0 := by decide +kernel

/-- R399: BAR at a level without a domain goes on. -/
theorem test_bar : (next (exec .bar1 (onC id))).cur.pc = 4 := by decide +kernel

/-- R57: the END of the only thread of a launch of two counts 1 and is not DONE. -/
theorem test_end :
    let t := next (exec .endT launched)
    t.cur.run = .done ∧ readNat t.mem 0x20000 8 = 1 := by decide +kernel

/-- R392: RECVT at an empty ring gives 0x200, and at no channel 0x400. -/
theorem test_recvt :
    (next (exec (.recvt 3 1 0 0 1) (world id))).cur.getS 3 = 0x200 ∧
    (next (exec (.recvt 3 1 0 5 1) (world id))).cur.getS 3 = 0x400 := by decide +kernel

/-- R397: LAUNCH without a usable completion word gives ERR 5 and bit 63. -/
theorem test_launch : (next (exec (.launch 3 1 1) (block (world id) (2 ^ 256)))).cur.getS 3 = 0x8000050000000000 := by decide +kernel

/-- FIPS 180-4, its example of one block: the digest of "abc", its first byte in the low bits. -/
theorem test_sha256 :
    (bigEndian (sha256 [0x61, 0x62, 0x63]).toNat 32).reverse =
      bigEndian 0xBA7816BF8F01CFEA414140DE5DAE2223B00361A396177A9CB410FF61F20015AD 32 := by decide +kernel

/-! ### Litmus tests of R331 -/

def who (k : Nat) : Party := .thread { ctx := 0, tid := k }

/-- The byte of a location: x is 0, y is 2, z is 4. -/
def at' (n : Nat) : Loc := { die := none, nibble := n }

/-- A plain access; every agent is in its instances. -/
def acc (t po : Nat) (r w : List (Loc × Nat)) : Event :=
  { kind := .access, who := who t, po := some po, elem := 0, sem := .ofFields 0 0 0, inst := (List.range 4).map who
    elemInst := (List.range 4).map who, device := false, early := false, reads := r, writes := w, deps := [] }

def St (t po loc v : Nat) : Event := acc t po [] [(at' loc, v)]

def Ld (t po loc v : Nat) : Event := acc t po [(at' loc, v)] []

/-- With release, or acquire, at a scope whose instance is a list of threads. -/
def rel (l : List Nat) (e : Event) : Event := { e with sem := .ofFields 4 2 0, inst := l.map who }

def acq (l : List Nat) (e : Event) : Event := { e with sem := .ofFields 4 1 0, inst := l.map who }

/-- F.ar.dev. -/
def fence (t po : Nat) : Event := { acc t po [] [] with kind := .fence, sem := .ofFields 4 3 0 }

/-- An execution: who reads from whom, and the orders of the writes. -/
def run (evs : List Event) (rf : List (Nat × Nat × Nat)) (co : List (Nat × List Nat)) : Execution :=
  { events := evs, init := [(at' 0, 0), (at' 2, 0)], rf := rf.map fun e => ((e.1, at' e.2.1), some e.2.2)
    co := co.map fun e => (at' e.1, e.2), sync := [] }

def all4 : List Nat := [0, 1, 2, 3]

/-- Message passing with chosen semantics. -/
def mp (f g : Event → Event) : Execution :=
  run [St 0 0 0 1, f (St 0 1 2 1), g (Ld 1 0 2 1), Ld 1 1 0 0] [(2, 2, 1)] [(0, [0]), (2, [1])]

theorem litmus_message_passing :
    (mp id id).allowed = true ∧ (mp (rel all4) (acq all4)).allowed = false ∧ (mp (rel [0]) (acq [1])).allowed = true ∧
    (mp (rel [0, 1]) (acq [0, 1])).allowed = false := by decide +kernel

theorem litmus_store_buffering :
    (run [St 0 0 0 1, Ld 0 1 2 0, St 1 0 2 1, Ld 1 1 0 0] [] [(0, [0]), (2, [2])]).allowed = true ∧
    (run [St 0 0 0 1, fence 0 1, Ld 0 2 2 0, St 1 0 2 1, fence 1 1, Ld 1 2 0 0] [] [(0, [0]), (2, [3])]).allowed = false := by
  decide +kernel

def lb (d : List Nat) (e : List Nat) : Execution :=
  run [Ld 0 0 0 1, { St 0 1 2 1 with deps := d }, Ld 1 0 2 1, { St 1 1 0 1 with deps := e }] [(0, 0, 3), (2, 2, 1)]
    [(0, [3]), (2, [1])]

theorem litmus_load_buffering : (lb [] []).allowed = true ∧ (lb [0] [2]).allowed = false := by decide +kernel

theorem litmus_coherence :
    (run [St 0 0 0 1, Ld 1 0 0 1, Ld 1 1 0 0] [(1, 0, 0)] [(0, [0])]).allowed = false ∧
    (run [St 0 0 0 1, Ld 1 0 0 0, Ld 1 1 0 1] [(2, 0, 0)] [(0, [0])]).allowed = true := by decide +kernel

def wrc (l : List Nat) : Execution :=
  run [St 0 0 0 1, Ld 1 0 0 1, rel l (St 1 1 2 1), acq l (Ld 2 0 2 1), Ld 2 1 0 0] [(1, 0, 0), (3, 2, 2)] [(0, [0]), (2, [2])]

theorem litmus_write_to_read : (wrc all4).allowed = false ∧ (wrc [1, 2]).allowed = true := by decide +kernel

def iriw (f : Event → Event) : Execution :=
  run [St 0 0 0 1, St 1 0 2 1, f (Ld 2 0 0 1), Ld 2 1 2 0, f (Ld 3 0 2 1), Ld 3 1 0 0] [(2, 0, 0), (4, 2, 1)]
    [(0, [0]), (2, [1])]

theorem litmus_independent_reads : (iriw (acq all4)).allowed = false ∧ (iriw id).allowed = true := by decide +kernel

/-- A vector store of 1 to x and y, .rel.dev, with .o or without. -/
def vmp (o : BitVec 1) : Execution :=
  let e (k loc : Nat) : Event := { St 0 0 loc 1 with elem := k, sem := .ofFields 4 2 o }
  run [e 0 0, e 1 2, acq all4 (Ld 1 0 2 1), Ld 1 1 0 0] [(2, 2, 1)] [(0, [0]), (2, [1])]

theorem litmus_vector : (vmp 0).allowed = true ∧ (vmp 1).allowed = false := by decide +kernel

/-- Two elements of one store to x: 5, then 7, read after a BAR. -/
def twice (o : BitVec 1) (v w : Nat) (order : List Nat) : Execution :=
  let e (k v : Nat) : Event := { St 0 0 0 v with elem := k, sem := .ofFields 0 0 o }
  { run [e 0 5, e 1 7, Ld 1 2 0 v] [(2, 0, w)] [(0, order)] with sync := [.barrier [(who 0, 1), (who 1, 1)]] }

theorem litmus_duplicate_element :
    (twice 0 5 0 [1, 0]).allowed = true ∧ (twice 0 7 1 [0, 1]).allowed = true ∧ (twice 1 7 1 [0, 1]).allowed = true ∧
    (twice 1 5 0 [1, 0]).allowed = false ∧ (twice 1 5 0 [0, 1]).allowed = false := by decide +kernel

/-- The worked example: element 40 of a store of 0xAA performed twice, a store of 0x55, and three ordered loads. -/
def restarted (a b c : Nat) (rf : List Nat) (order : List Nat) : Execution :=
  run [{ St 0 0 0 0xAA with elem := 40, early := true, start := some 32 }, { St 0 0 0 0xAA with elem := 40, start := some 32 }, St 1 0 0 0x55,
      acq all4 (Ld 2 0 0 a), acq all4 (Ld 2 1 0 b), acq all4 (Ld 2 2 0 c)]
    (([3, 4, 5].zip rf).map fun e => (e.1, 0, e.2)) [(0, order)]

theorem litmus_restarted_element :
    (restarted 0xAA 0x55 0xAA [0, 2, 1] [0, 2, 1]).allowed = true ∧
    (restarted 0xAA 0x55 0x55 [0, 2, 2] [0, 1, 2]).allowed = true ∧
    ([[0, 1, 2], [0, 2, 1], [2, 0, 1]].all fun co => [0, 1].all fun w =>
      (restarted 0x55 0xAA 0x55 [2, w, 2] co).allowed == false) = true := by decide +kernel

/-! ### The assembler -/

open Sys2Proof.Asm in
/-- The words of a text, its data section placed at 0x4000_0000. -/
def wordsOf (l : List String) : Option (List (BitVec 32)) :=
  (assembleLines (l.map String.toList)).toOption.bind fun x => x.placeCode 0x40000000

open Sys2Proof.Asm in
def errorOf (l : List String) : Option AsmError :=
  match assembleLines (l.map String.toList) with
  | .ok _ => none
  | .error e => some e

/-- 04_assembly_language.md, the example with its table of words. -/
theorem test_assembler_example :
    wordsOf [".text", "ldhi s9, hi(-65537) ; a comment", "ori s9, s9, lo(-65537)", "addpc s10, 1f", ".align 16",
      "1: addi s11, s10, 4", "end"] =
      some [0x253FFFFE, 0x1529FFFF, 0x29400002, 0xF0000000, 0x0D6A0004, 0xB0000001] := by decide +kernel

/-- 20_programs_sync.md, lines of tlock with the words beside them. -/
theorem test_assembler_listing :
    wordsOf [".text", "ld.b64 s20, 0(s3)", "atadd.b64 s10, (s20), s21", "1: cmpeq p1, s11, s10",
      "waita.b64.acq.dom s11, (s22), s11", "LD.b64.dom.ACQ S11, (s22)"] =
      some [0x8A836000, 0x9554A820, 0x2C8B5000, 0xA5765A61, 0x91760260] := by decide +kernel

/-- R104: the pair takes the address of a .data symbol: 0x4000_0008 is 0x4000 × 65,536 + 8. -/
theorem test_assembler_pair :
    wordsOf [".text", "ldhi s5, hi(x + 4)", "ori s5, s5, lo(x + 4)", ".data", ".word 7", "x: .dword 1"] =
      some [0x24A04000, 0x14A50008] := by decide +kernel

/-- R93, R107, R82, R96, R99, R257, R104: what `oba` rejects. -/
theorem test_assembler_rejects :
    errorOf [".text", "vl: end"] = some .reservedWord ∧
    errorOf [".text", "setvl s1, s2, f32", "vadd v1, v2, v3"] = some .liveRead ∧
    errorOf [".text", "pfx p1, v2", "add s1, s2, s3"] = some .badPair ∧
    errorOf [".text", "addi s1, s2, 32768"] = some .outOfRange ∧
    errorOf [".text", "fence.acq"] = some .missingSuffix ∧
    errorOf [".text", "li s1, x", ".data", "x: .space 4"] = some .dataReference ∧
    errorOf [".text", "ldhi s1, hi(x)", ".data", "x: .space 4"] = some .lonePair ∧
    errorOf [".text", "vld8 v1, 0(s9)"] = some .badOperand ∧
    errorOf [".text", "vst8 v1, (s9)"] = none := by decide +kernel

/-- R107: the companion of VQUANT (R196) and the second destination of a PFX (R85) are writes after the SETVL. -/
theorem test_assembler_writes :
    errorOf [".text", "setvl s1, s2, f32", "vmov v2, s1, f32", "vquant v4, v2, mx8", "vstmx8 v4, (s9)"] = none ∧
    errorOf [".text", "setvl s1, s2, f32", "vmov v2, s1, f32", "pfx p1, v9", "vadd v3, v2, v2", "vadd v1, v9, v2"] = none ∧
    errorOf [".text", "setvl s1, s2, f32", "vmov v2, s1, f32", "pfx p1", "vadd v3, v2, v2", "vadd v1, v9, v2"] =
      some .liveRead := by decide +kernel

/-- R98: suffixes in the order of the table. -/
theorem test_assembler_prints :
    Asm.printSuffixes (["dom", "acq", "b64"].map String.toList) = ".b64.acq.dom".toList := by decide +kernel

/-- R257: a store among the next three eligible instructions, on the same base. -/
theorem test_assembler_restart :
    errorOf [".text", "vld32 v1, (s9)", "vadd v2, v1, v1", "vst32 v2, (s9)"] = some .restartHazard ∧
    errorOf [".text", "vld32 v1, (s9)", "fence.rel.c", "vst32 v1, (s9)"] = none := by decide +kernel

/-- R95: shifts bind looser than sums, and division truncates toward zero. -/
theorem test_assembler_expression :
    wordsOf [".text", ".equ k, -7 / 2", "addi s1, s0, 1 << 2 + 1", "addi s1, s0, k"] = some [0x0C200008, 0x0C20FFFD] := by
  decide +kernel

/-- A store by one thread, a load by another, in this order. -/
theorem witness_sequential_execution :
    ({ events := [St 0 0 0 1, Ld 1 0 0 1], init := [(at' 0, 0)], rf := [((1, at' 0), some 0)], co := [(at' 0, [0])],
       sync := [] } : Execution).sequential = true := by decide +kernel

end Sys2Proof.Tests
end

/-!
PROOFS. SEL with the unassigned words of its major (R169), and CALL (R173).
-/

namespace Sys2Proof.Machine

/-! ### Fields of a word -/

theorem bits_major_of_div {w : BitVec 32} {major : Nat} (h : w.toNat / 2 ^ 26 = major) :
    bits w.toNat 26 6 = major := by
  have := w.isLt
  simp only [bits]
  omega

/-- The decoder's field of a word is the slice of its bits. -/
theorem ofNat_bits_eq_extractLsb' (w : BitVec 32) (lo len : Nat) :
    BitVec.ofNat len (bits w.toNat lo len) = w.extractLsb' lo len := by
  apply BitVec.eq_of_toNat_eq
  simp [bits, Nat.shiftRight_eq_div_pow]

theorem decode_of_candidate {w : BitVec 32} {i : Instr} (hrow : candidate w.toNat = some i)
    (hwell : wellFormed i = true) : decode w = .ok i := by
  simp [decode, hrow, hwell]

/-- An unassigned word has the fate of its major (R65). -/
theorem decode_of_no_candidate {w : BitVec 32} (hrow : candidate w.toNat = none) :
    decode w = .error (fateOf w.toNat) := by
  simp [decode, hrow]

/-- The byte displacement of a word offset (R172, R173). -/
theorem sext_shiftLeft_two {n : Nat} (i : BitVec n) : sext i <<< (2 : Nat) = BitVec.ofInt 64 (i.toInt * 4) := by
  rw [sext, BitVec.signExtend, BitVec.shiftLeft_eq_mul_twoPow, BitVec.ofInt_mul]
  rfl

/-! ### Unassigned words -/

/-- Outside the vector majors a word that is passed is as one that retires: `vesr` is kept in both. -/
theorem passed_eq_retired {s : State} {major : Nat} (h : vectorMajor major = false) :
    s.passed major = s.retired major := by
  have hkeeps : s.cur.pass major = s.cur.advance major (s.cur.pc + 4) := by
    simp only [Thread.pass, Thread.advance, Thread.retire, h]
    cases s.cur.reissue <;> rfl
  simp only [State.passed, State.retired, State.retiredAt, hkeeps]

theorem latch_eq_none_of_bare {s : State} {major : Nat} (h : s.bare major = true) : s.cur.latch = none := by
  simp only [State.bare, Bool.and_eq_true, Option.isNone_iff_eq_none] at h
  obtain ⟨⟨-, hlatch⟩, -⟩ := h
  exact hlatch

theorem onClass_of_bare {s : State} {major : Nat} (h : s.bare major = true) : s.onClass major = true := by
  simp only [State.bare, Bool.and_eq_true] at h
  obtain ⟨⟨hclass, -⟩, -⟩ := h
  exact hclass

/-- Where neither its class nor a prefix stops it, an unassigned word meets its fate (R68). -/
theorem exec_unassignedEncoding_bare {s : State} {w : BitVec 32} {f : Fate} {major : Nat}
    (hm : bits w.toNat 26 6 = major) (hb : s.bare major = true) (hd : decode w = .error f) :
    exec (.unassignedEncoding w) s = (s.fate w f).out major := by
  have hclass := onClass_of_bare hb
  show execUnassignedEncoding w s = _
  cases hk : s.cls s.cur.core with
  | none => simp [State.onClass, hk] at hclass
  | some k =>
    have hin : inMark major k = true := by simpa [State.onClass, hk] using hclass
    simp [execUnassignedEncoding, hm, hd, hk, latch_eq_none_of_bare hb, hin]

/-- A poison fate without a prefix sets one poison bit and passes (R69). -/
theorem exec_unassignedEncoding_poisonS {s : State} {w : BitVec 32} {d : BitVec 5} {major : Nat}
    (hm : bits w.toNat 26 6 = major) (hb : s.bare major = true) (hd : decode w = .error (.poisonS d)) :
    exec (.unassignedEncoding w) s = .next ({ s with cur := s.cur.poisonS d }.passed major) := by
  rw [exec_unassignedEncoding_bare hm hb hd]
  simp [State.fate, State.poisonS2, latch_eq_none_of_bare hb]

/-! ### SEL (R169) -/

theorem encode_sel_toNat (d a b : BitVec 5) (c : BitVec 3) : (encode (.sel d a b c)).toNat =
    0x0E * 2 ^ 26 + d.toNat * 2 ^ 21 + a.toNat * 2 ^ 16 + b.toNat * 2 ^ 11 + c.toNat * 2 ^ 6 := by
  have hword : (encode (.sel d a b c)).toNat =
      0x38000000 + d.toNat * 0x200000 + a.toNat * 0x10000 + b.toNat * 0x800 + c.toNat * 0x40 :=
    Laws.Encoding.toNat_encode (Laws.Encoding.sel d a b c)
  omega

theorem encode_sel_major (d a b : BitVec 5) (c : BitVec 3) : bits (encode (.sel d a b c)).toNat 26 6 = 0x0E := by
  have hword := encode_sel_toNat d a b c
  simp only [bits]
  omega

theorem candidate_major_0E {w : Nat} (h : bits w 26 6 = 0x0E) : candidate w = rows0E w := by
  simp only [candidate, h]

/-- The row of SEL gives back the fields of a word laid out as R169 says. -/
theorem rows0E_of_fields {n : Nat} {d a b : BitVec 5} {c : BitVec 3}
    (h : n = 0x0E * 2 ^ 26 + d.toNat * 2 ^ 21 + a.toNat * 2 ^ 16 + b.toNat * 2 ^ 11 + c.toNat * 2 ^ 6) :
    rows0E n = some (.sel d a b c) := by
  have hzero : bits n 9 2 = 0 ∧ bits n 0 6 = 0 := by simp only [bits]; omega
  have hd : bits n 21 5 = d.toNat := by simp only [bits]; omega
  have ha : bits n 16 5 = a.toNat := by simp only [bits]; omega
  have hb : bits n 11 5 = b.toNat := by simp only [bits]; omega
  have hc : bits n 6 3 = c.toNat := by simp only [bits]; omega
  simp [rows0E, hzero, hd, ha, hb, hc]

theorem decode_encode_sel (d a b : BitVec 5) (c : BitVec 3) :
    decode (encode (.sel d a b c)) = .ok (.sel d a b c) := by
  refine decode_of_candidate ?_ rfl
  rw [candidate_major_0E (encode_sel_major d a b c), rows0E_of_fields (encode_sel_toNat d a b c)]

/-- A nonzero fn, or a nonzero [10:9], is unassigned; with a destination that holds poison, its fate is poison. -/
theorem decode_major_0E_unassigned {w : BitVec 32} (hm : bits w.toNat 26 6 = 0x0E)
    (hbad : w.toNat % 2 ^ 6 ≠ 0 ∨ w.toNat / 2 ^ 9 % 4 ≠ 0) (hd : w.extractLsb' 21 5 ≠ 0) :
    decode w = .error (.poisonS (w.extractLsb' 21 5)) := by
  have hrow : rows0E w.toNat = none := by
    refine if_neg ?_
    simp only [bits]
    omega
  have hfate : fateOf w.toNat = .poisonS (w.extractLsb' 21 5) := by
    simp only [fateOf, hm, ofNat_bits_eq_extractLsb', if_neg hd]
  rw [decode_of_no_candidate (by rw [candidate_major_0E hm, hrow]), hfate]

theorem exec_sel {s : State} (d a b : BitVec 5) (c : BitVec 3) (h : s.runs 0x0E = true) :
    exec (.sel d a b c) s =
      .next ((s.written d (if s.cur.getP c = true then s.cur.getS a else s.cur.getS b) [a, b]).retired 0x0E) := by
  show execSel d a b c s = _
  exact scalarDest_runs (t := s.putS d (if s.cur.getP c = true then s.cur.getS a else s.cur.getS b) [a, b])
    (encode_sel_major d a b c) h rfl

/-- Settles O13: an encoded SEL runs by the shared rule of scalar results; the other words of its major decode to
poison, and passing them is retiring. -/
theorem selectResult : Obligations.SelectResult := by
  unfold Obligations.SelectResult
  intro s
  constructor
  · intro d a b c hruns
    exact ⟨encode_sel_toNat d a b c, decode_encode_sel d a b c, exec_sel d a b c hruns⟩
  · intro w hmajor hbad hbare hd
    have hm := bits_major_of_div hmajor
    rw [exec_unassignedEncoding_poisonS hm hbare (decode_major_0E_unassigned hm hbad hd),
      passed_eq_retired (by decide)]

/-! ### CALL (R173) -/

theorem encode_call_major (d : BitVec 5) (i : BitVec 21) : bits (encode (.call d i)).toNat 26 6 = 0x12 := by
  have hword : (encode (.call d i)).toNat = 0x48000000 + d.toNat * 0x200000 + i.toNat :=
    Laws.Encoding.toNat_encode (Laws.Encoding.call d i)
  simp only [hword, bits]
  omega

/-- Every word of major 0x12 is assigned. -/
theorem decode_major_12 {w : BitVec 32} (hm : bits w.toNat 26 6 = 0x12) :
    decode w = .ok (.call (w.extractLsb' 21 5) (w.extractLsb' 0 21)) := by
  refine decode_of_candidate ?_ rfl
  simp only [candidate, hm, rows12, ofNat_bits_eq_extractLsb']

theorem exec_call {s : State} (d : BitVec 5) (i : BitVec 21) (h : s.runs 0x12 = true) :
    exec (.call d i) s =
      .next ((s.written d (s.cur.pc + 4) []).retiredAt 0x12 (s.cur.pc + BitVec.ofInt 64 (i.toInt * 4))) := by
  show execCall d i s = _
  rw [← sext_shiftLeft_two]
  exact scalarDest_jumps (t := s.putS d (s.cur.pc + 4) []) (encode_call_major d i) h rfl

/-- Without a second destination a result for s0 is dropped (R110). -/
theorem written_zero {s : State} (h : s.cur.latch = none) (v : Word) (srcs : List (BitVec 5)) :
    s.written 0 v srcs = s := by
  have hdrops : s.cur.setS 0 v (srcs.any s.cur.poisonedS) = s.cur := if_pos rfl
  rw [State.written, hdrops, copyS_none h]

/-- Settles O21: the rows of the major are one CALL without fixed bits, which jumps with its link written. -/
theorem callLinks : Obligations.CallLinks := by
  unfold Obligations.CallLinks
  exact ⟨fun w hmajor => decode_major_12 (bits_major_of_div hmajor),
    fun s d i hruns => exec_call d i hruns,
    fun s v hlatch => written_zero hlatch v []⟩

end Sys2Proof.Machine

/-!
PROOFS. BRK and SYSC (R272).
-/

namespace Sys2Proof.Machine

/-! ### Entry to the thread's handler without a convoy and without a prefix (R248) -/

/-- Outside a restart and without a prefix, the four trap registers are written, and PP and PFXL cleared. -/
theorem trapRegs_unprefixed {t : Thread} {x : Trap} {async : Bool} (hstart : x.start = none)
    (hreissue : t.reissue = none) (hlatch : t.latch = none) :
    t.trapRegs x async = ({ t with
      trpc := t.pc &&& ~~~3
      trcause := BitVec.ofNat 64 (x.code + (if x.elem.isSome then 0x100 else 0) + (if async then 0x200 else 0))
      trval := x.val
      trelem := BitVec.ofNat 64 (x.elem.getD 0 % 4096) }.setSt stPP false).setPfxl 0 := by
  simp only [Thread.trapRegs, hstart, hreissue, hlatch, Option.map_none, Option.orElse_none]

/-- The thread that enters its handler for a plain trap. -/
theorem threadTrap_plain {s : State} {code : Nat} {v : Word} (hintrap : s.cur.st stINTRAP = false)
    (hvec : 256 ≤ s.cur.trvec.toNat) (hreissue : s.cur.reissue = none) :
    s.threadTrap (.plain code v) = { s.drain with
      cur := { (s.cur.drain.trapRegs (.plain code v) false).setSt stINTRAP true with
        pc := (s.cur.drain.trapRegs (.plain code v) false).trvec &&& ~~~0xFF } } :=
  threadTrap_enters hintrap hvec (trapEntry_plain rfl hreissue)

/-- Clearing bits that are 0. -/
theorem and_not_of_and_eq_zero {n : Nat} {x m : BitVec n} (h : x &&& m = 0) : x &&& ~~~m = x := by
  ext i hi
  have hbit : (x &&& m)[i] = false := by simp [h]
  rw [BitVec.getElem_and] at hbit
  rw [BitVec.getElem_and, BitVec.getElem_not]
  cases hx : x[i] <;> simp_all

/-- The PC of R248 loses nothing where it is aligned. -/
theorem and_not_three_of_aligned {pc : Word} (h : pc.toNat % 4 = 0) : pc &&& ~~~3 = pc :=
  and_not_of_and_eq_zero (BitVec.eq_of_toNat_eq ((Nat.and_two_pow_sub_one_eq_mod pc.toNat 2).trans h))

/-- What a handler finds after a plain trap without a prefix. -/
theorem threadTrap_plain_registers {s : State} {code : Nat} {v : Word} (hintrap : s.cur.st stINTRAP = false)
    (hvec : 256 ≤ s.cur.trvec.toNat) (hreissue : s.cur.reissue = none) (hlatch : s.cur.latch = none) :
    (s.threadTrap (.plain code v)).cur.trpc = s.cur.pc &&& ~~~3 ∧
    (s.threadTrap (.plain code v)).cur.trcause = BitVec.ofNat 64 code ∧
    (s.threadTrap (.plain code v)).cur.trval = v ∧
    (s.threadTrap (.plain code v)).cur.s = s.cur.s ∧
    (s.threadTrap (.plain code v)).mem = s.mem := by
  rw [threadTrap_plain hintrap hvec hreissue, trapRegs_unprefixed (t := s.cur.drain) rfl hreissue hlatch]
  exact ⟨rfl, rfl, rfl, rfl, drain_mem s⟩

/-! ### BRK and SYSC (R272) -/

theorem encode_brk_major : bits (encode .brk).toNat 26 6 = 0x2D := by decide

theorem encode_sysc_major (a : BitVec 5) : bits (encode (.sysc a)).toNat 26 6 = 0x2D := by
  have hword : (encode (.sysc a)).toNat = 0xB4000004 + a.toNat * 0x10000 :=
    Laws.Encoding.toNat_encode (Laws.Encoding.sysc a)
  simp only [hword, bits]
  omega

theorem exec_brk {s : State} (h : s.bare 0x2D = true) :
    exec .brk s = .next ({ s with failing := none }.trap (.plain 0x0D 0xB4000003)) :=
  plainOp_bare encode_brk_major h

theorem exec_sysc {s : State} {a : BitVec 5} (h : s.bare 0x2D = true) (hclean : s.cur.poisonedS a = false) :
    exec (.sysc a) s = .next ({ s with failing := none }.trap (.plain 0x0E (s.cur.getS a))) := by
  show execSysc a s = _
  rw [execSysc, plainOp_bare (encode_sysc_major a) h, consume_clean (by simpa using hclean), Res.out_trap]

/-- A poisoned source is consumed instead (R72). -/
theorem exec_sysc_poisoned {s : State} {a : BitVec 5} (h : s.bare 0x2D = true) (hpoison : s.cur.poisonedS a = true) :
    exec (.sysc a) s = .next ({ s with failing := none }.trap (.plain 2 (a.setWidth 64))) := by
  show execSysc a s = _
  have hreg : BitVec.ofNat 64 (a.toNat + 0 * 64) = a.setWidth 64 := by simp
  rw [execSysc, plainOp_bare (encode_sysc_major a) h, consume_first hpoison, Res.out_trap, hreg]

/-- Settles O26: each instruction is its plain trap, and BRK's enters the handler with `trpc` at the BRK. -/
theorem breakAndSystemCall : Obligations.BreakAndSystemCall := by
  unfold Obligations.BreakAndSystemCall
  intro s a hbare
  refine ⟨exec_brk hbare, exec_sysc hbare, exec_sysc_poisoned hbare, ?_⟩
  intro hintrap hvec haligned hreissue
  obtain ⟨hpc, hcause, hval, hregs, hmem⟩ := threadTrap_plain_registers (s := { s with failing := none })
    (code := 0x0D) (v := 0xB4000003) hintrap hvec hreissue (latch_eq_none_of_bare hbare)
  exact ⟨_, (exec_brk hbare).trans (by rw [trap_thread rfl]),
    hpc.trans (and_not_three_of_aligned haligned), hcause, hval, hregs, hmem⟩

end Sys2Proof.Machine
